-- ==== Sys2Proof/Word.lean ====
section
/-! DEFINITION. The word types of the Verlux X9 and the canonical 96-bit instruction word without its opcode (R3, R80). -/

namespace Sys2Proof

/-- One byte, the unit of a location (R197). -/
abbrev Byte := BitVec 8

/-- A 32-bit register value (R54). -/
abbrev Word := BitVec 32

/-- A 64-bit value: a register pair, a k register or a buffer pointer (R56, R177). -/
abbrev DWord := BitVec 64

/-- The fields of the canonical word of R80 other than the opcode: the opcode is the constructor of `Instr`. -/
structure Canon where
  /-- [1:0] length code of the external form. -/
  len : BitVec 2
  /-- [13:10] guard: [2:0] predicate, [3] negate. -/
  guard : BitVec 4
  /-- [21:14] destination selector. -/
  d : BitVec 8
  /-- [29:22] first source selector. -/
  a : BitVec 8
  /-- [37:30] second source selector. -/
  b : BitVec 8
  /-- [45:38] third source selector. -/
  c : BitVec 8
  /-- [63:46] modifier bits. -/
  mod : BitVec 18
  /-- [95:64] imm32, 0 where the form carries none (R81). -/
  imm : BitVec 32
  deriving DecidableEq, Repr

/-- A firmware image: the step, the version and the security version of its header, its signature, the rest of the image, over which the signature is made, and all its
bytes (R277). -/
structure Image where
  step : Nat
  version : BitVec 64
  security : Nat
  signature : List Byte
  rest : List Byte
  whole : List Byte
  deriving DecidableEq, Repr

/-- The sender of a remote request (R270): its node, the agent there and the partition that it issues for (R269), and what that agent has observed of this device (R205). -/
structure Sender where
  node : BitVec 22
  who : Nat
  part : Nat
  known : List Nat
  deriving DecidableEq, Repr

/-- The head of a remote answer (R268, R270): destination, source and sequence, the sequences of this device's releases that its read observed, and what releases of
other devices told there (R205). -/
structure AnswerHead where
  dest : BitVec 22
  src : BitVec 22
  seq : BitVec 32
  rels : List Nat
  known : List Nat
  deriving DecidableEq, Repr

/-- The partition for which the companion processor asks, and how many of its notifications it has read (R263, R264). -/
structure HostSide where
  part : Nat
  heard : Nat
  deriving DecidableEq, Repr

/-- A message of BAR.pod (R271): the barrier's number, the node that sends it and the node for which it is bound (R268), whether it reports an arrival or releases, and
what it makes known. -/
structure PodMsg where
  id : Nat
  node : Nat
  dest : Nat
  report : Bool
  known : List Nat
  deriving DecidableEq, Repr

/-- What the other device of a pair says of its PXCH (R273): its node, the node for which it is bound (R268) and its partition, the fields by which the two pair, whether the transfer succeeded, and what that
device has observed of this one. -/
structure PxchSide where
  node : Nat
  dest : Nat
  part : Nat
  tag : Nat
  ll : Nat
  nb : Nat
  hb : Nat
  ok : Bool
  known : List Nat
  deriving DecidableEq, Repr

/-- What a channel has done since (R274): refreshes performed, errors corrected. -/
structure Refreshed where
  run : Nat
  corrected : Nat
  deriving DecidableEq, Repr

end Sys2Proof
end

