-- ==== Sys2Proof/Machine/Bits.lean ====
section
/-! DEFINITION. Byte order and small list helpers (R3, R56, R106). -/

namespace Sys2Proof.Machine

/-- The number whose little-endian bytes are given (R3). -/
def leNat : List Byte → Nat
  | [] => 0
  | b :: bs => b.toNat + 256 * leNat bs

/-- The `n` little-endian bytes of a number (R3). -/
def toLE : Nat → Nat → List Byte
  | 0, _ => []
  | n + 1, v => BitVec.ofNat 8 v :: toLE n (v / 256)

/-- `xs[i]`, or the default beyond its end. -/
def nth {α : Type} (d : α) (xs : List α) (i : Nat) : α := (xs[i]?).getD d

/-- `n` bytes of `bs` from offset `off`, zero beyond the end. -/
def slice (bs : List Byte) (off n : Nat) : List Byte := (List.range n).map fun i => nth 0#8 bs (off + i)

/-- The little-endian field of `n` bytes at `off`. -/
def field (bs : List Byte) (off n : Nat) : Nat := leNat (slice bs off n)

/-- Put an element before the first of an ordered list that it need not follow. -/
def insertSorted {α : Type} (le : α → α → Bool) (x : α) : List α → List α
  | [] => [x]
  | y :: ys => if le x y then x :: y :: ys else y :: insertSorted le x ys

/-- A list in order, elements of which neither comes first in the order that they had. -/
def sorted {α : Type} (xs : List α) (le : α → α → Bool) : List α := xs.foldr (insertSorted le) []

/-- Replace the first element that satisfies `p`. -/
def updFirst {α : Type} (p : α → Bool) (f : α → α) : List α → List α
  | [] => []
  | x :: xs => if p x then f x :: xs else x :: updFirst p f xs

/-- The 64-bit value of an even and an odd register (R56). -/
def pair (lo hi : Word) : DWord := hi ++ lo

/-- Bits [31:0] of a pair (R56). -/
def lo32 (v : DWord) : Word := v.setWidth 32

/-- Bits [63:32] of a pair (R56). -/
def hi32 (v : DWord) : Word := (v >>> 32).setWidth 32

/-- Buffer index of a pointer (R177). -/
def ptrBuf (p : DWord) : Nat := p.toNat / 2 ^ 48

/-- Byte offset of a pointer (R177). -/
def ptrOff (p : DWord) : Nat := p.toNat % 2 ^ 48

/-- A buffer pointer from its index and offset (R177). -/
def mkPtr (buf off : Nat) : DWord := BitVec.ofNat 64 ((buf % 2 ^ 16) * 2 ^ 48 + off % 2 ^ 48)

/-- `ea(ptr, disp)` of R286: the offset wraps modulo 2^48, the index stays. -/
def ea (p : DWord) (disp : Int) : DWord := mkPtr (ptrBuf p) (((ptrOff p : Int) + disp) % (2 ^ 48 : Int)).toNat

/-- Clamp an exact integer into a range: `sat` of R121. -/
def clampInt (lo hi x : Int) : Int := if x < lo then lo else if hi < x then hi else x

/-- `sat(x, ifmt)` of R121 for a format of `w` bits. -/
def satInt (sg : Bool) (w : Nat) (x : Int) : Int :=
  if sg then clampInt (-(2 ^ (w - 1) : Int)) (2 ^ (w - 1) - 1) x else clampInt 0 (2 ^ w - 1) x

/-- The integer a bit pattern of `w` bits stands for (R106). -/
def readInt (sg : Bool) (w : Nat) (v : Nat) : Int :=
  let u := v % 2 ^ w
  if sg && decide (2 ^ (w - 1) ≤ u) then (u : Int) - 2 ^ w else u

/-- The low `w` bits of an exact integer (R107). -/
def wrapInt (w : Nat) (x : Int) : Nat := (x % (2 ^ w : Int)).toNat

/-- Bit `i` of a number. -/
def bitOf (v i : Nat) : Bool := v / 2 ^ i % 2 == 1

/-- Bits [hi:lo] of a number. -/
def bitsOf (v hi lo : Nat) : Nat := v / 2 ^ lo % 2 ^ (hi + 1 - lo)

/-- The sum of the bits of a number, over `n` bits. -/
def popCount : Nat → Nat → Nat
  | 0, _ => 0
  | n + 1, v => v % 2 + popCount n (v / 2)

/-- Ceiling division. -/
def ceilDiv (a b : Nat) : Nat := (a + b - 1) / b

/-- Round up to a multiple. -/
def roundUp (a b : Nat) : Nat := ceilDiv a b * b

end Sys2Proof.Machine
end

