-- ==== Sys2Proof/Machine/Num.lean ====
section
/-! DEFINITION. Number formats, exact values, the single rounding and the floating-point flags (R106-R122). -/

namespace Sys2Proof.Machine

/-- The floating-point formats of R108. -/
inductive FF where
  | fp32 | bf16 | fp16 | e4m3 | e5m2 | e2m1
  deriving DecidableEq, Repr

namespace FF

/-- Width in bits (R108, R323). -/
def width : FF → Nat
  | fp32 => 32 | bf16 => 16 | fp16 => 16 | e4m3 => 8 | e5m2 => 8 | e2m1 => 4

/-- Mantissa field width. -/
def mbits : FF → Nat
  | fp32 => 23 | bf16 => 7 | fp16 => 10 | e4m3 => 3 | e5m2 => 2 | e2m1 => 1

/-- Exponent bias. -/
def bias : FF → Nat
  | fp32 => 127 | bf16 => 127 | fp16 => 15 | e4m3 => 7 | e5m2 => 15 | e2m1 => 1

/-- The format has infinities. -/
def hasInf : FF → Bool
  | fp32 => true | bf16 => true | fp16 => true | e5m2 => true | e4m3 => false | e2m1 => false

/-- Bit pattern of the largest finite magnitude. -/
def maxBits : FF → Nat
  | fp32 => 0x7F7FFFFF | bf16 => 0x7F7F | fp16 => 0x7BFF | e5m2 => 0x7B | e4m3 => 0x7E | e2m1 => 0x7

/-- Bit pattern of +infinity, for formats that have it. -/
def infBits : FF → Nat
  | fp32 => 0x7F800000 | bf16 => 0x7F80 | fp16 => 0x7C00 | e5m2 => 0x7C | e4m3 => 0x7E | e2m1 => 0x7

/-- The canonical NaN of R111; +0 for E2M1, which has none (R116). -/
def nanBits : FF → Nat
  | fp32 => 0x7FC00000 | bf16 => 0x7FC0 | fp16 => 0x7E00 | e5m2 => 0x7E | e4m3 => 0x7F | e2m1 => 0

/-- The conversion format code of R323. -/
def ofCode : Nat → Option FF
  | 0 => some fp32 | 1 => some bf16 | 2 => some fp16 | 3 => some e4m3 | 4 => some e5m2 | 5 => some e2m1 | _ => none

end FF

/-- The sticky flags of R62: [0] NV, [1] DZ, [2] OF, [3] UF, [4] NX. -/
abbrev Flags := BitVec 5

/-- Invalid. -/
def NV : Flags := 0b00001#5
/-- Divide by zero. -/
def DZ : Flags := 0b00010#5
/-- Overflow. -/
def OF : Flags := 0b00100#5
/-- Underflow. -/
def UF : Flags := 0b01000#5
/-- Inexact. -/
def NX : Flags := 0b10000#5

/-- A flag when the condition holds. -/
def flagIf (c : Bool) (f : Flags) : Flags := if c then f else 0#5

/-- The rounding modes of R62 and R115. -/
inductive Rm where
  | rne | rz | ru | rd
  deriving DecidableEq, Repr

/-- The mode a two-bit MODE field names (R62). -/
def Rm.ofBits (v : Nat) : Rm := match v % 4 with | 0 => .rne | 1 => .rz | 2 => .ru | _ => .rd

/-- An exact finite value: (-1)^neg * m * 2^e / d; a zero keeps its sign (R121). -/
structure Ex where
  neg : Bool
  m : Nat
  e : Int
  d : Nat
  deriving DecidableEq, Repr

/-- A value of the extended reals with NaN, as `exact` of R121 gives it. -/
inductive FNum where
  | nan
  | inf (neg : Bool)
  | fin (x : Ex)
  deriving DecidableEq, Repr

/-- An exact integer. -/
def Ex.ofInt (x : Int) : Ex := ⟨decide (x < 0), x.natAbs, 0, 1⟩

/-- Exact +0. -/
def Ex.zero : Ex := ⟨false, 0, 0, 1⟩

/-- A power of two. -/
def Ex.pow2 (e : Int) : Ex := ⟨false, 1, e, 1⟩

/-- Exact product (R121). -/
def Ex.mul (x y : Ex) : Ex := ⟨x.neg != y.neg, x.m * y.m, x.e + y.e, x.d * y.d⟩

/-- Exact quotient by a nonzero value. -/
def Ex.div (x y : Ex) : Ex := ⟨x.neg != y.neg, x.m * y.d, x.e - y.e, x.d * y.m⟩

/-- Exact negation. -/
def Ex.negate (x : Ex) : Ex := { x with neg := !x.neg }

/-- Exact sum: a zero result is -0 only when both terms are -0 (R121). -/
def Ex.add (x y : Ex) : Ex :=
  let lo := min x.e y.e
  let nx : Int := x.m * 2 ^ (x.e - lo).toNat * y.d
  let ny : Int := y.m * 2 ^ (y.e - lo).toNat * x.d
  let s : Int := (if x.neg then -nx else nx) + (if y.neg then -ny else ny)
  if s = 0 then ⟨x.m == 0 && y.m == 0 && x.neg && y.neg, 0, 0, 1⟩ else ⟨decide (s < 0), s.natAbs, lo, x.d * y.d⟩

/-- Exact comparison of two finite values. -/
def Ex.cmp (x y : Ex) : Ordering :=
  let lo := min x.e y.e
  let nx : Int := x.m * 2 ^ (x.e - lo).toNat * y.d
  let ny : Int := y.m * 2 ^ (y.e - lo).toNat * x.d
  compare (if x.neg then -nx else nx) (if y.neg then -ny else ny)

/-- Exact product of extended values, and whether it is an invalid operation (R117, R121). -/
def FNum.mul : FNum → FNum → FNum × Bool
  | .nan, _ => (.nan, false)
  | _, .nan => (.nan, false)
  | .inf s, .inf t => (.inf (s != t), false)
  | .inf s, .fin y => if y.m = 0 then (.nan, true) else (.inf (s != y.neg), false)
  | .fin x, .inf t => if x.m = 0 then (.nan, true) else (.inf (x.neg != t), false)
  | .fin x, .fin y => (.fin (x.mul y), false)

/-- Exact sum of extended values, and whether it is an invalid operation (R117, R121). DESIGN CHOICE (log 90): in a sum of several terms a NaN met earlier hides a later
∞ − ∞, which then raises nothing; the spec does not say whether it raises NV. -/
def FNum.add : FNum → FNum → FNum × Bool
  | .nan, _ => (.nan, false)
  | _, .nan => (.nan, false)
  | .inf s, .inf t => if s = t then (.inf s, false) else (.nan, true)
  | .inf s, .fin _ => (.inf s, false)
  | .fin _, .inf t => (.inf t, false)
  | .fin x, .fin y => (.fin (x.add y), false)

/-- Negation of an extended value. -/
def FNum.negate : FNum → FNum
  | .nan => .nan
  | .inf s => .inf (!s)
  | .fin x => .fin x.negate

/-- Magnitude of an extended value. -/
def FNum.abs : FNum → FNum
  | .nan => .nan
  | .inf _ => .inf false
  | .fin x => .fin { x with neg := false }

/-- The value is a NaN. -/
def FNum.isNan : FNum → Bool
  | .nan => true
  | _ => false

/-- The value is finite. -/
def FNum.isFin : FNum → Bool
  | .fin _ => true
  | _ => false

/-- The sign bit of a pattern. -/
def FF.neg (f : FF) (v : Nat) : Bool := bitOf v (f.width - 1)

/-- The magnitude bits of a pattern. -/
def FF.mag (f : FF) (v : Nat) : Nat := v % 2 ^ (f.width - 1)

/-- A pattern of the format is a NaN (R108). -/
def FF.isNan (f : FF) (v : Nat) : Bool :=
  match f with
  | .e2m1 => false
  | .e4m3 => f.mag v == 0x7F
  | _ => decide (f.infBits < f.mag v)

/-- A pattern of the format is a signalling NaN (R111). -/
def FF.isSNan (f : FF) (v : Nat) : Bool :=
  match f with
  | .fp32 | .bf16 | .fp16 => f.isNan v && !bitOf v (f.mbits - 1)
  | _ => false

/-- A pattern of the format is subnormal (R108). -/
def FF.isSub (f : FF) (v : Nat) : Bool := decide (0 < f.mag v) && decide (f.mag v < 2 ^ f.mbits)

/-- The exact value of a bit pattern (R108). -/
def FF.value (f : FF) (v : Nat) : FNum :=
  let s := f.neg v
  let k := f.mag v
  if f.isNan v then .nan
  else if f.hasInf && k == f.infBits then .inf s
  else
    let e := k / 2 ^ f.mbits
    let m := k % 2 ^ f.mbits
    if e = 0 then .fin ⟨s, m, 1 - (f.bias : Int) - f.mbits, 1⟩
    else .fin ⟨s, m + 2 ^ f.mbits, (e : Int) - f.bias - f.mbits, 1⟩

/-- Put a sign on a magnitude pattern. -/
def FF.sign (f : FF) (neg : Bool) (k : Nat) : Nat := if neg then k + 2 ^ (f.width - 1) else k

/-- Round `num/den` to an integer under a mode, for a value of the given sign; the second result says inexact (R115). -/
def roundQuot (mode : Rm) (neg : Bool) (num den : Nat) : Nat × Bool :=
  let q := num / den
  let r := num % den
  let up : Bool :=
    match mode with
    | .rne => decide (den < 2 * r) || (2 * r == den && q % 2 == 1)
    | .rz => false
    | .ru => !neg && r != 0
    | .rd => neg && r != 0
  (if up then q + 1 else q, r != 0)

/-- floor(log2 (num/den)) for a positive quotient. -/
def log2Quot (num den : Nat) : Int :=
  let g : Int := (Nat.log2 num : Int) - Nat.log2 den
  if 0 ≤ g then (if num < den * 2 ^ g.toNat then g - 1 else g)
  else (if num * 2 ^ (-g).toNat < den then g - 1 else g)

/-- Round `num/den * 2^-q`. -/
def roundAt (mode : Rm) (neg : Bool) (num den : Nat) (q : Int) : Nat × Bool :=
  if 0 ≤ q then roundQuot mode neg num (den * 2 ^ q.toNat) else roundQuot mode neg (num * 2 ^ (-q).toNat) den

/-- The overflow result of R116. -/
def FF.overflow (f : FF) (mode : Rm) (sat neg : Bool) : Nat :=
  let toInf : Bool := f.hasInf && !sat &&
    match mode with
    | .rne => true
    | .rz => false
    | .ru => !neg
    | .rd => neg
  f.sign neg (if toInf then f.infBits else f.maxBits)

/-- `round(x, fmt, mode)` of R121 for a finite value, with the flags the rounding meets (R116, R117). -/
def roundFin (f : FF) (mode : Rm) (sat : Bool) (x : Ex) : Nat × Flags :=
  if x.m = 0 then (f.sign x.neg 0, 0#5)
  else
    let num := x.m * 2 ^ x.e.toNat
    let den := x.d * 2 ^ (-x.e).toNat
    let emin : Int := 1 - f.bias
    let e := log2Quot num den
    let q0 : Int := emin - f.mbits
    let q := max (e - f.mbits) q0
    let (n, ix) := roundAt mode x.neg num den q
    let k := n + (q - q0).toNat * 2 ^ f.mbits
    let tiny : Bool := decide (e < emin) && decide ((roundAt mode x.neg num den (e - f.mbits)).1 < 2 ^ (f.mbits + 1) ∨ e + 1 < emin)
    if f.maxBits < k then (f.overflow mode sat x.neg, OF ||| NX)
    else (f.sign x.neg k, flagIf (tiny && ix) UF ||| flagIf ix NX)

/-- `round(x, fmt, mode)` of R121 with the rules of R111 and R116 for NaN and infinity. -/
def roundNum (f : FF) (mode : Rm) (sat : Bool) : FNum → Nat × Flags
  | .nan => (f.nanBits, flagIf (f == .e2m1) NV)
  | .inf s => if f.hasInf && !sat then (f.sign s f.infBits, 0#5) else (f.sign s f.maxBits, NV)
  | .fin x => roundFin f mode sat x

/-- Flush a subnormal input to a zero of its sign (R110). -/
def FF.flushIn (f : FF) (ftz : Bool) (v : Nat) : Nat := if ftz && f.isSub v then f.sign (f.neg v) 0 else v

/-- Flush a subnormal result to a zero of its sign, raising UF and NX (R110). -/
def FF.flushOut (f : FF) (ftz : Bool) (r : Nat × Flags) : Nat × Flags :=
  if ftz && f.isSub r.1 then (f.sign (f.neg r.1) 0, r.2 ||| UF ||| NX) else r

/-- NV for a signalling NaN operand (R117). -/
def FF.snanFlag (f : FF) (v : Nat) : Flags := flagIf (f.isSNan v) NV

/-- a*b + c rounded once, the products and operands in the format (R117, R121). -/
def FF.fma (f : FF) (mode : Rm) (ftz : Bool) (a b c : Nat) : Nat × Flags :=
  let a' := f.flushIn ftz a; let b' := f.flushIn ftz b; let c' := f.flushIn ftz c
  let p := (f.value a').mul (f.value b')
  let s := p.1.add (f.value c')
  let r := f.flushOut ftz (roundNum f mode false s.1)
  (r.1, r.2 ||| f.snanFlag a ||| f.snanFlag b ||| f.snanFlag c ||| flagIf (p.2 || s.2) NV)

/-- a + b rounded once. -/
def FF.add2 (f : FF) (mode : Rm) (ftz : Bool) (a b : Nat) : Nat × Flags :=
  let s := (f.value (f.flushIn ftz a)).add (f.value (f.flushIn ftz b))
  let r := f.flushOut ftz (roundNum f mode false s.1)
  (r.1, r.2 ||| f.snanFlag a ||| f.snanFlag b ||| flagIf s.2 NV)

/-- a - b rounded once. -/
def FF.sub2 (f : FF) (mode : Rm) (ftz : Bool) (a b : Nat) : Nat × Flags :=
  let s := (f.value (f.flushIn ftz a)).add (f.value (f.flushIn ftz b)).negate
  let r := f.flushOut ftz (roundNum f mode false s.1)
  (r.1, r.2 ||| f.snanFlag a ||| f.snanFlag b ||| flagIf s.2 NV)

/-- a * b rounded once. -/
def FF.mul2 (f : FF) (mode : Rm) (ftz : Bool) (a b : Nat) : Nat × Flags :=
  let s := (f.value (f.flushIn ftz a)).mul (f.value (f.flushIn ftz b))
  let r := f.flushOut ftz (roundNum f mode false s.1)
  (r.1, r.2 ||| f.snanFlag a ||| f.snanFlag b ||| flagIf s.2 NV)

/-- Order of two values that are not NaN; -0 and +0 are equal. -/
def FNum.cmp : FNum → FNum → Ordering
  | .inf s, .inf t => if s = t then .eq else if s then .lt else .gt
  | .inf s, _ => if s then .lt else .gt
  | _, .inf t => if t then .gt else .lt
  | .fin x, .fin y => x.cmp y
  | .nan, _ => .eq
  | _, .nan => .eq

/-- minimumNumber and maximumNumber of R120: -0 is less than +0. -/
def FF.minmax (f : FF) (isMax ftz : Bool) (a b : Nat) : Nat × Flags :=
  let a' := f.flushIn ftz a; let b' := f.flushIn ftz b
  let fl := f.snanFlag a ||| f.snanFlag b
  if f.isNan a' && f.isNan b' then (f.nanBits, fl)
  else if f.isNan a' then (b', fl)
  else if f.isNan b' then (a', fl)
  else
    let lessA : Bool :=
      match (f.value a').cmp (f.value b') with
      | .lt => true
      | .gt => false
      | .eq => f.neg a' || !f.neg b'
    (if isMax then (if lessA then b' else a') else (if lessA then a' else b'), fl)

/-- The comparisons of R326: 0 eq, 1 ne, 2 lt, 3 le, 4 gt, 5 ge, 6 num, 7 nan. -/
def FF.compare (f : FF) (code : Nat) (a b : Nat) : Bool :=
  let nan := f.isNan a || f.isNan b
  let o := (f.value a).cmp (f.value b)
  match code with
  | 0 => !nan && o == .eq
  | 1 => nan || o != .eq
  | 2 => !nan && o == .lt
  | 3 => !nan && o != .gt
  | 4 => !nan && o == .gt
  | 5 => !nan && o != .lt
  | 6 => !nan
  | _ => nan

/-- Integer square root: the largest r below 2^(k+1) with r*r <= x. -/
def isqrt : Nat → Nat → Nat → Nat
  | 0, x, r => if (r + 1) * (r + 1) ≤ x then r + 1 else r
  | k + 1, x, r => isqrt k x (if (r + 2 ^ (k + 1)) * (r + 2 ^ (k + 1)) ≤ x then r + 2 ^ (k + 1) else r)

/-- The square root of a non-negative value with d = 1, with a sticky low bit that keeps every rounding to FP32 correct. -/
def Ex.sqrt (x : Ex) : Ex :=
  if x.m = 0 then x
  else
    let t : Int := x.e / 2 - 40
    let n := x.m * 2 ^ (x.e - 2 * t).toNat
    let r := isqrt (Nat.log2 n / 2 + 1) n 0
    ⟨false, 2 * r + (if r * r = n then 0 else 1), t - 1, 1⟩

/-- sqrt rounded once, with the special cases of R128. -/
def fsqrt (mode : Rm) (ftz : Bool) (a : Nat) : Nat × Flags :=
  let a' := FF.fp32.flushIn ftz a
  let fl := FF.fp32.snanFlag a
  match FF.fp32.value a' with
  | .nan => (FF.fp32.nanBits, fl)
  | .inf s => if s then (FF.fp32.nanBits, NV) else (FF.fp32.infBits, fl)
  | .fin x =>
    if x.m = 0 then (a', fl)
    else if x.neg then (FF.fp32.nanBits, NV)
    else FF.fp32.flushOut ftz (roundFin .fp32 mode false x.sqrt)

/-- `sqrt_rn` of R164. -/
def sqrtRn (a : Nat) : Nat := (fsqrt .rne false a).1

/-- Exact quotient of extended values, and whether it is invalid; a zero divisor gives an infinity or NaN (R121). -/
def FNum.quot : FNum → FNum → FNum × Bool
  | .nan, _ => (.nan, false)
  | _, .nan => (.nan, false)
  | .inf _, .inf _ => (.nan, true)
  | .inf s, .fin y => (.inf (s != y.neg), false)
  | .fin x, .inf t => (.fin ⟨x.neg != t, 0, 0, 1⟩, false)
  | .fin x, .fin y =>
    if y.m = 0 then (if x.m = 0 then (.nan, true) else (.inf (x.neg != y.neg), false)) else (.fin (x.div y), false)

/-- `div_rn` of R164. -/
def divRn (a b : Nat) : Nat := (roundNum .fp32 .rne false ((FF.fp32.value a).quot (FF.fp32.value b)).1).1

/-- Round a finite value to an integer under a mode; the second result says inexact (R119). -/
def roundToInt (mode : Rm) (x : Ex) : Int × Bool :=
  let num := x.m * 2 ^ x.e.toNat
  let den := x.d * 2 ^ (-x.e).toNat
  let (n, ix) := roundQuot mode x.neg num den
  (if x.neg then -(n : Int) else n, ix)

/-- Conversion of a value to an integer format, saturating at its ends (R119). -/
def numToInt (mode : Rm) (sg : Bool) (w : Nat) : FNum → Int × Flags
  | .nan => (0, NV)
  | .inf s => (satInt sg w (if s then -(2 ^ 80 : Int) else 2 ^ 80), NV)
  | .fin x =>
    let (v, ix) := roundToInt mode x
    if satInt sg w v = v then (v, flagIf ix NX) else (satInt sg w v, NV)

/-- The E8M0 scale of R112. -/
def e8m0 (e : Nat) : FNum := if e % 256 = 255 then .nan else .fin (Ex.pow2 ((e % 256 : Nat) - 127 : Int))

/-- Conversion between two formats: exact read, one rounding, NV for a signalling NaN (R119). -/
def convert (src dst : FF) (mode : Rm) (sat : Bool) (v : Nat) : Nat × Flags :=
  let r := roundNum dst mode sat (src.value v)
  (r.1, r.2 ||| src.snanFlag v)

end Sys2Proof.Machine
end

