-- ==== Sys2Proof/Machine/OpTable.lean ====
section
/-! DEFINITION. The encoding tables: operand classes of every field, defined modifier values and the use of imm32 (R80-R96, R284-R288 and the encoding rule of every entry). -/

namespace Sys2Proof.Machine

/-- The operand classes of R285 and of the single entries. -/
inductive Cls where
  | zero | g | handle | gk | g2 | p64 | g4 | p | any | val | cv | vw | k
  | kTop (top : Nat) | gkp | pgk | p64ff | p64small | gsmall | lanePar (perm : Nat) | spec | specRW
  deriving DecidableEq, Repr

/-- How an opcode uses imm32 (R284). -/
inductive ImmUse where
  | ff | needed | disp | unused
  deriving DecidableEq, Repr

/-- Selector ranges of R87. -/
def isG (s : Nat) : Bool := decide (s < 0x40)
/-- k selector. -/
def isK (s : Nat) : Bool := decide (0x40 ≤ s) && decide (s < 0x60)
/-- p selector. -/
def isP (s : Nat) : Bool := decide (0x60 ≤ s) && decide (s < 0x68)
/-- vw selector. -/
def isVw (s : Nat) : Bool := decide (0x68 ≤ s) && decide (s < 0x78)
/-- cv selector. -/
def isCv (s : Nat) : Bool := decide (0x78 ≤ s) && decide (s < 0x80)
/-- Special register that R61 does not reserve. -/
def isSpec (s : Nat) : Bool := decide (0x80 ≤ s) && decide (s < 0x9B)
/-- Special register marked RW in R61. -/
def isSpecRW (s : Nat) : Bool := s == 0x91 || s == 0x92 || s == 0x93 || s == 0x97 || s == 0x98
/-- Special register of 64 bits in R61. -/
def isSpec64 (s : Nat) : Bool := s == 0x87 || s == 0x90 || s == 0x95 || s == 0x96
/-- Small immediate. -/
def isSmall (s : Nat) : Bool := decide (0xC0 ≤ s) && decide (s < 0xFF)

/-- The value of a small immediate (R88). -/
def smallVal (s : Nat) : Int := (s : Int) - 0xDF

/-- The parameter of LANEX lies in the set of R40 (R341). -/
def laneParOk (perm : Nat) (v : Int) : Bool :=
  match perm with
  | 0 => v == 1 || v == 2 || v == 4 || v == 8 || v == 16
  | 1 => decide (0 ≤ v) && decide (v ≤ 7)
  | 2 => v == 0
  | _ => decide (0 ≤ v) && decide (v ≤ 31)

/-- Check 7 of R94 for one field: none when it passes, else the reason 6 or 7 (R95). -/
def clsFail (c : Cls) (s : Nat) (imm : Word) : Option Nat :=
  let pairOk : Option Nat := if s % 2 = 0 then none else some 7
  let must (b : Bool) : Option Nat := if b then none else some 6
  match c with
  | .zero => none
  | .g | .handle => must (isG s)
  | .gk => must (isG s || isK s)
  | .g2 => if isG s then pairOk else some 6
  | .p64 => if isG s then pairOk else must (isK s)
  | .g4 => if isG s then (if s % 4 = 0 then none else some 7) else some 6
  | .p => must (isP s)
  | .any => must (isG s || isK s || isP s || isSpec s || isSmall s || s == 0xFF)
  | .val => must (isG s || isK s || isP s || isSpec s || isSmall s)
  | .cv => must (isCv s)
  | .vw => must (isVw s)
  | .k => must (isK s)
  | .kTop top => must (isK s && decide (s ≤ 0x40 + top))
  | .gkp => must (isG s || isK s || isP s)
  | .pgk => must (isG s || isK s || isP s)
  | .p64ff => if isG s then pairOk else must (isK s || isSmall s || s == 0xFF)
  | .p64small => if isG s then pairOk else must (isK s || isSmall s)
  | .gsmall => must (isG s || isSmall s)
  | .lanePar perm => if s == 0xFF then must (laneParOk perm imm.toInt) else must (isSmall s && laneParOk perm (smallVal s))
  | .spec => must (isSpec s)
  | .specRW => must (isSpecRW s)

/-- The g registers a field names (R55, R285). -/
def clsRegs (c : Cls) (s : Nat) : List Nat :=
  if !isG s then []
  else match c with
    | .zero | .cv | .vw | .k | .kTop _ | .p | .spec | .specRW | .lanePar _ => []
    | .g2 | .p64 | .p64ff | .p64small => [s, s + 1]
    | .g4 => [s, s + 1, s + 2, s + 3]
    | _ => [s]

/-- Bits of `m` outside a mask are zero. -/
def within (m mask : Nat) : Bool := Nat.land m mask == m

/-- Classes of d, a, b, c for a long opcode and its mod value. -/
def fieldCls (op m : Nat) : Cls × Cls × Cls × Cls :=
  let b (i : Nat) : Bool := bitOf m i
  let dw : Cls := if b 2 then .p64 else .gk
  let sw : Cls := if b 2 then .p64ff else .any
  let w (c1 c2 c4 : Cls) (n : Nat) : Cls := if n < 3 then c1 else if n = 3 then c2 else c4
  let wd : Cls := w .g .g2 .g4 (m % 8)
  let at64 : Bool := b 5
  let ad : Cls := if at64 then .g2 else .g
  let av : Cls := if at64 then .p64small else .val
  match op with
  | 0x00 | 0x01 | 0x02 | 0x03 | 0x05 | 0x06 | 0x07 | 0x08 => (.gk, .any, .any, .zero)
  | 0x04 => (.gk, .any, .any, .any)
  | 0x09 | 0x0A => (.gk, .zero, .any, .zero)
  | 0x0B | 0x0C | 0x0D => (dw, sw, sw, .zero)
  | 0x0E => (dw, .zero, sw, .zero)
  | 0x0F | 0x10 | 0x11 => (dw, sw, .any, .zero)
  | 0x12 | 0x13 | 0x14 => (.gk, .zero, .any, .zero)
  | 0x15 => (.gk, .any, .any, .zero)
  | 0x16 => (.gk, .any, .any, .any)
  | 0x17 => (dw, sw, sw, .p)
  | 0x18 => (if b 2 then .p64 else .gkp, .zero, sw, .zero)
  | 0x19 => (.gk, .zero, .zero, .zero)
  | 0x1A => (.p64, .zero, .zero, .zero)
  | 0x1B => (.pgk, .any, .any, .zero)
  | 0x1C => (.pgk, .any, .any, .any)
  | 0x1D => (.gk, .any, .any, .zero)
  | 0x1E => (.p64, .p64, .p64ff, .zero)
  | 0x1F => (.gk, .any, .any, .any)
  | 0x20 | 0x21 | 0x22 | 0x24 | 0x25 => (.gk, .any, .any, .zero)
  | 0x23 => (.gk, .any, .any, .any)
  | 0x26 => (.pgk, .any, .any, .zero)
  | 0x27 | 0x28 | 0x2D | 0x2F => (.gk, .zero, .any, .zero)
  | 0x29 => (.gk, .any, .any, if bitsOf m 6 4 = 1 ∨ bitsOf m 6 4 = 2 then .zero else .any)
  | 0x2A => (if b 4 && decide (6 ≤ bitsOf m 7 5) then .p64 else .gk, .zero,
             if !b 4 && decide (6 ≤ bitsOf m 7 5) then .p64small else .any, .zero)
  | 0x2B | 0x2E => (.gk, .any, .any, .any)
  | 0x2C => (.g2, .p64, .p64, .p64)
  | 0x30 => (.gk, .any, .any, .zero)
  | 0x41 => (.zero, .p64, .zero, .zero)
  | 0x42 => (.g2, .zero, .zero, .zero)
  | 0x43 => (.g2, .p64, .zero, .zero)
  | 0x44 => (.zero, .g2, .zero, .zero)
  | 0x48 | 0x49 => (.zero, .zero, .any, .zero)
  | 0x4A | 0x4B => (.zero, .zero, .zero, .cv)
  | 0x4E => (.zero, .p64, .zero, .zero)
  | 0x50 => (.cv, .p64small, .zero, .zero)
  | 0x51 => (.zero, .zero, .cv, .zero)
  | 0x52 => (if m % 4 = 3 then .gk else .pgk, .any, .zero, .cv)
  | 0x53 => (if b 2 then .g2 else .g, if b 2 then .g2 else .g, .lanePar (m % 4), .cv)
  | 0x54 | 0x55 => (.gk, .any, .zero, .cv)
  | 0x60 | 0x62 => (wd, .k, .zero, .zero)
  | 0x61 | 0x63 | 0x64 | 0x65 => (wd, .p64, .gsmall, .zero)
  | 0x66 | 0x67 | 0x68 => (wd, .g, .zero, .zero)
  | 0x69 => (ad, .p64, av, .zero)
  | 0x6A => (ad, .p64, av, av)
  | 0x6B => (ad, .p64, av, if m % 16 = 12 then av else .zero)
  | 0x6C => (.zero, .p64, av, .zero)
  | 0x6E => (.zero, .g2, .gk, .zero)
  | 0x6F => (.zero, .p64, .zero, .zero)
  | 0x80 => (.vw, .g4, .g4, .zero)
  | 0x81 => (.g4, .vw, .zero, .zero)
  | 0x82 | 0x83 => (.g, .any, .vw, if b 0 then .any else .zero)
  | 0x84 => (.vw, .zero, .zero, .zero)
  | 0x85 => (.vw, .vw, .zero, .cv)
  | 0x90 | 0x91 => (.vw, .vw, if bitsOf m 5 4 = 2 then .p64 else .vw, .cv)
  | 0x92 => (.vw, .vw, .vw, .cv)
  | 0x93 => (.zero, .zero, .zero, .cv)
  | 0x94 => (if b 0 then .g else .zero, .zero, .zero, .cv)
  | 0x95 =>
    let n : Cls := if m % 4 = 0 then .any else .val
    (if m % 4 = 1 then .g else .vw, if m % 4 = 2 then .g else .vw, n, n)
  | 0x96 => (.vw, .vw, .zero, .zero)
  | 0xA0 | 0xA1 | 0xA6 => (.vw, .vw, .vw, .cv)
  | 0xA2 | 0xA4 => (.vw, .vw, if b 1 then .g else .zero, .cv)
  | 0xA3 | 0xA8 => (.vw, .vw, .any, .cv)
  | 0xA5 => (.vw, .vw, .zero, .cv)
  | 0xA7 => (.g, .vw, .zero, .cv)
  | 0xB0 | 0xB1 => (.zero, .p64, .zero, .zero)
  | 0xB2 => (.g4, .p64, .zero, .zero)
  | 0xB3 => (.zero, .p64, .p64, .p64)
  | 0xB4 => (.zero, .any, if b 0 then .zero else .any, if b 0 then .zero else .any)
  | 0xB5 => (.g, .p64, .vw, .zero)
  | 0xB6 => (.g, .p64, .p64, .zero)
  | 0xB7 | 0xB8 => (.g, .p64, .vw, .any)
  | 0xB9 => (.g, .p64, .p64, .any)
  | 0xC0 | 0xC1 => (.g, .p64, .p64, .kTop (if b 10 then 28 else 29))
  | 0xC2 | 0xC3 => (.g, .handle, .zero, .zero)
  | 0xC4 => (.p, .handle, .zero, .zero)
  | 0xC5 => (.zero, .handle, .zero, .zero)
  | 0xC6 => (.zero, .g, .any, .any)
  | 0xC7 | 0xC8 => (if b 4 then .p else .zero, .g, .zero, .zero)
  | 0xC9 => (.g, .g, .any, .any)
  | 0xCA => (.g, .gk, .g, .val)
  | 0xCB => (.g, .gk, .g, .zero)
  | 0xD0 => (.g, .g, .vw, .vw)
  | 0xD1 => (.g, .g, .g, .zero)
  | 0xD2 => (.zero, .any, .p64, .zero)
  | 0xD3 => (.g, .p64, if b 1 then .p64 else .zero, .zero)
  | 0xD4 => (.g, if b 0 then .zero else .handle, .zero, .zero)
  | 0xD5 => (.g2, .zero, .zero, .zero)
  | 0xD6 => (.g, .p64, .gk, if b 0 then .p64 else .zero)
  | 0xE0 => (.g, .spec, .zero, .zero)
  | 0xE1 => (.specRW, .zero, .any, .zero)
  | 0xE2 => (.zero, if b 0 then .zero else .p64, if b 0 then .zero else .p64, .zero)
  | 0xE3 => (.zero, if b 0 then .zero else .any, if b 0 then .zero else .any, .zero)
  | 0xE4 => (if m % 16 = 1 then .g else .zero, .zero, if m % 16 = 0 then .p64 else .zero, .zero)
  | _ => (.zero, .zero, .zero, .zero)

/-- Classes of a whole word: CSRR's d depends on the width of the special register named in a (R315). -/
def canonCls (op : Nat) (o : Canon) : Cls × Cls × Cls × Cls :=
  let (d, a, b, c) := fieldCls op o.mod.toNat
  if op = 0xE0 ∧ isSpec64 o.a.toNat then (.g2, a, b, c) else (d, a, b, c)

/-- RM is one of its defined values (R288). -/
def rmOk (v : Nat) : Bool := decide (v ≤ 4)

/-- The mod value is defined for the opcode (R84 and the entry's mod table). -/
def modOk (op m : Nat) : Bool :=
  let b (i : Nat) : Bool := bitOf m i
  match op with
  | 0x00 | 0x01 | 0x02 | 0x04 | 0x05 | 0x09 | 0x0A => within m 0x3
  | 0x03 | 0x06 | 0x07 | 0x08 => within m 0x1
  | 0x0B | 0x0C | 0x0D | 0x0E | 0x0F | 0x17 | 0x18 => within m 0x4
  | 0x10 => within m 0x5
  | 0x11 => within m 0x6
  | 0x15 | 0x19 | 0x40 => within m 0x1
  | 0x1B => within m 0x71 && decide (bitsOf m 6 4 ≤ 5)
  | 0x1C => within m 0xFF
  | 0x1D => within m 0x1F && m % 4 != 3
  | 0x1E => within m 0x13
  | 0x1F => within m 0x7
  | 0x20 | 0x21 | 0x22 | 0x23 | 0x2F | 0x30 => within m 0xF && rmOk (m % 8)
  | 0x24 | 0x25 => within m 0x8
  | 0x26 => within m 0x78
  | 0x27 => within m 0x7F && decide (bitsOf m 6 4 ≤ 6) && rmOk (m % 8) && (m % 8 == 0 || bitsOf m 6 4 == 2)
  | 0x28 =>
    match FF.ofCode (bitsOf m 6 4), FF.ofCode (bitsOf m 9 7) with
    | some d, some s => within m 0x3FF7 && rmOk (m % 8) && decide (bitsOf m 12 10 < 32 / s.width) && (!b 13 || d == .e5m2)
    | _, _ => false
  | 0x29 =>
    match FF.ofCode (bitsOf m 6 4) with
    | some d => within m 0x3C77 && rmOk (m % 8) && d != .fp32 && decide (bitsOf m 12 10 < 16 / d.width) && (!b 13 || d == .e5m2)
    | none => false
  | 0x2A => within m 0x7F7 && rmOk (m % 8) && decide (bitsOf m 10 8 ≤ 5)
  | 0x2B | 0x2C | 0x2E => within m 0x1F && rmOk (m % 8)
  | 0x2D =>
    match FF.ofCode (bitsOf m 6 4) with
    | some f => within m 0x1C70 && decide (bitsOf m 12 10 < 32 / f.width)
    | none => false
  | 0x52 => within m 0x3
  | 0x53 => within m 0x7
  | 0x54 => within m 0x1F && decide (m % 16 ≤ 8) && (!b 4 || m % 16 == 1 || m % 16 == 2)
  | 0x55 => within m 0x3F && decide (m % 16 ≤ 8) && (!b 4 || m % 16 == 1 || m % 16 == 2)
  | 0x56 | 0x57 => within m 0x3F
  | 0x60 => within m 0x7F && decide (m % 8 ≤ 4) && (!b 3 || decide (m % 8 < 2)) && decide (bitsOf m 6 4 ≤ 5)
  | 0x61 => within m 0x1FF && decide (m % 8 ≤ 4) && (!b 3 || decide (m % 8 < 2)) && decide (bitsOf m 6 4 ≤ 5)
  | 0x62 => within m 0x77 && decide (m % 8 ≤ 4) && decide (bitsOf m 6 4 ≤ 5)
  | 0x63 => within m 0x1F7 && decide (m % 8 ≤ 4) && decide (bitsOf m 6 4 ≤ 5)
  | 0x64 => within m 0xFFF && decide (m % 8 ≤ 3) && (!b 3 || decide (m % 8 < 2)) && decide (bitsOf m 6 4 ≤ 5) && decide (bitsOf m 11 9 ≤ 6)
  | 0x65 => within m 0xFF7 && decide (m % 8 ≤ 3) && decide (bitsOf m 6 4 ≤ 5) && decide (bitsOf m 11 9 ≤ 6)
  | 0x66 => within m 0xF && decide (m % 8 ≤ 4) && (!b 3 || decide (m % 8 < 2))
  | 0x67 => within m 0x300F && decide (m % 8 ≤ 4) && (!b 3 || decide (m % 8 < 2))
  | 0x68 => within m 0x7 && decide (m % 8 ≤ 4)
  | 0x69 | 0x6B | 0x6A | 0x6C =>
    let op1 := m % 16
    within m 0x7FF && decide (op1 ≤ (if op = 0x6B then 12 else if op = 0x6A then 0 else 11))
      && (!(op1 == 9 || op1 == 10 || op1 == 11) || bitsOf m 5 4 == 0)
      && (!b 4 || op1 == 4 || op1 == 5)
      && (if bitsOf m 7 6 = 0 then bitsOf m 10 8 == 0 else decide (bitsOf m 10 8 ≤ 5))
      && (op != 0x6C || bitsOf m 7 6 == 0 || bitsOf m 7 6 == 2)
  | 0x6D | 0x6E => decide (m ≤ 6)
  | 0x6F => within m 0x70 && decide (bitsOf m 6 4 ≤ 5)
  | 0x81 => within m 0x1
  | 0x82 => within m 0xEF && (!b 3 || bitsOf m 2 1 == 0) && decide (bitsOf m 7 5 ≤ 4) && (b 3 || bitsOf m 7 5 == 0)
  | 0x83 => within m 0xFF && (!b 3 || bitsOf m 2 1 == 0) && decide (bitsOf m 7 5 ≤ 4) && (b 3 || bitsOf m 7 4 == 0)
  | 0x85 => within m 0x17 && rmOk (m % 8)
  | 0x90 => within m 0x7FF && decide (m % 4 ≤ 1) && (m % 4 == 1 || bitsOf m 3 2 == 0) && bitsOf m 5 4 != 3 && (bitsOf m 5 4 == 1 || bitsOf m 7 6 == 0)
  | 0x91 => within m 0x77FF && decide (m % 4 ≤ 1) && (m % 4 == 1 || bitsOf m 3 2 == 0) && bitsOf m 5 4 != 3 && (bitsOf m 5 4 == 1 || bitsOf m 7 6 == 0)
  | 0x92 => within m 0xFF && decide (m % 4 ≤ 1) && (m % 4 == 1 || bitsOf m 3 2 == 0) && decide (bitsOf m 5 4 ≤ 1) && (bitsOf m 5 4 == 1 || bitsOf m 7 6 == 0)
  | 0x94 => within m 0x1
  | 0x95 =>
    let f := bitsOf m 5 2
    within m 0xFFF && m % 4 != 3 && (if m % 4 = 0 then f == 0 else (decide (1 ≤ f) && decide (f ≤ 4)) || decide (8 ≤ f))
      && bitsOf m 7 6 != 3 && decide (bitsOf m 11 9 ≤ 4)
  | 0xA1 => within m 0x1
  | 0xA2 => within m 0x2
  | 0xA4 => within m 0x3
  | 0xB0 | 0xB1 => within m 0x7
  | 0xB4 | 0xB5 | 0xB7 | 0xB8 => within m 0x1
  | 0xB6 => within m 0x1F && decide (bitsOf m 4 2 ≤ 5) && (!b 0 || bitsOf m 4 2 == 0)
  | 0xC0 | 0xC1 =>
    within m 0x7FFF && m % 4 != 3 && bitsOf m 3 2 != 3 && decide (bitsOf m 6 4 ≤ 5) && decide (bitsOf m 9 7 ≤ 5)
      && (m % 4 == 0 || bitsOf m 6 4 == 0) && (bitsOf m 3 2 == 0 || bitsOf m 9 7 == 0)
      && (if op = 0xC0 then bitsOf m 14 11 == 0 else m % 4 == 1)
  | 0xC3 => within m 0x7
  | 0xC6 => within m 0xF
  | 0xC7 | 0xC8 => within m 0x3F
  | 0xCA | 0xCB | 0xD4 | 0xD6 | 0xE2 | 0xE3 | 0xE4 => within m 0x1
  | 0xD0 => within m 0x7
  | 0xD3 | 0xE1 => decide (m ≤ 2)
  | _ => m == 0

/-- The use of imm32 by a long opcode (R284, R361, R363). -/
def immUse (op m : Nat) : ImmUse :=
  match op with
  | 0x19 | 0x1A | 0x40 | 0x42 => .needed
  | 0x60 | 0x61 | 0x62 | 0x63 | 0x64 | 0x65 | 0x66 | 0x67 | 0x68 | 0x69 | 0x6A | 0x6B | 0x6C | 0x6F | 0xB0 | 0xB1 | 0xCA | 0xD3 => .disp
  | 0x90 | 0x91 | 0x92 => if m % 4 = 1 ∨ bitsOf m 5 4 = 1 then .disp else .unused
  | 0x95 => if m % 4 = 0 then .ff else .disp
  | 0x2C | 0x41 | 0x43 | 0x44 | 0x45 | 0x46 | 0x47 | 0x4A | 0x4B | 0x4C | 0x4D | 0x4E | 0x50 | 0x51 | 0x56 | 0x57 | 0x6D | 0x6E
  | 0x80 | 0x81 | 0x84 | 0x85 | 0x93 | 0x94 | 0x96 | 0xA0 | 0xA1 | 0xA2 | 0xA4 | 0xA5 | 0xA6 | 0xA7
  | 0xB2 | 0xB3 | 0xB5 | 0xB6 | 0xC0 | 0xC1 | 0xC2 | 0xC3 | 0xC4 | 0xC5 | 0xC7 | 0xC8 | 0xCB | 0xD0 | 0xD1 | 0xD4 | 0xD5 | 0xD6
  | 0xE0 | 0xE2 | 0xE4 => .unused
  | _ => .ff

/-- The opcode permits only the guards 0b0000 and 0b1000 (R86). -/
def guardBound (op : Nat) : Bool :=
  [0x51, 0x52, 0x53, 0x54, 0x55, 0x4A, 0x4B, 0x56, 0x57, 0x85, 0x90, 0x91, 0x92, 0x93, 0x94,
   0xA0, 0xA1, 0xA2, 0xA3, 0xA4, 0xA5, 0xA6, 0xA7, 0xA8].contains op

/-- The opcode is assigned (R96). -/
def opAssigned (op : Nat) : Bool :=
  decide (op ≤ 0x30) || (decide (0x40 ≤ op) && decide (op ≤ 0x4E)) || (decide (0x50 ≤ op) && decide (op ≤ 0x57))
    || (decide (0x60 ≤ op) && decide (op ≤ 0x6F)) || (decide (0x80 ≤ op) && decide (op ≤ 0x85))
    || (decide (0x90 ≤ op) && decide (op ≤ 0x96)) || (decide (0xA0 ≤ op) && decide (op ≤ 0xA8))
    || (decide (0xB0 ≤ op) && decide (op ≤ 0xB9)) || (decide (0xC0 ≤ op) && decide (op ≤ 0xCB))
    || (decide (0xD0 ≤ op) && decide (op ≤ 0xD6)) || (decide (0xE0 ≤ op) && decide (op ≤ 0xE4))

/-- Reason and field of an ILLEGAL_ENCODING (R94, R95). -/
structure EncErr where
  reason : Nat
  field : Nat
  deriving DecidableEq, Repr

/-- The first of several field tests that fails. -/
def firstErr : List (Option EncErr) → Option EncErr
  | [] => none
  | some e :: _ => some e
  | none :: rest => firstErr rest

/-- Check 5 for one field: a field marked 0 is zero. -/
def zeroErr (c : Cls) (s : BitVec 8) (field : Nat) : Option EncErr :=
  if c = .zero ∧ s ≠ 0 then some ⟨3, field⟩ else none

/-- Check 7 for one field. -/
def clsErr (c : Cls) (s : BitVec 8) (imm : Word) (field : Nat) : Option EncErr :=
  (clsFail c s.toNat imm).map fun r => ⟨r, field⟩

/-- Checks 4 to 7 of R94 for a long form, in order: none when the word carries no mark. DESIGN CHOICE (log 72): 0xFF in field d is no selector that takes imm32 (R83). -/
def longErr (op : Nat) (o : Canon) : Option EncErr :=
  let m := o.mod.toNat
  let (d, a, b, c) := canonCls op o
  let use := immUse op m
  let hasFf : Bool := o.a == 0xFF#8 || o.b == 0xFF#8 || o.c == 0xFF#8
  firstErr [
    if o.len = 1#2 ∧ use = .needed then some ⟨2, 8⟩ else none,
    if guardBound op ∧ o.guard ≠ 0#4 ∧ o.guard ≠ 8#4 then some ⟨8, 7⟩ else none,
    zeroErr d o.d 1, zeroErr a o.a 2, zeroErr b o.b 3, zeroErr c o.c 4,
    if modOk op m then none else some ⟨9, 5⟩,
    if o.len ≠ 2#2 ∧ o.a = 0xFF#8 then some ⟨5, 2⟩ else none,
    if o.len ≠ 2#2 ∧ o.b = 0xFF#8 then some ⟨5, 3⟩ else none,
    if o.len ≠ 2#2 ∧ o.c = 0xFF#8 then some ⟨5, 4⟩ else none,
    if o.imm ≠ 0 ∧ (use = .unused ∨ (use = .ff ∧ !hasFf)) then some ⟨4, 6⟩ else none,
    clsErr d o.d o.imm 1, clsErr a o.a o.imm 2, clsErr b o.b o.imm 3, clsErr c o.c o.imm 4]

end Sys2Proof.Machine
end

