-- ==== Sys2Proof/Syntax.lean ====
section
/-! DEFINITION. The instructions and events of the Verlux X9: one constructor for each row of spec/opcode_table.json, in its order.
A long opcode (R96) carries the canonical word, a short opcode (R92) the fields of its external form, an event the inputs it brings. -/

namespace Sys2Proof

/-- One step of the machine: an instruction of a thread, or an event of another agent. -/
inductive Instr where
  /-- R334: Adds two 32-bit integer operands, wrapping or saturating, into the destination. -/
  | iadd (o : Canon)
  /-- R92: Short form of IADD with g destination and g first source. -/
  | iaddShort (g : BitVec 4) (d a : BitVec 6) (b : BitVec 8)
  /-- R334: Subtracts the second integer operand from the first into the destination. -/
  | isub (o : Canon)
  /-- R92: Short form of ISUB. -/
  | isubShort (g : BitVec 4) (d a : BitVec 6) (b : BitVec 8)
  /-- R334: Multiplies two integers and keeps the low 32 bits or saturates. -/
  | imul (o : Canon)
  /-- R92: Short form of IMUL. -/
  | imulShort (g : BitVec 4) (d a : BitVec 6) (b : BitVec 8)
  /-- R334: Writes the high half of the exact 64-bit integer product. -/
  | imulh (o : Canon)
  /-- R334: Writes a times b plus c as a 32-bit integer. -/
  | imad (o : Canon)
  /-- R92: Short form of IMAD with c taken from the destination. -/
  | imadShort (g : BitVec 4) (d a : BitVec 6) (b : BitVec 8)
  /-- R334: Divides integers rounding toward zero, giving all ones for division by zero. -/
  | idiv (o : Canon)
  /-- R334: Writes the integer remainder with the sign of the dividend. -/
  | irem (o : Canon)
  /-- R334: Writes the lesser of two integers under the chosen signedness. -/
  | imin (o : Canon)
  /-- R92: Short signed form of IMIN. -/
  | iminShort (g : BitVec 4) (d a : BitVec 6) (b : BitVec 8)
  /-- R334: Writes the greater of two integers under the chosen signedness. -/
  | imax (o : Canon)
  /-- R92: Short signed form of IMAX. -/
  | imaxShort (g : BitVec 4) (d a : BitVec 6) (b : BitVec 8)
  /-- R334: Writes the absolute value of the integer operand. -/
  | iabs (o : Canon)
  /-- R334: Writes the negation of the integer operand. -/
  | ineg (o : Canon)
  /-- R289: Writes the bitwise AND of two operands over 32 or 64 bits. -/
  | and (o : Canon)
  /-- R92: Short form of AND. -/
  | andShort (g : BitVec 4) (d a : BitVec 6) (b : BitVec 8)
  /-- R378: Writes the bitwise OR of two operands. -/
  | or (o : Canon)
  /-- R92: Short form of OR. -/
  | orShort (g : BitVec 4) (d a : BitVec 6) (b : BitVec 8)
  /-- R435: Writes the bitwise XOR of two operands. -/
  | xor (o : Canon)
  /-- R92: Short form of XOR. -/
  | xorShort (g : BitVec 4) (d a : BitVec 6) (b : BitVec 8)
  /-- R377: Writes the bitwise complement of the operand. -/
  | not (o : Canon)
  /-- R403: Shifts the operand left by an amount, giving zero at or beyond the width. -/
  | shl (o : Canon)
  /-- R92: Short form of SHL. -/
  | shlShort (g : BitVec 4) (d a : BitVec 6) (b : BitVec 8)
  /-- R403: Shifts the operand right, logically or arithmetically. -/
  | shr (o : Canon)
  /-- R92: Short form of logical SHR. -/
  | shrUsShort (g : BitVec 4) (d a : BitVec 6) (b : BitVec 8)
  /-- R92: Short form of arithmetic SHR. -/
  | shrSgShort (g : BitVec 4) (d a : BitVec 6) (b : BitVec 8)
  /-- R395: Rotates the operand left or right by an amount modulo the width. -/
  | rot (o : Canon)
  /-- R383: Writes the number of set bits of the operand. -/
  | popc (o : Canon)
  /-- R92: Short form of POPC. -/
  | popcShort (g : BitVec 4) (d : BitVec 6) (b : BitVec 8)
  /-- R308: Writes the count of leading zero bits of the operand. -/
  | clz (o : Canon)
  /-- R299: Writes the operand with its 32 bits reversed. -/
  | brev (o : Canon)
  /-- R297: Extracts a bit field, zero- or sign-extended. -/
  | bfe (o : Canon)
  /-- R297: Inserts bits into a window of the base operand. -/
  | bfi (o : Canon)
  /-- R402: Selects one of two operands by a predicate. -/
  | sel (o : Canon)
  /-- R366: Copies an operand into a g, k or predicate register. -/
  | mov (o : Canon)
  /-- R92: Short form of MOV. -/
  | movShort (g : BitVec 4) (d : BitVec 6) (b : BitVec 8)
  /-- R367: Writes imm32 to a g register or the low half of a k register. -/
  | moviLow (o : Canon)
  /-- R92: Short MOVI of an unsigned count 0 to 255. -/
  | moviShort (g : BitVec 4) (d : BitVec 6) (n : BitVec 8)
  /-- R367: Writes imm32 to bits 63:32 of a pair or k register. -/
  | moviHighHalf (o : Canon)
  /-- R334: Writes 1 or 0 by an integer comparison into a predicate or register. -/
  | iset (o : Canon)
  /-- R92: Short signed less-than ISET into a predicate. -/
  | isetLtSgShort (g : BitVec 4) (p : BitVec 3) (a : BitVec 6) (b : BitVec 8)
  /-- R92: Short equality ISET into a predicate. -/
  | isetEqShort (g : BitVec 4) (p : BitVec 3) (a : BitVec 6) (b : BitVec 8)
  /-- R92: Short unsigned less-than ISET into a predicate. -/
  | isetLtUsShort (g : BitVec 4) (p : BitVec 3) (a : BitVec 6) (b : BitVec 8)
  /-- R92: Short inequality ISET into a predicate. -/
  | isetNeShort (g : BitVec 4) (p : BitVec 3) (a : BitVec 6) (b : BitVec 8)
  /-- R382: Writes a lookup-table function of three truth values. -/
  | plop (o : Canon)
  /-- R380: Adds or subtracts packed narrow integer elements. -/
  | padd (o : Canon)
  /-- R92: Short form of PADD. -/
  | paddShort (g : BitVec 4) (d a : BitVec 6) (b : BitVec 8)
  /-- R335: Adds or subtracts 64-bit values, mainly for buffer pointers. -/
  | iadd64Bit (o : Canon)
  /-- R317: Sums four 8-bit products and a 32-bit addend. -/
  | dp4 (o : Canon)
  /-- R319: Adds two FP32 values with one rounding. -/
  | fadd (o : Canon)
  /-- R92: Short form of FADD. -/
  | faddShort (g : BitVec 4) (d a : BitVec 6) (b : BitVec 8)
  /-- R319: Subtracts two FP32 values with one rounding. -/
  | fsub (o : Canon)
  /-- R92: Short form of FSUB. -/
  | fsubShort (g : BitVec 4) (d a : BitVec 6) (b : BitVec 8)
  /-- R319: Multiplies two FP32 values with one rounding. -/
  | fmul (o : Canon)
  /-- R92: Short form of FMUL. -/
  | fmulShort (g : BitVec 4) (d a : BitVec 6) (b : BitVec 8)
  /-- R319: Computes a times b plus c in FP32 with one rounding. -/
  | ffma (o : Canon)
  /-- R92: Short FFMA with c taken from the destination. -/
  | ffmaShort (g : BitVec 4) (d a : BitVec 6) (b : BitVec 8)
  /-- R120: Writes the IEEE minimumNumber of two FP32 values. -/
  | fmin (o : Canon)
  /-- R92: Short form of FMIN. -/
  | fminShort (g : BitVec 4) (d a : BitVec 6) (b : BitVec 8)
  /-- R120: Writes the IEEE maximumNumber of two FP32 values. -/
  | fmax (o : Canon)
  /-- R92: Short form of FMAX. -/
  | fmaxShort (g : BitVec 4) (d a : BitVec 6) (b : BitVec 8)
  /-- R326: Writes 1 or 0 by a floating-point comparison. -/
  | fset (o : Canon)
  /-- R92: Short less-than FSET into a predicate. -/
  | fsetLtShort (g : BitVec 4) (p : BitVec 3) (a : BitVec 6) (b : BitVec 8)
  /-- R92: Short equality FSET into a predicate. -/
  | fsetEqShort (g : BitVec 4) (p : BitVec 3) (a : BitVec 6) (b : BitVec 8)
  /-- R128: Computes an FP32 special function within its error bound. -/
  | fsf (o : Canon)
  /-- R92: Short reciprocal FSF. -/
  | fsfRcpShort (g : BitVec 4) (d : BitVec 6) (b : BitVec 8)
  /-- R92: Short reciprocal square root FSF. -/
  | fsfRsqrtShort (g : BitVec 4) (d : BitVec 6) (b : BitVec 8)
  /-- R323: Converts one floating-point element between formats. -/
  | fcvt (o : Canon)
  /-- R92: Short FP32 to BF16 conversion. -/
  | fcvtShort (g : BitVec 4) (d : BitVec 6) (b : BitVec 8)
  /-- R323: Converts two FP32 values and packs them into a field of c. -/
  | fcvtPack (o : Canon)
  /-- R337: Converts between integer and floating-point formats. -/
  | icvt (o : Canon)
  /-- R92: Short int32 to FP32 conversion. -/
  | icvtShort (g : BitVec 4) (d : BitVec 6) (b : BitVec 8)
  /-- R381: Packed BF16x2 or FP16x2 fused multiply-add. -/
  | pfma (o : Canon)
  /-- R307: Complex FP32 multiply-add, optionally conjugating b. -/
  | cfma (o : Canon)
  /-- R321: Classifies an element into one of ten floating-point classes. -/
  | fclass (o : Canon)
  /-- R317: Sums two 16-bit float products and an FP32 addend with one rounding. -/
  | dp2 (o : Canon)
  /-- R325: Rounds an FP32 value to an integral FP32 value. -/
  | frnd (o : Canon)
  /-- R325: Scales an FP32 value by a power of two with one rounding. -/
  | fscl (o : Canon)
  /-- R298: Branches by a PC-relative displacement under the guard, voting over the issue group. -/
  | bra (o : Canon)
  /-- R92: Short BRA with a 20-bit word displacement. -/
  | braShort (g : BitVec 4) (disp : BitVec 20)
  /-- R340: Jumps to the offset held in a register. -/
  | jmp (o : Canon)
  /-- R302: Writes the return offset and branches by a displacement. -/
  | callRelative (o : Canon)
  /-- R302: Writes the return offset and branches to a register target. -/
  | callRegister (o : Canon)
  /-- R394: Returns to the offset held in a register pair. -/
  | ret (o : Canon)
  /-- R92: Short RET through g0. -/
  | retShort (g : BitVec 4)
  /-- R318: Ends the thread, which counts as signed and arrived from then on. -/
  | exit (o : Canon)
  /-- R92: Short form of EXIT. -/
  | exitShort (g : BitVec 4)
  /-- R376: Evaluates its guard and changes nothing else. -/
  | nop (o : Canon)
  /-- R92: Short form of NOP. -/
  | nopShort (g : BitVec 4)
  /-- R376: Makes the thread ready again at the fall-through with a new age. -/
  | yield (o : Canon)
  /-- R92: Short form of YIELD. -/
  | yieldShort (g : BitVec 4)
  /-- R422: Raises the TRAP fault with a code. -/
  | trap (o : Canon)
  /-- R300: Raises the BREAK fault with a code. -/
  | brk (o : Canon)
  /-- R356: Team instruction that opens a lane-serialised region. -/
  | lser (o : Canon)
  /-- R356: Leaves a lane-serialised region, letting the next member enter. -/
  | lsend (o : Canon)
  /-- R338: Sets the thread's idempotent region entry to its PC. -/
  | idem (o : Canon)
  /-- R338: Clears the thread's idempotent region entry. -/
  | idemend (o : Canon)
  /-- R241: Blocks the thread until the time base reaches a time. -/
  | waitt (o : Canon)
  /-- R425: Writes a convergence register naming a team. -/
  | tset (o : Canon)
  /-- R426: Team synchronisation with a .core happens-before edge. -/
  | tsign (o : Canon)
  /-- R92: Short form of TSIGN. -/
  | tsignShort (never : Bool) (cv : BitVec 3)
  /-- R431: Team vote returning all, any, uniform or ballot. -/
  | vote (o : Canon)
  /-- R342: Permutes values across the lanes of a lane-complete team. -/
  | lanex (o : Canon)
  /-- R424: Team reduction in ascending lane order. -/
  | tred (o : Canon)
  /-- R424: Team inclusive or exclusive scan in ascending lane order. -/
  | tscan (o : Canon)
  /-- R295: Arrives at a barrier and waits for its generation to complete. -/
  | bar (o : Canon)
  /-- R92: Short BAR at .core scope. -/
  | barCoreShort (never : Bool) (id : BitVec 4)
  /-- R295: Records an arrival at a barrier without waiting. -/
  | barArrive (o : Canon)
  /-- R348: Plain load from a k-register buffer pointer plus displacement. -/
  | ldKBase (o : Canon)
  /-- R92: Short 32-bit load from k base plus 4n. -/
  | ldW32Short (g : BitVec 4) (d : BitVec 6) (k : BitVec 5) (n : BitVec 8)
  /-- R92: Short 64-bit load from k base plus 8n. -/
  | ldW64Short (g : BitVec 4) (d : BitVec 6) (k : BitVec 5) (n : BitVec 8)
  /-- R348: Plain load from a base pointer plus scaled index and displacement. -/
  | ldGBaseIndexed (o : Canon)
  /-- R405: Plain store to a k-register buffer pointer plus displacement. -/
  | stKBase (o : Canon)
  /-- R92: Short 32-bit store to k base plus 4n. -/
  | stW32Short (g : BitVec 4) (d : BitVec 6) (k : BitVec 5) (n : BitVec 8)
  /-- R92: Short 64-bit store to k base plus 8n. -/
  | stW64Short (g : BitVec 4) (d : BitVec 6) (k : BitVec 5) (n : BitVec 8)
  /-- R405: Plain store to a base pointer plus scaled index and displacement. -/
  | stGBaseIndexed (o : Canon)
  /-- R349: Acquire load at a scope. -/
  | ldacq (o : Canon)
  /-- R406: Release store at a scope, pinning lines at .core. -/
  | strel (o : Canon)
  /-- R351: Loads from the cohort's own scratchpad. -/
  | lds (o : Canon)
  /-- R92: Short 32-bit scratchpad load. -/
  | ldsShort (g : BitVec 4) (d a : BitVec 6) (n : BitVec 8)
  /-- R351: Loads from a span member's scratchpad. -/
  | ldsQuadPeer (o : Canon)
  /-- R407: Stores into the cohort's own scratchpad. -/
  | sts (o : Canon)
  /-- R92: Short 32-bit scratchpad store. -/
  | stsShort (g : BitVec 4) (d a : BitVec 6) (n : BitVec 8)
  /-- R291: Atomic read-modify-write executed at the location's home. -/
  | atomHome (o : Canon)
  /-- R291: Atomic compare-and-swap at the home. -/
  | atomCompareSwap (o : Canon)
  /-- R291: Atomic on a memory-side line executed on the HBM4E base die. -/
  | atomMemorySide (o : Canon)
  /-- R390: Atomic reduction at the home that returns nothing and does not wait. -/
  | red (o : Canon)
  /-- R206: Fence at a scope ordering the thread's accesses. -/
  | fence (o : Canon)
  /-- R207: Fence limited to a virtual address range. -/
  | fencer (o : Canon)
  /-- R384: Prefetch hint for a line, never faulting. -/
  | pref (o : Canon)
  /-- R432: Checks and writes a view record from registers. -/
  | vset (o : Canon)
  /-- R427: Reads 16 B of a view record into four registers. -/
  | vget (o : Canon)
  /-- R429: Loads elements of a view into a register. -/
  | vld (o : Canon)
  /-- R92: Short VLD of row 0, column g[a]. -/
  | vldShort (g : BitVec 4) (d a : BitVec 6) (vw : BitVec 4)
  /-- R429: Stores register bits or a converted value into view elements. -/
  | vst (o : Canon)
  /-- R92: Short VST of row 0, column g[a]. -/
  | vstShort (g : BitVec 4) (d a : BitVec 6) (vw : BitVec 4)
  /-- R433: Zeroes the row bytes of a view. -/
  | vzero (o : Canon)
  /-- R393: Team instruction that requantises a view under the destination's scales. -/
  | reqnt (o : Canon)
  /-- R364: Team floating-point matrix multiply-accumulate into an FP32 accumulator. -/
  | mmaFloat (o : Canon)
  /-- R364: Team integer matrix multiply-accumulate into an INT32 accumulator. -/
  | mmaInteger (o : Canon)
  /-- R310: Team complex compensated matrix multiply-accumulate. -/
  | cmma (o : Canon)
  /-- R360: Opens a chain on a convergence register. -/
  | mchb (o : Canon)
  /-- R360: Closes a chain, waiting or returning a future. -/
  | mche (o : Canon)
  /-- R362: Copies and converts rows between accumulator or factor views and plain views or scratchpad. -/
  | mcopy (o : Canon)
  /-- R372: Writes the transpose of a tile view. -/
  | mtrans (o : Canon)
  /-- R165: Team product of two factor tiles. -/
  | lrmul (o : Canon)
  /-- R166: Team sum of two factor tiles, optionally recompressed. -/
  | lradd (o : Canon)
  /-- R167: Team recompression of a factor tile against %ftol. -/
  | lrcut (o : Canon)
  /-- R167: Team recompression keeping a given rank. -/
  | lrkeep (o : Canon)
  /-- R168: Team factorisation of a dense tile. -/
  | lrfact (o : Canon)
  /-- R169: Team expansion of a factor tile into a dense view. -/
  | lrdense (o : Canon)
  /-- R170: Team accumulation of A times a factor tile into C. -/
  | lrmma (o : Canon)
  /-- R169: Team read of a factor view's rank, mode and occupancy. -/
  | lrrank (o : Canon)
  /-- R169: Team scaling of a factor tile by an FP32 value. -/
  | lrscale (o : Canon)
  /-- R316: Loads and checks a code-table image into a slot. -/
  | ctload (o : Canon)
  /-- R316: Stores a slot's code-table image to memory. -/
  | ctstore (o : Canon)
  /-- R304: Returns a tile's index entry by Catalogue lookup. -/
  | catlook (o : Canon)
  /-- R305: Writes an index entry as a store-release and drops the quad's copy. -/
  | catset (o : Canon)
  /-- R303: Drops Catalogue-cache copies in every quad of the device. -/
  | catinv (o : Canon)
  /-- R418: Issues a tile-engine decode of a tile into a view. -/
  | tileld (o : Canon)
  /-- R416: Issues a tile-engine decode of a tile into memory or scratchpad. -/
  | tiledec (o : Canon)
  /-- R420: Issues a tile-engine encode of a view into a tile. -/
  | tilest (o : Canon)
  /-- R412: Issues a tile-engine append of rows to an appendable tile. -/
  | tileap (o : Canon)
  /-- R414: Issues a tile-engine check of a range of tiles. -/
  | tilechk (o : Canon)
  /-- R313: Issues a copy-engine box copy. -/
  | cpy (o : Canon)
  /-- R224: Issues a copy into the scratchpads of several span members. -/
  | cpyMulticast (o : Canon)
  /-- R218: Blocks until a future completes and writes its status. -/
  | fwait (o : Canon)
  /-- R92: Short form of FWAIT. -/
  | fwaitShort (g : BitVec 4) (d a : BitVec 6)
  /-- R218: Waits for any or all of up to four futures. -/
  | fwaitMulti (o : Canon)
  /-- R217: Tests a future without blocking. -/
  | ftest (o : Canon)
  /-- R219: Requests cancellation of an operation. -/
  | fcancel (o : Canon)
  /-- R225: Configures a tile queue in the scratchpad. -/
  | qcfg (o : Canon)
  /-- R226: Pushes an entry into a tile queue, blocking when full. -/
  | qpush (o : Canon)
  /-- R226: Pops an entry from a tile queue, blocking when empty. -/
  | qpop (o : Canon)
  /-- R369: Makes a mailbox ring and returns its name. -/
  | mrcfg (o : Canon)
  /-- R371: Issues a message send to a mailbox ring. -/
  | msend (o : Canon)
  /-- R374: Takes the next message of an own ring, blocking when empty. -/
  | mwait (o : Canon)
  /-- R397: Issues a routing of tile rows to stations with reassembly. -/
  | route (o : Canon)
  /-- R400: Issues an expert's return of a result row. -/
  | rret (o : Canon)
  /-- R401: Loads a station table of the quad from an image. -/
  | rtcfg (o : Canon)
  /-- R344: Enters a child launch record into the device-side launch queue. -/
  | launch (o : Canon)
  /-- R358: Reports a child launch's phase or the queue occupancy. -/
  | lstat (o : Canon)
  /-- R331: Reads the 64-bit global time base into a pair. -/
  | gtbr (o : Canon)
  /-- R386: Issues a pairwise half-region exchange with a partner node. -/
  | pxch (o : Canon)
  /-- R315: Reads a special register. -/
  | csrr (o : Canon)
  /-- R315: Writes, sets or clears bits of an RW special register. -/
  | csrw (o : Canon)
  /-- R421: Invalidates translations of a range after a .pkg release. -/
  | tlbinv (o : Canon)
  /-- R301: Invalidates buffer-table entries after a .pkg release. -/
  | btinv (o : Canon)
  /-- R409: Sends a host notification or returns partition information. -/
  | sysc (o : Canon)
  /-- R93: Fill expands an instruction into a canonical word and marks it with the first failing check. -/
  | instructionFill (coh : Nat) (pc : BitVec 64)
  /-- R30: Every 4 cycles the Registrar merges entries with equal cohort and PC. -/
  | registrarMerge (core : Nat)
  /-- R271: The pod's lowest node releases all participants of a BAR.pod. -/
  | podBarrierRelease (part tag : Nat) (m : PodMsg)
  /-- R50: After its running cohorts stop and their engine work ends, the launch gets STATE 3. -/
  | launchAbort (part : Nat) (seq : BitVec 32)
  /-- R27: The Curator takes a record from a launch queue, numbers it and accepts or rejects it. -/
  | launchAcceptance (part : Nat)
  /-- R246: Each 1 ms the Curator ages priorities and places cohorts. -/
  | dispatchTick
  /-- R46: A cohort completes after all threads exit and its engine work ends, updating the completion record. -/
  | cohortComplete (coh : Nat)
  /-- R253: After in-flight work finishes, the victim's context image is written and resources freed. -/
  | save (coh : Nat)
  /-- R251: A drain not done by the decision time plus the bound triggers a new decision without DRAIN. -/
  | drainTimeout (coh : Nat)
  /-- R260: A management write of CTRL.RESET resets one partition in six steps. -/
  | ctrlReset (part : Nat)
  /-- R261: The Curator sees REQ.RESET in the host control block and resets the partition. -/
  | hostResetRequest (part : Nat)
  /-- R189: The copied page's leaf is rewritten, TLBs dropped and parked threads replay. -/
  | migrationComplete (m : Nat) (ok : Bool)
  /-- R223: A copy-engine operation finishes and completes its future. -/
  | copyComplete (core : Nat) (serial : BitVec 20)
  /-- R143: A TILELD or TILEDEC finishes decoding and completes its future. -/
  | tileDecodeComplete (core : Nat) (serial : BitVec 20)
  /-- R146: A TILEST or TILEAP writes stream and entry and completes its future. -/
  | tileEncodeComplete (core : Nat) (serial : BitVec 20)
  /-- R414: A tile check ends, writes its report and completes its future. -/
  | tilechkComplete (core : Nat) (serial : BitVec 20)
  /-- R154: A matrix operation writes C and its members resume. -/
  | matrixOpComplete (core : Nat)
  /-- R158: The last addition of a chain is written, completing MCHE's future. -/
  | chainComplete (core : Nat) (serial : BitVec 20)
  /-- R172: An asynchronous LRCUT or LRFACT finishes and completes its future. -/
  | lowRankAsyncComplete (core : Nat) (serial : BitVec 20)
  /-- R230: The receiving network interface places a message and advances TAIL, or refuses it. -/
  | messagePlacement (core : Nat) (serial : BitVec 20)
  /-- R234: The route engine delivers or drops a row choice at a station. -/
  | routeDelivery (quad entry : Nat)
  /-- R237: A returned row reaches the reassembly entry and is taken or counted late. -/
  | rretArrival (core : Nat) (serial : BitVec 20)
  /-- R236: At the deadline unplaced choices are dropped and rows finalised. -/
  | routeTimeout (quad entry : Nat)
  /-- R241: A held .at operation starts when the time base reaches its time. -/
  | atTimeReached (core : Nat) (serial : BitVec 20)
  /-- R241: A thread in WAITT becomes ready when the time base reaches its time. -/
  | waittExpiry (t : Nat)
  /-- R273: A PXCH pairs with its partner and exchanges the halves. -/
  | pxchPaired (core : Nat) (serial : BitVec 20) (p : PxchSide) (half : List (Nat × BitVec 8))
  /-- R273: An unpaired PXCH completes with TIMEOUT 10 ms after its start. -/
  | pxchTimeout (core : Nat) (serial : BitVec 20)
  /-- R22: A requester resends a request that was refused with retry. -/
  | requestRetry (t : Nat)
  /-- R270: A home device receives a remote read, write or atomic, using its replay cache or forwarding it. -/
  | remoteRequest (src : Sender) (dest : BitVec 22) (seq : BitVec 32) (part : Nat) (va : BitVec 64) (kind n : Nat) (mod : BitVec 18) (data : List (BitVec 8))
  /-- R270: A remote request without answer for 20 us is resent. -/
  | remoteResend (r : Nat)
  /-- R270: A remote request without answer for 10 ms fails with PAGE cause 6. -/
  | remoteRequestTimeout (r : Nat)
  /-- R263: A companion-processor request passes the memory port as an agent of a partition. -/
  | companionRequest (host : HostSide) (ptr : BitVec 64) (write order : Bool) (n : Nat) (data : List (BitVec 8))
  /-- R272: Each 1 ms the device compares its time base with the pod reference and adjusts its rate. -/
  | timeSync (ref : BitVec 64)
  /-- R274: A channel performs all-bank refresh every tREFI. -/
  | refresh (ch : Nat) (due : Bool) (r : Refreshed)
  /-- R275: An uncorrectable HBM4E error is rebuilt from parity and counted, retiring the channel at the threshold. -/
  | uncorrectableError (ch row : Nat)
  /-- R276: Management writes RETIRE to start retiring a channel. -/
  | retire (ch : Nat)
  /-- R276: The group's map switches to the 15-channel layout and refusals stop. -/
  | channelRebuildDone (grp : Nat)
  /-- R265: A management write to DOMMAP is applied or refused. -/
  | dommapWrite (off : Nat) (data : List (BitVec 8))
  /-- R268: A management write of the node id, ignored while a partition is valid. -/
  | nodeidWrite (v : BitVec 64)
  /-- R265: A management write to a window field without behaviour of its own. -/
  | mgmtWindowWrite (off : Nat) (data : List (BitVec 8))
  /-- R280: Mirdar answers CMD 1 with a signed attestation report. -/
  | attestationReport
  /-- R280: Mirdar answers CMD 2 with the identity public key. -/
  | identityPublicKey
  /-- R280: Mirdar refuses an unknown CMD with STATUS 3. -/
  | mirdarCmdRefused
  /-- R278: At power-on boot runs its steps from primary or fallback images and records the history. -/
  | boot (primary fallback : List Image) (ok : List (Bool × Bool))
  /-- R282: Every 10 us the power and bandwidth estimators sample. -/
  | estimatorSample (bw pw : List Nat)
  /-- R283: At 105 C or above the power cap the clock is lowered and THROTTLE set. -/
  | thermalThrottle (temp power : Nat)
  /-- R283: At 115 C every partition is reset and REPLACE set. -/
  | thermalShutdown (temp : Nat)
  /-- R270: The answer to a remote read, write or atomic, or a relayed failure, arrives back at the source and completes the waiting access. -/
  | remoteAnswer (h : AnswerHead) (kind : Nat) (fault : BitVec 8) (detail : BitVec 64) (data : List (BitVec 8))
  /-- R209: A plain write arrives at the home of its location and joins the home frontier Hm. -/
  | writeReachesHome (w : Nat)
  /-- R391: A RED's read-modify-write executes at the home after the thread has moved on, failing into the cohort fault record on POISON or a remote failure. -/
  | redAtHome (r : Nat)
  /-- R266: A Gengeov Fabric port becomes trained or loses training, changing its PORTUP bit and the ports usable for forwarding. -/
  | fabricPortTraining (port : Nat) (up : Bool)
  /-- R272: A device that joins a pod steps its time base forward to the reference, or stops its count until the reference catches up, before its partitions accept launches. -/
  | podJoin (ref : BitVec 64)
  /-- R283: When junction temperature and module power fall back within limits, the arithmetic clock returns toward 1.8 GHz and THROTTLE clears. -/
  | throttleEnd (temp power : Nat)
  /-- R281: Re-encryption of a 4 KiB block after a minor-counter overflow finishes and accesses to the block stop being refused. -/
  | blockReencryptionDone (b : Nat)
  /-- R281: Management installs a new per-port fabric encryption key, so a port whose flit counter was exhausted carries encrypted traffic again. -/
  | portKeyInstall (port : Nat)
  deriving DecidableEq, Repr

end Sys2Proof
end

