-- ==== Sys2Proof/Machine/Short.lean ====
section
/-! DEFINITION. The canonical word that each instruction executes as: the opcodes of R96 and the short expansions of R91 and R92. -/

namespace Sys2Proof.Machine

/-- Class ALU (R91). -/
def Short.alu (g : BitVec 4) (d a : BitVec 6) (b : BitVec 8) (mod : BitVec 18) : Canon := ⟨0, g, d.setWidth 8, a.setWidth 8, b, 0, mod, 0⟩

/-- Class ALU with c := d (R92: IMAD, FFMA). -/
def Short.aluC (g : BitVec 4) (d a : BitVec 6) (b : BitVec 8) (mod : BitVec 18) : Canon := ⟨0, g, d.setWidth 8, a.setWidth 8, b, d.setWidth 8, mod, 0⟩

/-- Class ALU1 (R91). -/
def Short.alu1 (g : BitVec 4) (d : BitVec 6) (b : BitVec 8) (mod : BitVec 18) : Canon := ⟨0, g, d.setWidth 8, 0, b, 0, mod, 0⟩

/-- MOVI gd, n: imm32 := n (R92). -/
def Short.movi (g : BitVec 4) (d : BitVec 6) (n : BitVec 8) : Canon := ⟨0, g, d.setWidth 8, 0, 0, 0, 0, n.setWidth 32⟩

/-- Class SET: canonical d := 0x60 + p (R91). -/
def Short.set (g : BitVec 4) (p : BitVec 3) (a : BitVec 6) (b : BitVec 8) (mod : BitVec 18) : Canon := ⟨0, g, 0x60#8 + p.setWidth 8, a.setWidth 8, b, 0, mod, 0⟩

/-- BRA: imm32 := sext(disp) * 4 (R92). -/
def Short.bra (g : BitVec 4) (disp : BitVec 20) : Canon := ⟨0, g, 0, 0, 0, 0, 0, BitVec.ofInt 32 (disp.toInt * 4)⟩

/-- Class NONE (R91). -/
def Short.none (g : BitVec 4) : Canon := ⟨0, g, 0, 0, 0, 0, 0, 0⟩

/-- Class MEMK: canonical a := 0x40 + k, imm32 := n scaled (R91, R92). -/
def Short.memk (g : BitVec 4) (d : BitVec 6) (k : BitVec 5) (n : BitVec 8) (mod : BitVec 18) (scale : Nat) : Canon :=
  ⟨0, g, d.setWidth 8, 0x40#8 + k.setWidth 8, 0, 0, mod, BitVec.ofNat 32 (n.toNat * scale)⟩

/-- Class MEMS: imm32 := 4 n (R91, R92). -/
def Short.mems (g : BitVec 4) (d a : BitVec 6) (n : BitVec 8) : Canon := ⟨0, g, d.setWidth 8, a.setWidth 8, 0, 0, 2, BitVec.ofNat 32 (n.toNat * 4)⟩

/-- FWAIT gd, ga (R92). -/
def Short.fwait (g : BitVec 4) (d a : BitVec 6) : Canon := ⟨0, g, d.setWidth 8, a.setWidth 8, 0, 0, 0, 0⟩

/-- The two guards that a bound opcode permits (R86). -/
def Short.bound (never : Bool) : BitVec 4 := if never then 8 else 0

/-- TSIGN cvN: b is copied unchanged (R92, R426). -/
def Short.tsign (never : Bool) (cv : BitVec 3) : Canon := ⟨0, Short.bound never, 0, 0, 0x78#8 + cv.setWidth 8, 0, 0, 0⟩

/-- BAR.core bN: the id moves into mod [3:0] (R92, R294). -/
def Short.bar (never : Bool) (id : BitVec 4) : Canon := ⟨0, Short.bound never, 0, 0, 0, 0, id.setWidth 18, 0⟩

/-- VLD and VST of row 0, column g[a] (R92). -/
def Short.view (g : BitVec 4) (d a : BitVec 6) (vw : BitVec 4) : Canon := ⟨0, g, d.setWidth 8, a.setWidth 8, 0x68#8 + vw.setWidth 8, 0, 0, 0⟩

/-- Opcode and fields of a long instruction; none for short forms and events (R96). -/
def longOf : Instr → Option (Nat × Canon)
  | .iadd o => some (0x00, o)
  | .iaddShort _ _ _ _ => Option.none
  | .isub o => some (0x01, o)
  | .isubShort _ _ _ _ => Option.none
  | .imul o => some (0x02, o)
  | .imulShort _ _ _ _ => Option.none
  | .imulh o => some (0x03, o)
  | .imad o => some (0x04, o)
  | .imadShort _ _ _ _ => Option.none
  | .idiv o => some (0x05, o)
  | .irem o => some (0x06, o)
  | .imin o => some (0x07, o)
  | .iminShort _ _ _ _ => Option.none
  | .imax o => some (0x08, o)
  | .imaxShort _ _ _ _ => Option.none
  | .iabs o => some (0x09, o)
  | .ineg o => some (0x0a, o)
  | .and o => some (0x0b, o)
  | .andShort _ _ _ _ => Option.none
  | .or o => some (0x0c, o)
  | .orShort _ _ _ _ => Option.none
  | .xor o => some (0x0d, o)
  | .xorShort _ _ _ _ => Option.none
  | .not o => some (0x0e, o)
  | .shl o => some (0x0f, o)
  | .shlShort _ _ _ _ => Option.none
  | .shr o => some (0x10, o)
  | .shrUsShort _ _ _ _ => Option.none
  | .shrSgShort _ _ _ _ => Option.none
  | .rot o => some (0x11, o)
  | .popc o => some (0x12, o)
  | .popcShort _ _ _ => Option.none
  | .clz o => some (0x13, o)
  | .brev o => some (0x14, o)
  | .bfe o => some (0x15, o)
  | .bfi o => some (0x16, o)
  | .sel o => some (0x17, o)
  | .mov o => some (0x18, o)
  | .movShort _ _ _ => Option.none
  | .moviLow o => some (0x19, o)
  | .moviShort _ _ _ => Option.none
  | .moviHighHalf o => some (0x1a, o)
  | .iset o => some (0x1b, o)
  | .isetLtSgShort _ _ _ _ => Option.none
  | .isetEqShort _ _ _ _ => Option.none
  | .isetLtUsShort _ _ _ _ => Option.none
  | .isetNeShort _ _ _ _ => Option.none
  | .plop o => some (0x1c, o)
  | .padd o => some (0x1d, o)
  | .paddShort _ _ _ _ => Option.none
  | .iadd64Bit o => some (0x1e, o)
  | .dp4 o => some (0x1f, o)
  | .fadd o => some (0x20, o)
  | .faddShort _ _ _ _ => Option.none
  | .fsub o => some (0x21, o)
  | .fsubShort _ _ _ _ => Option.none
  | .fmul o => some (0x22, o)
  | .fmulShort _ _ _ _ => Option.none
  | .ffma o => some (0x23, o)
  | .ffmaShort _ _ _ _ => Option.none
  | .fmin o => some (0x24, o)
  | .fminShort _ _ _ _ => Option.none
  | .fmax o => some (0x25, o)
  | .fmaxShort _ _ _ _ => Option.none
  | .fset o => some (0x26, o)
  | .fsetLtShort _ _ _ _ => Option.none
  | .fsetEqShort _ _ _ _ => Option.none
  | .fsf o => some (0x27, o)
  | .fsfRcpShort _ _ _ => Option.none
  | .fsfRsqrtShort _ _ _ => Option.none
  | .fcvt o => some (0x28, o)
  | .fcvtShort _ _ _ => Option.none
  | .fcvtPack o => some (0x29, o)
  | .icvt o => some (0x2a, o)
  | .icvtShort _ _ _ => Option.none
  | .pfma o => some (0x2b, o)
  | .cfma o => some (0x2c, o)
  | .fclass o => some (0x2d, o)
  | .dp2 o => some (0x2e, o)
  | .frnd o => some (0x2f, o)
  | .fscl o => some (0x30, o)
  | .bra o => some (0x40, o)
  | .braShort _ _ => Option.none
  | .jmp o => some (0x41, o)
  | .callRelative o => some (0x42, o)
  | .callRegister o => some (0x43, o)
  | .ret o => some (0x44, o)
  | .retShort _ => Option.none
  | .exit o => some (0x45, o)
  | .exitShort _ => Option.none
  | .nop o => some (0x46, o)
  | .nopShort _ => Option.none
  | .yield o => some (0x47, o)
  | .yieldShort _ => Option.none
  | .trap o => some (0x48, o)
  | .brk o => some (0x49, o)
  | .lser o => some (0x4a, o)
  | .lsend o => some (0x4b, o)
  | .idem o => some (0x4c, o)
  | .idemend o => some (0x4d, o)
  | .waitt o => some (0x4e, o)
  | .tset o => some (0x50, o)
  | .tsign o => some (0x51, o)
  | .tsignShort _ _ => Option.none
  | .vote o => some (0x52, o)
  | .lanex o => some (0x53, o)
  | .tred o => some (0x54, o)
  | .tscan o => some (0x55, o)
  | .bar o => some (0x56, o)
  | .barCoreShort _ _ => Option.none
  | .barArrive o => some (0x57, o)
  | .ldKBase o => some (0x60, o)
  | .ldW32Short _ _ _ _ => Option.none
  | .ldW64Short _ _ _ _ => Option.none
  | .ldGBaseIndexed o => some (0x61, o)
  | .stKBase o => some (0x62, o)
  | .stW32Short _ _ _ _ => Option.none
  | .stW64Short _ _ _ _ => Option.none
  | .stGBaseIndexed o => some (0x63, o)
  | .ldacq o => some (0x64, o)
  | .strel o => some (0x65, o)
  | .lds o => some (0x66, o)
  | .ldsShort _ _ _ _ => Option.none
  | .ldsQuadPeer o => some (0x67, o)
  | .sts o => some (0x68, o)
  | .stsShort _ _ _ _ => Option.none
  | .atomHome o => some (0x69, o)
  | .atomCompareSwap o => some (0x6a, o)
  | .atomMemorySide o => some (0x6b, o)
  | .red o => some (0x6c, o)
  | .fence o => some (0x6d, o)
  | .fencer o => some (0x6e, o)
  | .pref o => some (0x6f, o)
  | .vset o => some (0x80, o)
  | .vget o => some (0x81, o)
  | .vld o => some (0x82, o)
  | .vldShort _ _ _ _ => Option.none
  | .vst o => some (0x83, o)
  | .vstShort _ _ _ _ => Option.none
  | .vzero o => some (0x84, o)
  | .reqnt o => some (0x85, o)
  | .mmaFloat o => some (0x90, o)
  | .mmaInteger o => some (0x91, o)
  | .cmma o => some (0x92, o)
  | .mchb o => some (0x93, o)
  | .mche o => some (0x94, o)
  | .mcopy o => some (0x95, o)
  | .mtrans o => some (0x96, o)
  | .lrmul o => some (0xa0, o)
  | .lradd o => some (0xa1, o)
  | .lrcut o => some (0xa2, o)
  | .lrkeep o => some (0xa3, o)
  | .lrfact o => some (0xa4, o)
  | .lrdense o => some (0xa5, o)
  | .lrmma o => some (0xa6, o)
  | .lrrank o => some (0xa7, o)
  | .lrscale o => some (0xa8, o)
  | .ctload o => some (0xb0, o)
  | .ctstore o => some (0xb1, o)
  | .catlook o => some (0xb2, o)
  | .catset o => some (0xb3, o)
  | .catinv o => some (0xb4, o)
  | .tileld o => some (0xb5, o)
  | .tiledec o => some (0xb6, o)
  | .tilest o => some (0xb7, o)
  | .tileap o => some (0xb8, o)
  | .tilechk o => some (0xb9, o)
  | .cpy o => some (0xc0, o)
  | .cpyMulticast o => some (0xc1, o)
  | .fwait o => some (0xc2, o)
  | .fwaitShort _ _ _ => Option.none
  | .fwaitMulti o => some (0xc3, o)
  | .ftest o => some (0xc4, o)
  | .fcancel o => some (0xc5, o)
  | .qcfg o => some (0xc6, o)
  | .qpush o => some (0xc7, o)
  | .qpop o => some (0xc8, o)
  | .mrcfg o => some (0xc9, o)
  | .msend o => some (0xca, o)
  | .mwait o => some (0xcb, o)
  | .route o => some (0xd0, o)
  | .rret o => some (0xd1, o)
  | .rtcfg o => some (0xd2, o)
  | .launch o => some (0xd3, o)
  | .lstat o => some (0xd4, o)
  | .gtbr o => some (0xd5, o)
  | .pxch o => some (0xd6, o)
  | .csrr o => some (0xe0, o)
  | .csrw o => some (0xe1, o)
  | .tlbinv o => some (0xe2, o)
  | .btinv o => some (0xe3, o)
  | .sysc o => some (0xe4, o)
  | .instructionFill _ _ => Option.none
  | .registrarMerge _ => Option.none
  | .podBarrierRelease _ _ _ => Option.none
  | .launchAbort _ _ => Option.none
  | .launchAcceptance _ => Option.none
  | .dispatchTick => Option.none
  | .cohortComplete _ => Option.none
  | .save _ => Option.none
  | .drainTimeout _ => Option.none
  | .ctrlReset _ => Option.none
  | .hostResetRequest _ => Option.none
  | .migrationComplete _ _ => Option.none
  | .copyComplete _ _ => Option.none
  | .tileDecodeComplete _ _ => Option.none
  | .tileEncodeComplete _ _ => Option.none
  | .tilechkComplete _ _ => Option.none
  | .matrixOpComplete _ => Option.none
  | .chainComplete _ _ => Option.none
  | .lowRankAsyncComplete _ _ => Option.none
  | .messagePlacement _ _ => Option.none
  | .routeDelivery _ _ => Option.none
  | .rretArrival _ _ => Option.none
  | .routeTimeout _ _ => Option.none
  | .atTimeReached _ _ => Option.none
  | .waittExpiry _ => Option.none
  | .pxchPaired _ _ _ _ => Option.none
  | .pxchTimeout _ _ => Option.none
  | .requestRetry _ => Option.none
  | .remoteRequest _ _ _ _ _ _ _ _ _ => Option.none
  | .remoteResend _ => Option.none
  | .remoteRequestTimeout _ => Option.none
  | .companionRequest _ _ _ _ _ _ => Option.none
  | .timeSync _ => Option.none
  | .refresh _ _ _ => Option.none
  | .uncorrectableError _ _ => Option.none
  | .retire _ => Option.none
  | .channelRebuildDone _ => Option.none
  | .dommapWrite _ _ => Option.none
  | .nodeidWrite _ => Option.none
  | .mgmtWindowWrite _ _ => Option.none
  | .attestationReport => Option.none
  | .identityPublicKey => Option.none
  | .mirdarCmdRefused => Option.none
  | .boot _ _ _ => Option.none
  | .estimatorSample _ _ => Option.none
  | .thermalThrottle _ _ => Option.none
  | .thermalShutdown _ => Option.none
  | .remoteAnswer _ _ _ _ _ => Option.none
  | .writeReachesHome _ => Option.none
  | .redAtHome _ => Option.none
  | .fabricPortTraining _ _ => Option.none
  | .podJoin _ => Option.none
  | .throttleEnd _ _ => Option.none
  | .blockReencryptionDone _ => Option.none
  | .portKeyInstall _ => Option.none

/-- Long opcode and canonical fields of a short instruction (R92); none for the others. -/
def shortOf : Instr → Option (Nat × Canon)
  | .iadd _ => Option.none
  | .iaddShort g d a b => some (0x00, Short.alu g d a b 0x0#18)
  | .isub _ => Option.none
  | .isubShort g d a b => some (0x01, Short.alu g d a b 0x0#18)
  | .imul _ => Option.none
  | .imulShort g d a b => some (0x02, Short.alu g d a b 0x0#18)
  | .imulh _ => Option.none
  | .imad _ => Option.none
  | .imadShort g d a b => some (0x04, Short.aluC g d a b 0x0#18)
  | .idiv _ => Option.none
  | .irem _ => Option.none
  | .imin _ => Option.none
  | .iminShort g d a b => some (0x07, Short.alu g d a b 0x1#18)
  | .imax _ => Option.none
  | .imaxShort g d a b => some (0x08, Short.alu g d a b 0x1#18)
  | .iabs _ => Option.none
  | .ineg _ => Option.none
  | .and _ => Option.none
  | .andShort g d a b => some (0x0b, Short.alu g d a b 0x0#18)
  | .or _ => Option.none
  | .orShort g d a b => some (0x0c, Short.alu g d a b 0x0#18)
  | .xor _ => Option.none
  | .xorShort g d a b => some (0x0d, Short.alu g d a b 0x0#18)
  | .not _ => Option.none
  | .shl _ => Option.none
  | .shlShort g d a b => some (0x0f, Short.alu g d a b 0x0#18)
  | .shr _ => Option.none
  | .shrUsShort g d a b => some (0x10, Short.alu g d a b 0x0#18)
  | .shrSgShort g d a b => some (0x10, Short.alu g d a b 0x1#18)
  | .rot _ => Option.none
  | .popc _ => Option.none
  | .popcShort g d b => some (0x12, Short.alu1 g d b 0x0#18)
  | .clz _ => Option.none
  | .brev _ => Option.none
  | .bfe _ => Option.none
  | .bfi _ => Option.none
  | .sel _ => Option.none
  | .mov _ => Option.none
  | .movShort g d b => some (0x18, Short.alu1 g d b 0x0#18)
  | .moviLow _ => Option.none
  | .moviShort g d n => some (0x19, Short.movi g d n)
  | .moviHighHalf _ => Option.none
  | .iset _ => Option.none
  | .isetLtSgShort g p a b => some (0x1b, Short.set g p a b 0x21#18)
  | .isetEqShort g p a b => some (0x1b, Short.set g p a b 0x0#18)
  | .isetLtUsShort g p a b => some (0x1b, Short.set g p a b 0x20#18)
  | .isetNeShort g p a b => some (0x1b, Short.set g p a b 0x10#18)
  | .plop _ => Option.none
  | .padd _ => Option.none
  | .paddShort g d a b => some (0x1d, Short.alu g d a b 0x0#18)
  | .iadd64Bit _ => Option.none
  | .dp4 _ => Option.none
  | .fadd _ => Option.none
  | .faddShort g d a b => some (0x20, Short.alu g d a b 0x0#18)
  | .fsub _ => Option.none
  | .fsubShort g d a b => some (0x21, Short.alu g d a b 0x0#18)
  | .fmul _ => Option.none
  | .fmulShort g d a b => some (0x22, Short.alu g d a b 0x0#18)
  | .ffma _ => Option.none
  | .ffmaShort g d a b => some (0x23, Short.aluC g d a b 0x0#18)
  | .fmin _ => Option.none
  | .fminShort g d a b => some (0x24, Short.alu g d a b 0x0#18)
  | .fmax _ => Option.none
  | .fmaxShort g d a b => some (0x25, Short.alu g d a b 0x0#18)
  | .fset _ => Option.none
  | .fsetLtShort g p a b => some (0x26, Short.set g p a b 0x20#18)
  | .fsetEqShort g p a b => some (0x26, Short.set g p a b 0x0#18)
  | .fsf _ => Option.none
  | .fsfRcpShort g d b => some (0x27, Short.alu1 g d b 0x0#18)
  | .fsfRsqrtShort g d b => some (0x27, Short.alu1 g d b 0x10#18)
  | .fcvt _ => Option.none
  | .fcvtShort g d b => some (0x28, Short.alu1 g d b 0x10#18)
  | .fcvtPack _ => Option.none
  | .icvt _ => Option.none
  | .icvtShort g d b => some (0x2a, Short.alu1 g d b 0x0#18)
  | .pfma _ => Option.none
  | .cfma _ => Option.none
  | .fclass _ => Option.none
  | .dp2 _ => Option.none
  | .frnd _ => Option.none
  | .fscl _ => Option.none
  | .bra _ => Option.none
  | .braShort g disp => some (0x40, Short.bra g disp)
  | .jmp _ => Option.none
  | .callRelative _ => Option.none
  | .callRegister _ => Option.none
  | .ret _ => Option.none
  | .retShort g => some (0x44, Short.none g)
  | .exit _ => Option.none
  | .exitShort g => some (0x45, Short.none g)
  | .nop _ => Option.none
  | .nopShort g => some (0x46, Short.none g)
  | .yield _ => Option.none
  | .yieldShort g => some (0x47, Short.none g)
  | .trap _ => Option.none
  | .brk _ => Option.none
  | .lser _ => Option.none
  | .lsend _ => Option.none
  | .idem _ => Option.none
  | .idemend _ => Option.none
  | .waitt _ => Option.none
  | .tset _ => Option.none
  | .tsign _ => Option.none
  | .tsignShort never cv => some (0x51, Short.tsign never cv)
  | .vote _ => Option.none
  | .lanex _ => Option.none
  | .tred _ => Option.none
  | .tscan _ => Option.none
  | .bar _ => Option.none
  | .barCoreShort never id => some (0x56, Short.bar never id)
  | .barArrive _ => Option.none
  | .ldKBase _ => Option.none
  | .ldW32Short g d k n => some (0x60, Short.memk g d k n 2#18 4)
  | .ldW64Short g d k n => some (0x60, Short.memk g d k n 3#18 8)
  | .ldGBaseIndexed _ => Option.none
  | .stKBase _ => Option.none
  | .stW32Short g d k n => some (0x62, Short.memk g d k n 2#18 4)
  | .stW64Short g d k n => some (0x62, Short.memk g d k n 3#18 8)
  | .stGBaseIndexed _ => Option.none
  | .ldacq _ => Option.none
  | .strel _ => Option.none
  | .lds _ => Option.none
  | .ldsShort g d a n => some (0x66, Short.mems g d a n)
  | .ldsQuadPeer _ => Option.none
  | .sts _ => Option.none
  | .stsShort g d a n => some (0x68, Short.mems g d a n)
  | .atomHome _ => Option.none
  | .atomCompareSwap _ => Option.none
  | .atomMemorySide _ => Option.none
  | .red _ => Option.none
  | .fence _ => Option.none
  | .fencer _ => Option.none
  | .pref _ => Option.none
  | .vset _ => Option.none
  | .vget _ => Option.none
  | .vld _ => Option.none
  | .vldShort g d a vw => some (0x82, Short.view g d a vw)
  | .vst _ => Option.none
  | .vstShort g d a vw => some (0x83, Short.view g d a vw)
  | .vzero _ => Option.none
  | .reqnt _ => Option.none
  | .mmaFloat _ => Option.none
  | .mmaInteger _ => Option.none
  | .cmma _ => Option.none
  | .mchb _ => Option.none
  | .mche _ => Option.none
  | .mcopy _ => Option.none
  | .mtrans _ => Option.none
  | .lrmul _ => Option.none
  | .lradd _ => Option.none
  | .lrcut _ => Option.none
  | .lrkeep _ => Option.none
  | .lrfact _ => Option.none
  | .lrdense _ => Option.none
  | .lrmma _ => Option.none
  | .lrrank _ => Option.none
  | .lrscale _ => Option.none
  | .ctload _ => Option.none
  | .ctstore _ => Option.none
  | .catlook _ => Option.none
  | .catset _ => Option.none
  | .catinv _ => Option.none
  | .tileld _ => Option.none
  | .tiledec _ => Option.none
  | .tilest _ => Option.none
  | .tileap _ => Option.none
  | .tilechk _ => Option.none
  | .cpy _ => Option.none
  | .cpyMulticast _ => Option.none
  | .fwait _ => Option.none
  | .fwaitShort g d a => some (0xc2, Short.fwait g d a)
  | .fwaitMulti _ => Option.none
  | .ftest _ => Option.none
  | .fcancel _ => Option.none
  | .qcfg _ => Option.none
  | .qpush _ => Option.none
  | .qpop _ => Option.none
  | .mrcfg _ => Option.none
  | .msend _ => Option.none
  | .mwait _ => Option.none
  | .route _ => Option.none
  | .rret _ => Option.none
  | .rtcfg _ => Option.none
  | .launch _ => Option.none
  | .lstat _ => Option.none
  | .gtbr _ => Option.none
  | .pxch _ => Option.none
  | .csrr _ => Option.none
  | .csrw _ => Option.none
  | .tlbinv _ => Option.none
  | .btinv _ => Option.none
  | .sysc _ => Option.none
  | .instructionFill _ _ => Option.none
  | .registrarMerge _ => Option.none
  | .podBarrierRelease _ _ _ => Option.none
  | .launchAbort _ _ => Option.none
  | .launchAcceptance _ => Option.none
  | .dispatchTick => Option.none
  | .cohortComplete _ => Option.none
  | .save _ => Option.none
  | .drainTimeout _ => Option.none
  | .ctrlReset _ => Option.none
  | .hostResetRequest _ => Option.none
  | .migrationComplete _ _ => Option.none
  | .copyComplete _ _ => Option.none
  | .tileDecodeComplete _ _ => Option.none
  | .tileEncodeComplete _ _ => Option.none
  | .tilechkComplete _ _ => Option.none
  | .matrixOpComplete _ => Option.none
  | .chainComplete _ _ => Option.none
  | .lowRankAsyncComplete _ _ => Option.none
  | .messagePlacement _ _ => Option.none
  | .routeDelivery _ _ => Option.none
  | .rretArrival _ _ => Option.none
  | .routeTimeout _ _ => Option.none
  | .atTimeReached _ _ => Option.none
  | .waittExpiry _ => Option.none
  | .pxchPaired _ _ _ _ => Option.none
  | .pxchTimeout _ _ => Option.none
  | .requestRetry _ => Option.none
  | .remoteRequest _ _ _ _ _ _ _ _ _ => Option.none
  | .remoteResend _ => Option.none
  | .remoteRequestTimeout _ => Option.none
  | .companionRequest _ _ _ _ _ _ => Option.none
  | .timeSync _ => Option.none
  | .refresh _ _ _ => Option.none
  | .uncorrectableError _ _ => Option.none
  | .retire _ => Option.none
  | .channelRebuildDone _ => Option.none
  | .dommapWrite _ _ => Option.none
  | .nodeidWrite _ => Option.none
  | .mgmtWindowWrite _ _ => Option.none
  | .attestationReport => Option.none
  | .identityPublicKey => Option.none
  | .mirdarCmdRefused => Option.none
  | .boot _ _ _ => Option.none
  | .estimatorSample _ _ => Option.none
  | .thermalThrottle _ _ => Option.none
  | .thermalShutdown _ => Option.none
  | .remoteAnswer _ _ _ _ _ => Option.none
  | .writeReachesHome _ => Option.none
  | .redAtHome _ => Option.none
  | .fabricPortTraining _ _ => Option.none
  | .podJoin _ => Option.none
  | .throttleEnd _ _ => Option.none
  | .blockReencryptionDone _ => Option.none
  | .portKeyInstall _ => Option.none

/-- The canonical word of an instruction; none for an event (R80). -/
def canonOf (i : Instr) : Option (Nat × Canon) := (longOf i).or (shortOf i)

/-- The length code of an instruction's external form (R76). -/
def lenOf (i : Instr) : Nat := match canonOf i with | some (_, o) => o.len.toNat | Option.none => 0

/-- The constructor is an event of another agent, not an instruction of a thread. -/
def isEvent (i : Instr) : Bool := (longOf i).isNone && (shortOf i).isNone

end Sys2Proof.Machine
end

