-- ==== Sys2Proof/WellFormed.lean ====
section
/-! DEFINITION. Which instructions some external word encodes without a mark (R76-R94). -/

namespace Sys2Proof

open Sys2Proof.Machine

/-- A long instruction: one of the two long forms, imm32 zero in the 64-bit form (R81), and no mark (R94). -/
def wellFormedLong (op : Nat) (o : Canon) : Bool :=
  (longErr op o).isNone && (o.len == 2#2 || (o.len == 1#2 && o.imm == 0#32))

/-- The instruction has an external form that carries no mark; every event is well-formed (R80-R95). -/
def Instr.wellFormed (i : Instr) : Bool :=
  match longOf i with
  | some (op, o) => wellFormedLong op o
  | none =>
    match shortOf i with
    | some (op, o) => (longErr op o).isNone
    | none => true

end Sys2Proof
end

