-- ==== Sys2Proof/Decode.lean ====
section
/-! DEFINITION. The decoder of the byte stream with its fill checks and the encoder (R76-R96). -/

namespace Sys2Proof

open Sys2Proof.Machine

/-- Why a word is not an instruction: the mark fill gives it, with the guard bits that decide whether it raises (R85, R93-R95). -/
inductive Reject where
  /-- Bytes are missing (check 1 of R94). -/
  | truncated
  /-- ILLEGAL_OPCODE with OPC and SHORT. -/
  | illegalOpcode (opc : Nat) (short : Bool) (guard : BitVec 4)
  /-- ILLEGAL_ENCODING with REASON, FIELD and LEN. -/
  | illegalEncoding (reason field len : Nat) (guard : BitVec 4)
  deriving DecidableEq, Repr

/-- Rows of R96, part 1. -/
def longRows1 : List (Nat × (Canon → Instr)) := [
  (0x00, .iadd), (0x01, .isub), (0x02, .imul), (0x03, .imulh), (0x04, .imad), (0x05, .idiv), (0x06, .irem), (0x07, .imin), (0x08, .imax), (0x09, .iabs), (0x0a, .ineg), (0x0b, .and), (0x0c, .or), (0x0d, .xor), (0x0e, .not), (0x0f, .shl), (0x10, .shr), (0x11, .rot), (0x12, .popc), (0x13, .clz), (0x14, .brev), (0x15, .bfe), (0x16, .bfi), (0x17, .sel)]

/-- Rows of R96, part 2. -/
def longRows2 : List (Nat × (Canon → Instr)) := [
  (0x18, .mov), (0x19, .moviLow), (0x1a, .moviHighHalf), (0x1b, .iset), (0x1c, .plop), (0x1d, .padd), (0x1e, .iadd64Bit), (0x1f, .dp4), (0x20, .fadd), (0x21, .fsub), (0x22, .fmul), (0x23, .ffma), (0x24, .fmin), (0x25, .fmax), (0x26, .fset), (0x27, .fsf), (0x28, .fcvt), (0x29, .fcvtPack), (0x2a, .icvt), (0x2b, .pfma), (0x2c, .cfma), (0x2d, .fclass), (0x2e, .dp2), (0x2f, .frnd)]

/-- Rows of R96, part 3. -/
def longRows3 : List (Nat × (Canon → Instr)) := [
  (0x30, .fscl), (0x40, .bra), (0x41, .jmp), (0x42, .callRelative), (0x43, .callRegister), (0x44, .ret), (0x45, .exit), (0x46, .nop), (0x47, .yield), (0x48, .trap), (0x49, .brk), (0x4a, .lser), (0x4b, .lsend), (0x4c, .idem), (0x4d, .idemend), (0x4e, .waitt), (0x50, .tset), (0x51, .tsign), (0x52, .vote), (0x53, .lanex), (0x54, .tred), (0x55, .tscan), (0x56, .bar), (0x57, .barArrive)]

/-- Rows of R96, part 4. -/
def longRows4 : List (Nat × (Canon → Instr)) := [
  (0x60, .ldKBase), (0x61, .ldGBaseIndexed), (0x62, .stKBase), (0x63, .stGBaseIndexed), (0x64, .ldacq), (0x65, .strel), (0x66, .lds), (0x67, .ldsQuadPeer), (0x68, .sts), (0x69, .atomHome), (0x6a, .atomCompareSwap), (0x6b, .atomMemorySide), (0x6c, .red), (0x6d, .fence), (0x6e, .fencer), (0x6f, .pref), (0x80, .vset), (0x81, .vget), (0x82, .vld), (0x83, .vst), (0x84, .vzero), (0x85, .reqnt), (0x90, .mmaFloat), (0x91, .mmaInteger)]

/-- Rows of R96, part 5. -/
def longRows5 : List (Nat × (Canon → Instr)) := [
  (0x92, .cmma), (0x93, .mchb), (0x94, .mche), (0x95, .mcopy), (0x96, .mtrans), (0xa0, .lrmul), (0xa1, .lradd), (0xa2, .lrcut), (0xa3, .lrkeep), (0xa4, .lrfact), (0xa5, .lrdense), (0xa6, .lrmma), (0xa7, .lrrank), (0xa8, .lrscale), (0xb0, .ctload), (0xb1, .ctstore), (0xb2, .catlook), (0xb3, .catset), (0xb4, .catinv), (0xb5, .tileld), (0xb6, .tiledec), (0xb7, .tilest), (0xb8, .tileap), (0xb9, .tilechk)]

/-- Rows of R96, part 6. -/
def longRows6 : List (Nat × (Canon → Instr)) := [
  (0xc0, .cpy), (0xc1, .cpyMulticast), (0xc2, .fwait), (0xc3, .fwaitMulti), (0xc4, .ftest), (0xc5, .fcancel), (0xc6, .qcfg), (0xc7, .qpush), (0xc8, .qpop), (0xc9, .mrcfg), (0xca, .msend), (0xcb, .mwait), (0xd0, .route), (0xd1, .rret), (0xd2, .rtcfg), (0xd3, .launch), (0xd4, .lstat), (0xd5, .gtbr), (0xd6, .pxch), (0xe0, .csrr), (0xe1, .csrw), (0xe2, .tlbinv), (0xe3, .btinv), (0xe4, .sysc)]

/-- The long opcode map of R96. -/
def longRows : List (Nat × (Canon → Instr)) := longRows1 ++ longRows2 ++ longRows3 ++ longRows4 ++ longRows5 ++ longRows6

/-- The instruction of a long opcode; none where the opcode is unassigned. -/
def ofOpcode (op : Nat) (o : Canon) : Option Instr := (longRows.lookup op).map fun mk => mk o

/-- Bits [95:0] of a long word (R80). -/
def Canon.word (op : Nat) (o : Canon) : Nat :=
  o.len.toNat + 4 * (op + 256 * (o.guard.toNat + 16 * (o.d.toNat + 256 * (o.a.toNat + 256 * (o.b.toNat
    + 256 * (o.c.toNat + 256 * (o.mod.toNat + 262144 * o.imm.toNat)))))))

/-- The fields of a long word (R80). -/
def Canon.ofWord (w : Nat) : Canon :=
  { len := BitVec.ofNat 2 w, guard := BitVec.ofNat 4 (w / 2 ^ 10), d := BitVec.ofNat 8 (w / 2 ^ 14), a := BitVec.ofNat 8 (w / 2 ^ 22),
    b := BitVec.ofNat 8 (w / 2 ^ 30), c := BitVec.ofNat 8 (w / 2 ^ 38), mod := BitVec.ofNat 18 (w / 2 ^ 46), imm := BitVec.ofNat 32 (w / 2 ^ 64) }

/-- A long word of 8 or 12 bytes: checks 3 to 7 of R94. -/
def decodeLong (w : Nat) : Except Reject Instr :=
  let o := Canon.ofWord w
  let op := w / 4 % 256
  match ofOpcode op o with
  | none => .error (.illegalOpcode op false o.guard)
  | some i =>
    match longErr op o with
    | some e => .error (.illegalEncoding e.reason e.field o.len.toNat o.guard)
    | none => .ok i

/-- A short word read into its instruction, with the tests of its own layout in the order of R94:
those of check 5, then whether b is a selector (check 6), then those of check 7 (R91). -/
structure ShortRead where
  ins : Instr
  zeros : List (Option EncErr)
  selB : Bool
  tops : List (Option EncErr)

/-- A field that the table marks zero (check 5, reason 3). -/
def zeroField (v field : Nat) : Option EncErr := if v = 0 then none else some ⟨3, field⟩

/-- A field outside its class (check 7, reason 6). -/
def topField (ok : Bool) (field : Nat) : Option EncErr := if ok then none else some ⟨6, field⟩

/-- The rows of R92. `d`, `a`, `b` are the raw fields. -/
def readShort (sop : Nat) (g : BitVec 4) (d a : BitVec 6) (b : BitVec 8) : Option ShortRead :=
  let za := zeroField a.toNat 2
  let none3 := [zeroField d.toNat 1, za, zeroField b.toNat 3]
  let p : BitVec 3 := d.setWidth 3
  let pTop := topField (decide (d.toNat < 8)) 1
  let k : BitVec 5 := a.setWidth 5
  let kTop := topField (decide (a.toNat < 32)) 2
  match sop with
  | 0x00 => some ⟨.iaddShort g d a b, [], true, []⟩
  | 0x01 => some ⟨.isubShort g d a b, [], true, []⟩
  | 0x02 => some ⟨.imulShort g d a b, [], true, []⟩
  | 0x03 => some ⟨.imadShort g d a b, [], true, []⟩
  | 0x04 => some ⟨.iminShort g d a b, [], true, []⟩
  | 0x05 => some ⟨.imaxShort g d a b, [], true, []⟩
  | 0x06 => some ⟨.andShort g d a b, [], true, []⟩
  | 0x07 => some ⟨.orShort g d a b, [], true, []⟩
  | 0x08 => some ⟨.xorShort g d a b, [], true, []⟩
  | 0x09 => some ⟨.shlShort g d a b, [], true, []⟩
  | 0x0a => some ⟨.shrUsShort g d a b, [], true, []⟩
  | 0x0b => some ⟨.shrSgShort g d a b, [], true, []⟩
  | 0x0c => some ⟨.movShort g d b, [za], true, []⟩
  | 0x0d => some ⟨.moviShort g d b, [za], false, []⟩
  | 0x0e => some ⟨.isetLtSgShort g p a b, [], true, [pTop]⟩
  | 0x0f => some ⟨.isetEqShort g p a b, [], true, [pTop]⟩
  | 0x10 => some ⟨.isetLtUsShort g p a b, [], true, [pTop]⟩
  | 0x11 => some ⟨.isetNeShort g p a b, [], true, [pTop]⟩
  | 0x12 => some ⟨.paddShort g d a b, [], true, []⟩
  | 0x13 => some ⟨.popcShort g d b, [za], true, []⟩
  | 0x14 => some ⟨.faddShort g d a b, [], true, []⟩
  | 0x15 => some ⟨.fsubShort g d a b, [], true, []⟩
  | 0x16 => some ⟨.fmulShort g d a b, [], true, []⟩
  | 0x17 => some ⟨.ffmaShort g d a b, [], true, []⟩
  | 0x18 => some ⟨.fminShort g d a b, [], true, []⟩
  | 0x19 => some ⟨.fmaxShort g d a b, [], true, []⟩
  | 0x1a => some ⟨.fsetLtShort g p a b, [], true, [pTop]⟩
  | 0x1b => some ⟨.fsetEqShort g p a b, [], true, [pTop]⟩
  | 0x1c => some ⟨.fsfRcpShort g d b, [za], true, []⟩
  | 0x1d => some ⟨.fsfRsqrtShort g d b, [za], true, []⟩
  | 0x1e => some ⟨.icvtShort g d b, [za], true, []⟩
  | 0x1f => some ⟨.fcvtShort g d b, [za], true, []⟩
  | 0x20 => some ⟨.braShort g (d ++ a ++ b), [], false, []⟩
  | 0x21 => some ⟨.retShort g, none3, false, []⟩
  | 0x22 => some ⟨.exitShort g, none3, false, []⟩
  | 0x23 => some ⟨.nopShort g, none3, false, []⟩
  | 0x24 => some ⟨.yieldShort g, none3, false, []⟩
  | 0x25 => some ⟨.ldW32Short g d k b, [], false, [kTop]⟩
  | 0x26 => some ⟨.stW32Short g d k b, [], false, [kTop]⟩
  | 0x27 => some ⟨.ldsShort g d a b, [], false, []⟩
  | 0x28 => some ⟨.stsShort g d a b, [], false, []⟩
  | 0x29 => some ⟨.ldW64Short g d k b, [], false, [if d.toNat % 2 = 1 then some ⟨7, 1⟩ else none, kTop]⟩
  | 0x2a => some ⟨.stW64Short g d k b, [], false, [if d.toNat % 2 = 1 then some ⟨7, 1⟩ else none, kTop]⟩
  | 0x2b => some ⟨.fwaitShort g d a, [zeroField b.toNat 3], false, []⟩
  | 0x2c => some ⟨.tsignShort (g == 8) (b.setWidth 3), [zeroField d.toNat 1, za], true, [topField (isCv b.toNat) 3]⟩
  | 0x2d => some ⟨.barCoreShort (g == 8) (b.setWidth 4), [zeroField d.toNat 1, za], false, [topField (decide (b.toNat < 16)) 3]⟩
  | 0x2e => some ⟨.vldShort g d a (BitVec.ofNat 4 (b.toNat - 0x68)), [], true, [topField (isVw b.toNat) 3]⟩
  | 0x2f => some ⟨.vstShort g d a (BitVec.ofNat 4 (b.toNat - 0x68)), [], true, [topField (isVw b.toNat) 3]⟩
  | _ => none

/-- A short word: checks 3 to 7 of R94. -/
def decodeShort (w : Nat) : Except Reject Instr :=
  let sop := w / 4 % 64
  let g := BitVec.ofNat 4 (w / 2 ^ 8)
  let b := BitVec.ofNat 8 (w / 2 ^ 24)
  match readShort sop g (BitVec.ofNat 6 (w / 2 ^ 12)) (BitVec.ofNat 6 (w / 2 ^ 18)) b with
  | none => .error (.illegalOpcode sop true g)
  | some r =>
    let canonErr : Option EncErr := match shortOf r.ins with | some (op, o) => longErr op o | none => none
    let guardErr : Option EncErr :=
      match shortOf r.ins with
      | some (op, _) => if guardBound op ∧ g ≠ 0 ∧ g ≠ 8 then some ⟨8, 7⟩ else none
      | none => none
    let ffErr : Option EncErr := if r.selB ∧ b = 0xFF#8 then some ⟨5, 3⟩ else none
    match firstErr ([guardErr] ++ r.zeros ++ [ffErr] ++ r.tops ++ [canonErr]) with
    | some e => .error (.illegalEncoding e.reason e.field 0 g)
    | none => .ok r.ins

/-- Decode one instruction at the head of a byte list, giving the rest of the list (R76, R94). -/
def decode : List Byte → Except Reject (Instr × List Byte)
  | b0 :: b1 :: b2 :: b3 :: rest =>
    let w := leNat [b0, b1, b2, b3]
    let len := w % 4
    if len = 3 then .error (.illegalEncoding 1 8 3 (BitVec.ofNat 4 (w / 2 ^ 10)))
    else if len = 0 then (decodeShort w).map fun i => (i, rest)
    else if rest.length < 4 * len then .error .truncated
    else (decodeLong (w + 2 ^ 32 * leNat (rest.take (4 * len)))).map fun i => (i, rest.drop (4 * len))
  | _ => .error .truncated

/-- Bits [31:0] of a short word (R90). -/
def shortBits (sop : Nat) (g : BitVec 4) (d a : BitVec 6) (b : BitVec 8) : Nat :=
  4 * (sop + 64 * (g.toNat + 16 * (d.toNat + 64 * (a.toNat + 64 * b.toNat))))

/-- The word of a short instruction (R90, R92); none for the others. -/
def shortWord : Instr → Option Nat
  | .iadd _ => none
  | .iaddShort g d a b => some (shortBits 0x00 g d a b)
  | .isub _ => none
  | .isubShort g d a b => some (shortBits 0x01 g d a b)
  | .imul _ => none
  | .imulShort g d a b => some (shortBits 0x02 g d a b)
  | .imulh _ => none
  | .imad _ => none
  | .imadShort g d a b => some (shortBits 0x03 g d a b)
  | .idiv _ => none
  | .irem _ => none
  | .imin _ => none
  | .iminShort g d a b => some (shortBits 0x04 g d a b)
  | .imax _ => none
  | .imaxShort g d a b => some (shortBits 0x05 g d a b)
  | .iabs _ => none
  | .ineg _ => none
  | .and _ => none
  | .andShort g d a b => some (shortBits 0x06 g d a b)
  | .or _ => none
  | .orShort g d a b => some (shortBits 0x07 g d a b)
  | .xor _ => none
  | .xorShort g d a b => some (shortBits 0x08 g d a b)
  | .not _ => none
  | .shl _ => none
  | .shlShort g d a b => some (shortBits 0x09 g d a b)
  | .shr _ => none
  | .shrUsShort g d a b => some (shortBits 0x0a g d a b)
  | .shrSgShort g d a b => some (shortBits 0x0b g d a b)
  | .rot _ => none
  | .popc _ => none
  | .popcShort g d b => some (shortBits 0x13 g d 0 b)
  | .clz _ => none
  | .brev _ => none
  | .bfe _ => none
  | .bfi _ => none
  | .sel _ => none
  | .mov _ => none
  | .movShort g d b => some (shortBits 0x0c g d 0 b)
  | .moviLow _ => none
  | .moviShort g d n => some (shortBits 0x0d g d 0 n)
  | .moviHighHalf _ => none
  | .iset _ => none
  | .isetLtSgShort g p a b => some (shortBits 0x0e g (p.setWidth 6) a b)
  | .isetEqShort g p a b => some (shortBits 0x0f g (p.setWidth 6) a b)
  | .isetLtUsShort g p a b => some (shortBits 0x10 g (p.setWidth 6) a b)
  | .isetNeShort g p a b => some (shortBits 0x11 g (p.setWidth 6) a b)
  | .plop _ => none
  | .padd _ => none
  | .paddShort g d a b => some (shortBits 0x12 g d a b)
  | .iadd64Bit _ => none
  | .dp4 _ => none
  | .fadd _ => none
  | .faddShort g d a b => some (shortBits 0x14 g d a b)
  | .fsub _ => none
  | .fsubShort g d a b => some (shortBits 0x15 g d a b)
  | .fmul _ => none
  | .fmulShort g d a b => some (shortBits 0x16 g d a b)
  | .ffma _ => none
  | .ffmaShort g d a b => some (shortBits 0x17 g d a b)
  | .fmin _ => none
  | .fminShort g d a b => some (shortBits 0x18 g d a b)
  | .fmax _ => none
  | .fmaxShort g d a b => some (shortBits 0x19 g d a b)
  | .fset _ => none
  | .fsetLtShort g p a b => some (shortBits 0x1a g (p.setWidth 6) a b)
  | .fsetEqShort g p a b => some (shortBits 0x1b g (p.setWidth 6) a b)
  | .fsf _ => none
  | .fsfRcpShort g d b => some (shortBits 0x1c g d 0 b)
  | .fsfRsqrtShort g d b => some (shortBits 0x1d g d 0 b)
  | .fcvt _ => none
  | .fcvtShort g d b => some (shortBits 0x1f g d 0 b)
  | .fcvtPack _ => none
  | .icvt _ => none
  | .icvtShort g d b => some (shortBits 0x1e g d 0 b)
  | .pfma _ => none
  | .cfma _ => none
  | .fclass _ => none
  | .dp2 _ => none
  | .frnd _ => none
  | .fscl _ => none
  | .bra _ => none
  | .braShort g disp => some (shortBits 0x20 g (BitVec.ofNat 6 (disp.toNat / 2 ^ 14)) (BitVec.ofNat 6 (disp.toNat / 2 ^ 8)) (disp.setWidth 8))
  | .jmp _ => none
  | .callRelative _ => none
  | .callRegister _ => none
  | .ret _ => none
  | .retShort g => some (shortBits 0x21 g 0 0 0)
  | .exit _ => none
  | .exitShort g => some (shortBits 0x22 g 0 0 0)
  | .nop _ => none
  | .nopShort g => some (shortBits 0x23 g 0 0 0)
  | .yield _ => none
  | .yieldShort g => some (shortBits 0x24 g 0 0 0)
  | .trap _ => none
  | .brk _ => none
  | .lser _ => none
  | .lsend _ => none
  | .idem _ => none
  | .idemend _ => none
  | .waitt _ => none
  | .tset _ => none
  | .tsign _ => none
  | .tsignShort never cv => some (shortBits 0x2c (Short.bound never) 0 0 (0x78#8 + cv.setWidth 8))
  | .vote _ => none
  | .lanex _ => none
  | .tred _ => none
  | .tscan _ => none
  | .bar _ => none
  | .barCoreShort never id => some (shortBits 0x2d (Short.bound never) 0 0 (id.setWidth 8))
  | .barArrive _ => none
  | .ldKBase _ => none
  | .ldW32Short g d k n => some (shortBits 0x25 g d (k.setWidth 6) n)
  | .ldW64Short g d k n => some (shortBits 0x29 g d (k.setWidth 6) n)
  | .ldGBaseIndexed _ => none
  | .stKBase _ => none
  | .stW32Short g d k n => some (shortBits 0x26 g d (k.setWidth 6) n)
  | .stW64Short g d k n => some (shortBits 0x2a g d (k.setWidth 6) n)
  | .stGBaseIndexed _ => none
  | .ldacq _ => none
  | .strel _ => none
  | .lds _ => none
  | .ldsShort g d a n => some (shortBits 0x27 g d a n)
  | .ldsQuadPeer _ => none
  | .sts _ => none
  | .stsShort g d a n => some (shortBits 0x28 g d a n)
  | .atomHome _ => none
  | .atomCompareSwap _ => none
  | .atomMemorySide _ => none
  | .red _ => none
  | .fence _ => none
  | .fencer _ => none
  | .pref _ => none
  | .vset _ => none
  | .vget _ => none
  | .vld _ => none
  | .vldShort g d a vw => some (shortBits 0x2e g d a (0x68#8 + vw.setWidth 8))
  | .vst _ => none
  | .vstShort g d a vw => some (shortBits 0x2f g d a (0x68#8 + vw.setWidth 8))
  | .vzero _ => none
  | .reqnt _ => none
  | .mmaFloat _ => none
  | .mmaInteger _ => none
  | .cmma _ => none
  | .mchb _ => none
  | .mche _ => none
  | .mcopy _ => none
  | .mtrans _ => none
  | .lrmul _ => none
  | .lradd _ => none
  | .lrcut _ => none
  | .lrkeep _ => none
  | .lrfact _ => none
  | .lrdense _ => none
  | .lrmma _ => none
  | .lrrank _ => none
  | .lrscale _ => none
  | .ctload _ => none
  | .ctstore _ => none
  | .catlook _ => none
  | .catset _ => none
  | .catinv _ => none
  | .tileld _ => none
  | .tiledec _ => none
  | .tilest _ => none
  | .tileap _ => none
  | .tilechk _ => none
  | .cpy _ => none
  | .cpyMulticast _ => none
  | .fwait _ => none
  | .fwaitShort g d a => some (shortBits 0x2b g d a 0)
  | .fwaitMulti _ => none
  | .ftest _ => none
  | .fcancel _ => none
  | .qcfg _ => none
  | .qpush _ => none
  | .qpop _ => none
  | .mrcfg _ => none
  | .msend _ => none
  | .mwait _ => none
  | .route _ => none
  | .rret _ => none
  | .rtcfg _ => none
  | .launch _ => none
  | .lstat _ => none
  | .gtbr _ => none
  | .pxch _ => none
  | .csrr _ => none
  | .csrw _ => none
  | .tlbinv _ => none
  | .btinv _ => none
  | .sysc _ => none
  | .instructionFill _ _ => none
  | .registrarMerge _ => none
  | .podBarrierRelease _ _ _ => none
  | .launchAbort _ _ => none
  | .launchAcceptance _ => none
  | .dispatchTick => none
  | .cohortComplete _ => none
  | .save _ => none
  | .drainTimeout _ => none
  | .ctrlReset _ => none
  | .hostResetRequest _ => none
  | .migrationComplete _ _ => none
  | .copyComplete _ _ => none
  | .tileDecodeComplete _ _ => none
  | .tileEncodeComplete _ _ => none
  | .tilechkComplete _ _ => none
  | .matrixOpComplete _ => none
  | .chainComplete _ _ => none
  | .lowRankAsyncComplete _ _ => none
  | .messagePlacement _ _ => none
  | .routeDelivery _ _ => none
  | .rretArrival _ _ => none
  | .routeTimeout _ _ => none
  | .atTimeReached _ _ => none
  | .waittExpiry _ => none
  | .pxchPaired _ _ _ _ => none
  | .pxchTimeout _ _ => none
  | .requestRetry _ => none
  | .remoteRequest _ _ _ _ _ _ _ _ _ => none
  | .remoteResend _ => none
  | .remoteRequestTimeout _ => none
  | .companionRequest _ _ _ _ _ _ => none
  | .timeSync _ => none
  | .refresh _ _ _ => none
  | .uncorrectableError _ _ => none
  | .retire _ => none
  | .channelRebuildDone _ => none
  | .dommapWrite _ _ => none
  | .nodeidWrite _ => none
  | .mgmtWindowWrite _ _ => none
  | .attestationReport => none
  | .identityPublicKey => none
  | .mirdarCmdRefused => none
  | .boot _ _ _ => none
  | .estimatorSample _ _ => none
  | .thermalThrottle _ _ => none
  | .thermalShutdown _ => none
  | .remoteAnswer _ _ _ _ _ => none
  | .writeReachesHome _ => none
  | .redAtHome _ => none
  | .fabricPortTraining _ _ => none
  | .podJoin _ => none
  | .throttleEnd _ _ => none
  | .blockReencryptionDone _ => none
  | .portKeyInstall _ => none

/-- The bytes of a well-formed instruction, lowest address first; none for an event (R76, R80, R90). -/
def encode (i : Instr) : List Byte :=
  match longOf i with
  | some (op, o) => toLE (4 * (1 + o.len.toNat)) (o.word op)
  | none => match shortWord i with | some w => toLE 4 w | none => []

/-- The instruction whose bits are `w`, laid out little-endian in at least twelve bytes (R76). -/
def decodeTableWord (nbits w : Nat) : Option Instr :=
  match decode (toLE (max (nbits / 8) 12) w) with
  | .ok (i, _) => some i
  | .error _ => none

end Sys2Proof
end

