-- ==== Sys2Proof/Machine/Aes.lean ====
section
/-! DEFINITION. AES-256 on one block, and the keystream of the capacity tier's encryption (R281). PRESUMED (log 52): AES is that of FIPS 197. -/

namespace Sys2Proof.Machine

/-- Doubling in the field of AES. -/
def aesDouble (a : Nat) : Nat := if a < 128 then 2 * a else Nat.xor (2 * a - 256) 0x1B

/-- The product in the field of AES. -/
def aesMul (a b : Nat) : Nat :=
  ((List.range 8).foldl (fun (r : Nat × Nat) i => (if b / 2 ^ i % 2 = 1 then Nat.xor r.1 r.2 else r.1, aesDouble r.2)) (0, a)).1

/-- The inverse in the field of AES, 0 for 0: the 254th power. -/
def aesInv (a : Nat) : Nat :=
  let a2 := aesMul a a; let a4 := aesMul a2 a2; let a8 := aesMul a4 a4; let a16 := aesMul a8 a8
  let a32 := aesMul a16 a16; let a64 := aesMul a32 a32; let a128 := aesMul a64 a64
  aesMul a2 (aesMul a4 (aesMul a8 (aesMul a16 (aesMul a32 (aesMul a64 a128)))))

/-- A byte rotated left. -/
def rotl8 (x n : Nat) : Nat := x * 2 ^ n % 256 + x * 2 ^ n / 256

/-- The substitution of a byte. -/
def aesSub (x : Nat) : Nat :=
  let b := aesInv x
  (List.range 5).foldl (fun r i => Nat.xor r (rotl8 b i)) 0x63

/-- The sum of two lists of bytes. -/
def xorList (xs ys : List Nat) : List Nat := xs.zipWith Nat.xor ys

/-- The key schedule of a key of 32 bytes: 60 words of 4 bytes. -/
def aesKeys (key : List Nat) : List (List Nat) :=
  let word (i : Nat) : List Nat := (key.drop (4 * i)).take 4
  ((List.range 52).foldl (fun (r : List (List Nat) × Nat) k =>
    let i := k + 8
    let prev := (r.1[i - 1]?).getD []
    let rot := (prev.drop 1 ++ prev.take 1).map aesSub
    let t := if i % 8 = 0 then xorList rot [r.2, 0, 0, 0] else if i % 8 = 4 then prev.map aesSub else prev
    (r.1 ++ [xorList ((r.1[i - 8]?).getD []) t], if i % 8 = 0 then aesDouble r.2 else r.2)) ((List.range 8).map word, 1)).1

/-- The rows of the state are shifted; bytes stand column by column. -/
def aesShift (b : List Nat) : List Nat :=
  (List.range 16).map fun i => (b[(4 * (i / 4 + i % 4) + i % 4) % 16]?).getD 0

/-- One column is mixed. -/
def aesColumn (col : List Nat) : List Nat :=
  let x (i : Nat) : Nat := (col[i % 4]?).getD 0
  (List.range 4).map fun i => Nat.xor (Nat.xor (aesMul (x i) 2) (aesMul (x (i + 1)) 3)) (Nat.xor (x (i + 2)) (x (i + 3)))

/-- The columns are mixed. -/
def aesMix (b : List Nat) : List Nat := (List.range 4).flatMap fun i => aesColumn ((b.drop (4 * i)).take 4)

/-- AES-256 of one block of 16 bytes. -/
def aes256 (key block : List Nat) : List Nat :=
  let ks := aesKeys key
  let rk (i : Nat) : List Nat := ((ks.drop (4 * i)).take 4).flatten
  let b := (List.range 13).foldl (fun b i => xorList (aesMix (aesShift (b.map aesSub))) (rk (i + 1))) (xorList block (rk 0))
  xorList (aesShift (b.map aesSub)) (rk 14)

/-- The bytes of a 128-bit value, least significant first. -/
def bytes16 (v : Nat) : List Nat := (List.range 16).map fun i => v / 2 ^ (8 * i) % 256

/-- The keystream byte of a Lenzel Link address under a key and the counters of its block and line (R281). -/
def keyStream (key : List Nat) (la major minor : Nat) : Nat :=
  let t := aes256 key (bytes16 (major * 2 ^ 64 + la / 4096))
  let ks := aes256 key (xorList t (bytes16 (minor * 2 ^ 8 + la / 64 % 64 * 4 + la / 16 % 4)))
  (ks[la % 16]?).getD 0

end Sys2Proof.Machine
end

