-- ==== Sys2Proof/Config.lean ====
section
/-! DEFINITION. The values that the spec leaves open, as constants without a body: no proof can see what they are (assumption log). -/

namespace Sys2Proof.Config

/-- Which of several permitted alternatives is taken, at the n-th free choice (R59, R79, R140, R158, R198, R201, R208). -/
opaque pick : Nat → Nat

/-- The set of a quad's L2 TLB that holds a page, by partition, page address and size (R187). -/
opaque tlbSet : Nat → Nat → Nat → Nat

/-- The cycles within which a write becomes visible to an acquire, to the first load after a fence and to an atomic whose scope holds its writer (R203). -/
opaque visibleIn : Nat

/-- A byte that the spec leaves unspecified, at the n-th such byte (R72, R148, R223). -/
opaque freeByte : Nat → Byte

/-- The value of FSF, by rounding mode, function and input bits, before the bounds of R128 are imposed. -/
opaque fsf : Nat → Nat → Nat → Nat

/-- Whether a Lenzel Link line of 64 B lies in the companion processor's memory (R186, R264). -/
opaque companionHas : Nat → Bool

/-- The identity public key that Mirdar derives from the fused secret (R277). -/
opaque identityKey : List Byte

/-- An ML-DSA-65 signature by the identity key over a message, with an empty context string (R277, R280). -/
opaque identitySign : List Byte → List Byte

/-- Whether a firmware signature holds over a digest (R277). -/
opaque imageSigned : List Byte → List Byte → Bool

/-- The fused minimum of firmware security versions (R277). -/
opaque minSecurity : Nat

/-- The 32 bytes of the key that Mirdar sets for a partition at its n-th reset (R281). -/
opaque partKey : Nat → Nat → List Nat

/-- The time in ns that a queued engine operation takes at its nominal rate, by engine kind and bytes (R250). -/
opaque engineNs : Nat → Nat → Nat

/-- Whether management has marked a node as one whose fabric traffic is encrypted (R281). -/
opaque nodeMarked : Nat → Bool

/-- Whether an encode of another device holds, at a cycle, the index entry at an address of a partition's memory on another node (R148). -/
opaque farHeld : Nat → Nat → Nat → Nat → Bool

/-- The hash of source node and sequence that chooses a fabric port (R268). -/
opaque portHash : Nat → Nat → Nat

end Sys2Proof.Config
end

