-- ==== Sys2Proof/Machine/State.lean ====
section
/-! DEFINITION. The state of the device: all that the spec names, as plain data, and the state after reset. -/

namespace Sys2Proof.Machine

/-- A stop of the model that is no exception of the machine. -/
inductive Fault where
  /-- An instruction is executed while no thread is chosen to execute it. No run reaches this: `step` chooses the thread first. Raised by every meaning of an instruction; safe. -/
  | noThread
  deriving DecidableEq, Repr

/-- An instruction without a meaning. -/
inductive Refusal where
  /-- The instruction has no meaning in the model. Raised by `exec` alone; safe. -/
  | notModelled (mnemonic : String)
  deriving DecidableEq, Repr

/-- One write of a uniform register: its issue number, value, writers and the threads that are certain to see it (R59, R60). -/
structure UWrite (α : Type) where
  id : Nat
  val : α
  writers : List Nat
  sure : List Nat
  deriving DecidableEq, Repr

/-- A register that a cohort shares: the value every thread is certain of and the later writes, newest first (R59). -/
structure UCell (α : Type) where
  base : α
  hist : List (UWrite α)
  deriving DecidableEq, Repr

/-- A view record (R64). DENSE is bit [1] of FLAGS. -/
structure View where
  kind : Nat
  fmt : Nat
  scl : Nat
  signed : Bool
  dense : Bool
  base : Nat
  rows : Nat
  cols : Nat
  pitch : Nat
  soff : Nat
  maxrank : Nat
  rank : Nat
  poolsz : Nat
  deriving DecidableEq, Repr

/-- The null view (R66). -/
def View.null : View := ⟨0, 0, 0, false, false, 0, 0, 0, 0, 0, 0, 0, 0⟩

/-- A convergence register (R36). -/
structure CvReg where
  mask : Word
  slot : BitVec 6
  valid : Bool
  deriving DecidableEq, Repr

/-- A loaded code-table slot: image and source (R132). -/
structure CtImg where
  bytes : List Byte
  source : DWord
  deriving DecidableEq, Repr

/-- A configured tile queue (R225): what each entry's push makes known stands beside it (R199). -/
structure TQueue where
  base : Nat
  depth : Nat
  size : Nat
  head : Nat
  known : List (List Nat)
  deriving DecidableEq, Repr

/-- An open signing point: PC offset, instruction and what each signed member supplied (R37). -/
structure SignPt where
  pc : Nat
  op : Nat
  word : Canon
  signed : List (Nat × List Nat)
  deriving DecidableEq, Repr

/-- An entered lane-serialised region (R41, R356). -/
structure Region where
  pc : Nat
  inside : Option Nat
  todo : List Nat
  known : List Nat
  deriving DecidableEq, Repr

/-- One contribution of a chained MMA to its accumulator: the C view and its register, one term for each element, whether the element's addition is still to
come, the flags met on the way, the members that receive flags, and the writes made for it so far, from one number up to another (R118, R158, R159). -/
structure Contrib where
  view : View
  vw : Nat
  isInt : Bool
  sat : Bool
  terms : List Int
  left : List Bool
  flags : Flags
  takers : List Nat
  made : List (Nat × Nat)
  deriving DecidableEq, Repr

/-- What an operation of the matrix engine writes when it completes: tile-space bytes, the ranks of a factor view, flags, or its fault. -/
structure Effect where
  bytes : List (Nat × Byte)
  rank : Option (Nat × Nat × Bool)
  flags : Flags
  fault : Option (Nat × DWord)
  deriving DecidableEq, Repr

/-- The first entry of a fault record, with the fields of R47. -/
structure FirstFault where
  x : Nat
  y : Nat
  z : Nat
  tid : Nat
  code : Nat
  kind : Nat
  pc : Nat
  detail : DWord
  deriving DecidableEq, Repr

/-- The barrier instance a BAR names (R42, R295). -/
inductive BarKey where
  | core (coh uid id : Nat)
  | span (part seq span id : Nat)
  | die (part seq die id : Nat)
  | pod (part tag seq id : Nat)
  deriving DecidableEq, Repr

/-- A generation of a barrier instance: what its arrivals make known, who arrived, with the issue number of the cohort's uniform writes then (R59, R296), and whether
the pod's lowest node has been told (R271). -/
structure BarGen where
  gen : Nat
  known : List Nat
  arrived : List (Nat × Nat)
  reported : Bool
  deriving DecidableEq, Repr

/-- A barrier instance: its current generation, and the generations that some thread still needs (R295, R296). -/
structure BarInst where
  key : BarKey
  gen : Nat
  gens : List BarGen
  deriving DecidableEq, Repr

/-- A pending arrival of a thread (R295). -/
structure Arrival where
  key : BarKey
  gen : Nat
  deriving DecidableEq, Repr

/-- What a blocked thread waits for (R30, R254). -/
inductive Wait where
  | future (core serial : Nat)
  | futures (hs : List (Nat × Nat)) (all : Bool)
  | team (cv : Nat)
  | region (cv : Nat)
  | bar (key : BarKey) (gen : Nat)
  | queue (q : Nat) (push tile : Bool) (off len : Nat)
  | mail (core ring dst d len : Nat)
  | time (t : DWord)
  | page (m : Nat) (detail : DWord)
  | launch (bytes : List Byte) (d len : Nat)
  | engine
  | messages
  | atLaunch
  | pxch
  | retry
  | remote (r : Nat)
  | matrix
  | entry
  deriving DecidableEq, Repr

/-- The run state of a thread (R254). -/
inductive Run where
  | ready
  | exited
  | stopped
  | blocked (w : Wait)
  deriving DecidableEq, Repr

/-- Where a ready thread stands in issue: in no entry, listed in the Registrar or the ready queue, or in the issue group that executes. -/
inductive Listed where
  | no
  | registrar
  | issuing
  deriving DecidableEq, Repr

/-- One thread (R23, R54). -/
structure Thread where
  coh : Nat
  tid : Nat
  pc : DWord
  g : List Word
  pend : BitVec 64
  p : BitVec 8
  fstat : Flags
  rmode : BitVec 2
  fcode : Word
  fpc : DWord
  fdetail : DWord
  region : Option (DWord × Nat)
  run : Run
  listed : Listed
  since : Nat
  seen : List Nat
  arrivals : List Arrival
  deriving DecidableEq, Repr

/-- Where a cohort is; a saved one with the granules of the save area that hold its image (R254). -/
inductive Place where
  | resident
  | saved (granules : List Nat)
  | gone
  deriving DecidableEq, Repr

/-- A decision to take a cohort's core back that has not been carried out yet (R250, R251, R253). -/
inductive Taken where
  | no
  | drain (limit : Nat) (part seq lin : Nat)
  | save
  deriving DecidableEq, Repr

/-- One cohort (R24): identity, shape, registers, teams and fault record; `replaced` says that it was flushed and has started again as another one (R252), `yieldsTo`
that its core was taken for a child launch of this partition and SEQ (R53), `leftAt` when it left its core last (R247),
`opsKnown` what its operations whose statuses are no longer retained knew (R46, R216). -/
structure Cohort where
  uid : Nat
  part : Nat
  seq : Nat
  lin : Nat
  core : Nat
  place : Place
  taken : Taken
  placedAt : Nat
  nthr : Nat
  gregs : Nat
  tilegr : Nat
  scrgr : Nat
  spanSize : Nat
  kentry : DWord
  handler : Word
  k : List (UCell DWord)
  vw : List (UCell View)
  cv : List (UCell CvReg)
  ct : List (UCell (Option CtImg))
  ftol : UCell Word
  drain : UCell Word
  divcnt : UCell Word
  unext : Nat
  queues : List (Option TQueue)
  points : List (Option SignPt)
  regions : List (Option Region)
  chains : List (Option (List Contrib))
  holds : List (Nat × Nat × Nat)
  faults : Nat
  first : Option FirstFault
  replaced : Bool
  yieldsTo : Option (Nat × Nat)
  leftAt : Nat
  opsKnown : List Nat
  deriving DecidableEq, Repr

/-- An entry of a core's Registrar (R30). -/
structure RegEntry where
  core : Nat
  coh : Nat
  pc : DWord
  tids : List Nat
  age : Nat
  deriving DecidableEq, Repr

/-- The issue group that executes, one member at a time in ascending lane (R31). -/
structure Group where
  core : Nat
  coh : Nat
  pc : DWord
  left : List Nat
  members : List Nat
  taken : Nat
  missed : Nat
  deriving DecidableEq, Repr

/-- A fill mark or an instruction (R93). -/
inductive Filled where
  | ins (i : Instr)
  | mark (code : Nat) (detail : DWord) (guard : BitVec 4) (always : Bool)
  deriving DecidableEq, Repr

/-- A word of an instruction cache, with its length code (R78). -/
structure ICWord where
  core : Nat
  part : Nat
  pc : DWord
  len : Nat
  word : Filled
  deriving DecidableEq, Repr

/-- A leaf that a TLB holds (R187). -/
structure Leaf where
  part : Nat
  va : Nat
  size : Nat
  frame : Nat
  res : Bool
  mig : Bool
  cache : Bool
  mside : Bool
  enc : Bool
  deriving DecidableEq, Repr

/-- A mailbox ring as its network interface knows it (R228). -/
structure Ring where
  core : Nat
  num : Nat
  coh : Nat
  part : Nat
  base : Nat
  slots : Nat
  sl : Nat
  head : Nat
  tail : Nat
  known : List (List Nat)
  deriving DecidableEq, Repr

/-- A station of a station table (R232, R234). -/
structure Station where
  ring : Nat
  cap : Nat
  round : Nat
  count : Nat
  deriving DecidableEq, Repr

/-- A loaded station table (R232). -/
structure StTable where
  quad : Nat
  num : Nat
  part : Nat
  stations : List Station
  deriving DecidableEq, Repr

/-- The state of one choice of one row (R234, R235). -/
inductive ChoiceSt where
  | waiting
  | none
  | delivered
  | dropped
  | returned (y : List Nat)
  deriving DecidableEq, Repr

/-- One choice of one row. -/
structure Choice where
  row : Nat
  j : Nat
  station : Nat
  weight : Nat
  st : ChoiceSt
  deriving DecidableEq, Repr

/-- A reassembly-table entry (R233-R238): the operation, its descriptor, the route engine's copy of the source rows, the choices, whether LATE has
been cleared, and whether every row has been finalised by a limit or a cancellation. -/
structure Reasm where
  quad : Nat
  num : Nat
  core : Nat
  serial : Nat
  part : Nat
  seq : Nat
  active : Bool
  out : DWord
  timeout : Nat
  round : Nat
  table : Nat
  nout : Nat
  nrows : Nat
  nk : Nat
  renorm : Bool
  pass : Bool
  srccore : Nat
  rowBytes : List (List Byte)
  choices : List Choice
  started : Bool
  ended : Bool
  cancelled : Bool
  deriving DecidableEq, Repr

/-- The effect an engine operation has when it completes (R212-R241). -/
inductive OpBody where
  | copy (multi : Bool) (dsp ssp mask : Nat) (dst src : DWord) (xb ny nz : Nat) (srs drs sps dps : Int)
  | tileLd (name : DWord) (view : View) (vw : Nat) (ahead : Bool) (cts : List (Option CtImg))
  | tileDec (name dst : DWord) (scr lvl : Bool) (cts : List (Option CtImg))
  | tileSt (name : DWord) (view : View) (vw : Nat) (table subs : Nat) (rawfb : Bool) (cts : List (Option CtImg))
  | tileAp (name : DWord) (view : View) (vw : Nat) (n table : Nat) (rawfb : Bool) (cts : List (Option CtImg))
  | tileChk (name report : DWord) (n : Nat) (cts : List (Option CtImg))
  | chain (parts : List Contrib)
  | lowRank (e : Effect) (d a : Nat)
  | message (ring len payload tag : Nat) (wait : Bool)
  | route (quad entry : Nat)
  | rret (tag round nout off : Nat)
  | launch (bytes : List Byte) (seq : Option Nat) (queued : Bool)
  | pxch (ptr : DWord) (ll nb hb tag : Nat)
  deriving DecidableEq, Repr

/-- The progress of an engine operation: held until its time, running, beyond cancellation (an encode that holds its index entry, a late return that has arrived; R146,
R219), done. -/
inductive Phase where
  | held
  | running
  | committed
  | done
  deriving DecidableEq, Repr

/-- How far a tile operation has come (R146, R414, R416): nothing yet; an encode that holds its index entry, with the record and the entry as it found them; one that
has its stream to write, then the new entry, with its status; one that has written its stream; the bytes that a decode or a check writes, with its status. -/
inductive OpWork where
  | fresh
  | taken (record entry : List Byte)
  | coded (record entry stream new : List Byte) (st : Word)
  | stored (record entry new : List Byte) (st : Word)
  | decoded (bytes : List Byte) (st : Word)
  deriving DecidableEq, Repr

/-- An engine operation: an agent of its own (R212), its handle (R214) and its status (R215); `born` is the number of the first write that could be its own, `work` how far
a tile operation has come. -/
structure Op where
  core : Nat
  serial : Nat
  kind : Nat
  part : Nat
  coh : Nat
  uid : Nat
  seq : Nat
  tid : Nat
  phase : Phase
  start : DWord
  holdsEntry : Bool
  status : Word
  order : Nat
  seen : List Nat
  scope : Nat
  flags : Flags
  takers : List Nat
  born : Nat
  work : OpWork
  body : OpBody
  deriving DecidableEq, Repr

/-- An operation of a matrix engine whose result is not written yet, and whether its team's chain was open when it signed, so that its members have gone on (R154,
R155). -/
structure MatOp where
  core : Nat
  coh : Nat
  cv : Nat
  tids : List Nat
  chained : Bool
  eff : Effect
  deriving DecidableEq, Repr

/-- Where an access comes from: its agent and the place that decides scopes (R197, R204); `hub` is the Curator or a system hub acting for a partition; an agent of another
device has a number there. -/
inductive Agent where
  | thread (t : Nat)
  | op (core serial : Nat)
  | core (c : Nat)
  | ni (c : Nat)
  | quad (q : Nat)
  | hub (part : Nat)
  | host (part : Nat)
  | node (n part who : Nat)
  deriving DecidableEq, Repr

/-- What a release tells: who released, at which scope, and the writes it makes known (R205). -/
structure Release where
  agent : Agent
  part : Nat
  scope : Nat
  known : List Nat
  deriving DecidableEq, Repr

/-- A write to locations: the lowest key of its bytes and their distances from it, the address software named, its agent, whether a release at .quad or wider has covered it, and the releases it carries
(R200, R205, R210); whether its home is on the memory side (R194, R204), the cycle in which it was performed (R203), and the predicted loads that happen before it (R202). -/
structure WriteRec where
  wid : Nat
  key : Nat
  offs : List Nat
  part : Nat
  va : Nat
  agent : Agent
  wide : Bool
  releases : List Release
  side : Bool
  made : Nat
  after : List Nat
  deriving DecidableEq, Repr

/-- A load whose value was predicted and is not committed yet (R202): its number among the known events, the next number standing for what it observed; its agent,
partition, address and bytes; the visible set at the load; and the loads of these bytes by any agent since: byte, write read (0 the initial one), visible set. -/
structure Guess where
  id : Nat
  agent : Agent
  part : Nat
  va : Nat
  bytes : List (Nat × Byte)
  seen : List Nat
  reads : List (Nat × Nat × List Nat)
  deriving DecidableEq, Repr

/-- One write of one byte: the writes of the byte ordered before it, and whether it has reached its home (R200, R209). -/
structure ByteWrite where
  wid : Nat
  val : Byte
  before : List Nat
  home : Bool
  deriving DecidableEq, Repr

/-- The writes of one byte since its initial write, newest first (R197). -/
structure ByteHist where
  key : Nat
  init : Byte
  writes : List ByteWrite
  deriving DecidableEq, Repr

/-- A RED that has not executed at its home yet (R390); its release's `known` set, when it is one, stands in `release`. -/
structure PendingRed where
  id : Nat
  ptr : DWord
  thread : Nat
  coh : Nat
  part : Nat
  key : Nat
  va : Nat
  side : Bool
  enc : Bool
  op : Nat
  typ : Nat
  operand : Nat
  release : Option Release
  deriving DecidableEq, Repr

/-- The provenance of the locations (R197-R209): `others` holds the visible sets of network interfaces, route engines and agents of other devices (R201). Of the writes
in an agent's visible sets, `reads` holds those that it has observed and that no edge has put before its accesses (R199), and `shown` those that it has not even observed
(R203). `guesses` are the predicted loads, `commits` those committed and what each observed (R202), `notices` what each host notification of a partition makes known as
a release at .sys (R264). -/
structure Prov where
  next : Nat
  writes : List WriteRec
  hist : List ByteHist
  fences : List Release
  reds : List PendingRed
  hub : List Nat
  host : List (Nat × List Nat)
  others : List (Agent × List Nat)
  reads : List (Agent × List Nat)
  shown : List (Agent × List Nat)
  guesses : List Guess
  commits : List (Nat × List Nat)
  notices : List (Nat × List Nat)
  picks : Nat
  deriving DecidableEq, Repr

/-- The fields of a launch record (R26). -/
structure LaunchRec where
  kentry : DWord
  params : DWord
  compl : DWord
  gx : Nat
  gy : Nat
  gz : Nat
  nthr : Nat
  gregs : Nat
  nviews : Nat
  nargs : Nat
  policy : Nat
  ctrl : Nat
  tilegr : Nat
  scrgr : Nat
  handler : Word
  latbound : Nat
  ltag : Nat
  preq : List Nat
  deriving DecidableEq, Repr

/-- An accepted launch (R26-R53): `known` is what its fetches observe (R79), `entry` what its threads know (R51), `wrote` what its ended cohorts
made known (R46), `preqs` the SEQs that its prerequisite tags named, `flushed` the cohorts to restart, each with the index it had (R252). -/
structure Launch where
  part : Nat
  seq : Nat
  lr : LaunchRec
  views : List View
  args : List DWord
  child : Option (Nat × Nat)
  state : Nat
  accepted : Nat
  since : Nat
  nextLin : Nat
  completed : Nat
  doneLins : List Nat
  prefix_ : Nat
  faults : Nat
  first : Option FirstFault
  known : List Nat
  entry : List Nat
  wrote : List Nat
  preqs : List Nat
  aborting : Bool
  cancelled : Bool
  kind5 : Bool
  flushed : List (Nat × Nat)
  deriving DecidableEq, Repr

/-- A record in a device-side launch queue (R52). -/
structure DevRec where
  bytes : List Byte
  core : Nat
  serial : Nat
  known : List Nat
  deriving DecidableEq, Repr

/-- The Curator's copy of a partition's configuration (R242) and its own state for it. -/
structure Part where
  present : Bool
  interactive : Bool
  cores : Nat
  bwb : Nat
  pwb : Nat
  defbw : Nat
  defpw : Nat
  coreset : Nat
  btbase : Nat
  ttbase : DWord
  ptroot : Nat
  hqcb : DWord
  fqcb : DWord
  savebase : DWord
  savelen : Nat
  migpool : DWord
  ranges : List (Nat × Nat)
  hctrl : DWord
  nextSeq : Nat
  hostBad : Bool
  fqBad : Bool
  devTurn : Bool
  devq : List DevRec
  resets : Nat
  deriving DecidableEq, Repr

/-- A page that is being brought from the capacity tier (R189); `askers` are the agents other than threads that wait for it. -/
structure Migration where
  id : Nat
  leaf : Leaf
  pte : Nat
  frame : Nat
  askers : List Agent
  deriving DecidableEq, Repr

/-- A request to another device that waits for its answer (R270). Kinds: 0 read, 1 write, 2 atomic, 3 RED, 4 fetch, 5 the checks of a FENCER (R207), 6 an encode
takes its entry and 7 writes it, when it has bytes, and frees it (R146), 8 the checks of a write (R179); `off` is the pointer whose offset its failure
reports (R180); `sent` starts the limit of 10 ms and `again` the resend interval of 20 µs; `release` is what a release among them makes known, and `learned` what the
answer of an acquire made known (R205). -/
structure RemoteReq where
  id : Nat
  agent : Agent
  node : Nat
  seq : Nat
  part : Nat
  va : Nat
  off : Nat
  kind : Nat
  len : Nat
  mod : BitVec 18
  data : List Byte
  sent : Nat
  again : Nat
  release : Option Release
  answer : Option (Nat × Nat × DWord × List Byte)
  learned : List Nat
  deriving DecidableEq, Repr

/-- An entry of the replay cache (R270). -/
structure Replay where
  src : Nat
  seq : Nat
  result : List Byte
  deriving DecidableEq, Repr

/-- A release that was sent to a home on another device, by the device and the sequence of its request (R205, R270). -/
structure SentRelease where
  node : Nat
  seq : Nat
  release : Release
  deriving DecidableEq, Repr

/-- Another device's arrival at a BAR.pod that this device, the pod's lowest node, has not used yet (R271). -/
structure PodReport where
  part : Nat
  tag : Nat
  id : Nat
  node : Nat
  known : List Nat
  deriving DecidableEq, Repr

/-- A message that leaves the device (R264, R268, R273). A request that is relayed keeps its contents. -/
inductive Out where
  | notify (addr : Nat) (bytes : List Byte)
  | request (port node : Nat) (who : Agent) (seq part va kind len : Nat) (mod : BitVec 18) (data : List Byte)
  | forward (port src srcPart who dest seq part va kind len : Nat) (mod : BitVec 18) (data : List Byte)
  | answer (port src dest seq kind fault : Nat) (detail : DWord) (data : List Byte)
  | half (port src node part tag ll nb hb : Nat) (data : List (Nat × Byte))
  | barrier (port src node part tag id : Nat) (release : Bool)
  | host (part fault : Nat) (data : List Byte)
  deriving DecidableEq, Repr

/-- A message of BAR.pod that this device still has to send (R271): to which node, and whether it releases or reports. -/
structure PodDue where
  node : Nat
  part : Nat
  tag : Nat
  id : Nat
  release : Bool
  deriving DecidableEq, Repr

/-- A RED of a thread to another device that has not been answered yet, with its number among the events and the number of its request once it has been sent (R390); its
release, when it is one. -/
structure FarRed where
  id : Nat
  req : Option Nat
  thread : Nat
  node : Nat
  part : Nat
  va : Nat
  off : Nat
  len : Nat
  mod : BitVec 18
  data : List Byte
  release : Option Release
  deriving DecidableEq, Repr

/-- A message of this or another device that no port has taken yet (R22, R268, R281): to which node, its source and sequence, and its length. -/
structure HeldMsg where
  node : Nat
  src : Nat
  seq : Nat
  len : Nat
  msg : Out
  deriving DecidableEq, Repr

/-- An index entry at its home on another device that an encode of this device, which has ended without writing it, may hold there (R146). -/
structure HoldDue where
  core : Nat
  serial : Nat
  node : Nat
  part : Nat
  va : Nat
  off : Nat
  deriving DecidableEq, Repr

/-- The fabric side of the device (R267-R273): `podDue` are this device's barrier messages that have not left yet, `outDue` answers and relayed messages that no port has
taken yet, `letGo` index entries to free at their homes, `left` the partitions and tags of launches that have ended here with all participants exited, which count as arrived
(R43, R271); `reds` are the threads' REDs to other devices (R390). -/
structure Fabric where
  reqs : List RemoteReq
  reds : List FarRed
  nextReq : Nat
  seqs : List (Nat × Nat)
  replay : List Replay
  releases : List SentRelease
  reports : List PodReport
  podDue : List PodDue
  outDue : List HeldMsg
  letGo : List HoldDue
  left : List (Nat × Nat)
  out : List Out
  portFlits : List (Nat × Nat)
  deriving DecidableEq, Repr

/-- The encryption counters of a 4 KiB block of the capacity tier (R281), whether they are spent, and the lines that hold ciphertext, each with the partition and the number
of the partition's reset whose key it is under. The byte store holds what such a line decrypts to. -/
structure EncBlock where
  block : Nat
  major : Nat
  minor : List (Nat × Nat)
  busy : Bool
  spent : Bool
  sealed : List (Nat × Nat × Nat)
  deriving DecidableEq, Repr

/-- An entry of the boot history (R278). -/
structure BootEntry where
  count : Nat
  step : Nat
  outcome : Nat
  version : BitVec 64
  deriving DecidableEq, Repr

/-- Services of the device: time, health, root of trust and power (R240, R265-R283). `sources` and `running` give for boot steps 1 to 6 whence the running image came
and its digest, `mail` is the mailbox request that Mirdar has taken: CMD, NONCE and SEQ (R279, R280). `rebuilding` and `failed` list physical channels: those that
retire now and those whose retirement was refused. -/
structure Services where
  time : DWord
  frac : Nat
  trim : Int
  trimDebt : Int
  hold : DWord
  cyc : Nat
  clock : Nat
  bootCount : Nat
  history : List BootEntry
  sources : List Nat
  running : List (List Byte)
  mail : Option (Nat × List Byte × Nat)
  booted : Bool
  bw : List Nat
  pw : List Nat
  rebuilding : List Nat
  failed : List Nat
  enc : List EncBlock
  deriving DecidableEq, Repr

/-- What the Curator has to do in a partition's memory, and does again while an access is refused with retry or a page migrates (R22, R48, R189, R259-R261): a write; a
fault-queue entry, and each write that it comes to, with the TAIL that its notification names; SEQ and then STATE in the completion record of a rejected launch record;
HEAD := TAIL in the host queue at a reset; steps 4 to 6 of a reset, with the HCTRL that was in force; the answer in the host control block; the completion of a child
launch's future, once STATE has been written (R51). -/
inductive HubJob where
  | put (part : Nat) (seq : Option Nat) (ptr : DWord) (bytes : List Byte)
  | entry (part kind code seq cohort handle state : Nat) (detail time : DWord)
  | fq (part : Nat) (ptr : DWord) (bytes : List Byte) (tail : Option Nat)
  | reject (part seq code : Nat) (ptr : DWord) (time : DWord)
  | refuse (part seq code : Nat) (ptr : DWord) (time : DWord)
  | skip (part : Nat)
  | reset (part : Nat) (hctrl : DWord)
  | tell (part : Nat) (hctrl : DWord)
  | child (part core serial : Nat) (status : Word)
  deriving DecidableEq, Repr

/-- Who acts in the next step: a core's issue picker, an event of the device, or the prediction of loads. -/
inductive Turn where
  | core (c : Nat)
  | event (i : Instr)
  /-- The next plain load of a thread predicts these bytes (R202); the prediction is made only where the turns that follow commit it. -/
  | predict (t : Nat) (bytes : List Byte)
  /-- A predicted load is committed: each of its bytes belongs to the write named beside it (R202). -/
  | commit (id : Nat) (writes : List Nat)
  deriving DecidableEq, Repr

/-- The state of the device. -/
structure State where
  /-- Bytes that differ from 0, in ascending key: global memory, capacity tier, scratchpads and tile spaces (R175, R182). -/
  mem : List Host.Cell
  /-- The management window's bytes that differ from 0 (R265). -/
  window : List Host.Cell
  /-- Keys of bytes that hold an uncorrectable error (R179). -/
  poison : List Nat
  prov : Prov
  threads : List Thread
  cohorts : List Cohort
  /-- The thread that executes. -/
  cur : Option Nat
  /-- The bytes that a thread's next plain load predicts (R202). -/
  guess : Option (Nat × List Byte)
  group : Option Group
  registrar : List RegEntry
  /-- Threads that wait for a Registrar entry, oldest first (R30). -/
  readyq : List Nat
  bars : List BarInst
  icache : List ICWord
  tlb1 : List (Nat × Leaf)
  tlb2 : List (Nat × Leaf)
  /-- Pages above 64 KiB whose leaves have been used since they were last invalidated (R188, R421). -/
  bigPages : List Leaf
  /-- Buffer-table entries by quad, partition and index (R187). -/
  bufc : List (Nat × Nat × Nat × List Byte)
  /-- Catalogue copies by quad, partition, tensor and key: 0 the record, an entry its linear index plus 1 (R140). -/
  catc : List (Nat × Nat × Nat × Nat × List Byte)
  pins : List (Nat × Nat)
  migrations : List Migration
  /-- Failed transfers of pages, by partition and virtual address, of which an agent other than a thread has not heard yet (R189). -/
  failedMoves : List (Agent × Nat × Nat)
  /-- Index entries that an encode holds at their home: its core, its serial and the entry's key; for an encode of another device, 192 plus its node, and its number as an
  agent there (R146). -/
  held : List (Nat × Nat × Nat)
  rings : List Ring
  tables : List StTable
  reasm : List Reasm
  ops : List Op
  matops : List MatOp
  /-- The issue count of each core (R214). -/
  serials : List Nat
  parts : List Part
  launches : List Launch
  /-- Threads blocked in LAUNCH.wait, in their order of entry (R52). -/
  waiters : List Nat
  /-- The Curator's writes that wait, oldest first. -/
  hubq : List HubJob
  fabric : Fabric
  svc : Services
  /-- The model's own: cohorts are to be placed at the end of this step (R246). -/
  due : Bool
  /-- The model's own: counts the events that need an order. -/
  count : Nat
  /-- The model's own: who acts next, oldest first; empty means the default of the step. -/
  agenda : List Turn
  deriving DecidableEq, Repr

/-- An absent partition (R242). -/
def Part.absent : Part :=
  { present := false, interactive := false, cores := 0, bwb := 0, pwb := 0, defbw := 0, defpw := 0, coreset := 0, btbase := 0, ttbase := 0, ptroot := 0,
    hqcb := 0, fqcb := 0, savebase := 0, savelen := 0, migpool := 0, ranges := [], hctrl := 0, nextSeq := 1, hostBad := false,
    fqBad := false, devTurn := false, devq := [], resets := 0 }

/-- Nothing written, nothing observed. Writes are numbered in steps of 256, so that the numbers between can name single bytes of a write (R207). -/
def Prov.start : Prov := { next := 256, writes := [], hist := [], fences := [], reds := [], hub := [], host := [], others := [], reads := [], shown := [], guesses := [], commits := [], notices := [], picks := 0 }

/-- The services right after reset: 1.8 GHz (R2), not booted. -/
def Services.start : Services :=
  { time := 0, frac := 0, trim := 0, trimDebt := 0, hold := 0, cyc := 0, clock := 18, bootCount := 0, history := [], sources := [], running := [], mail := none,
    booted := false, bw := [], pw := [], rebuilding := [], failed := [], enc := [] }

/-- The fabric right after reset. -/
def Fabric.start : Fabric := { reqs := [], reds := [], nextReq := 0, seqs := [], replay := [], releases := [], reports := [], podDue := [], outDue := [], letGo := [], left := [], out := [], portFlits := [] }

/-- The device right after reset: no partition, no launch, every register at its reset value; UETHRESH is 4 (R265). -/
def State.reset : State :=
  { mem := [], window := [(0x108, 4#8)], poison := [], prov := Prov.start, threads := [], cohorts := [], cur := none, guess := none, group := none,
    registrar := [], readyq := [], bars := [], icache := [], tlb1 := [], tlb2 := [], bigPages := [], bufc := [], catc := [], pins := [], migrations := [], failedMoves := [],
    held := [], rings := [], tables := [], reasm := [], ops := [], matops := [], serials := List.replicate 192 0,
    parts := List.replicate 16 Part.absent, launches := [], waiters := [], hubq := [], fabric := Fabric.start, svc := Services.start, due := false, count := 0,
    agenda := [] }

end Sys2Proof.Machine
end

