-- ==== Sys2Proof/Machine/Memory.lean ====
section
/-! DEFINITION. The byte store in its canonical form: addresses rising, no byte listed that equals 0, which an unlisted address reads as. -/

namespace Sys2Proof.Machine

/-- A byte store. -/
abbrev Memory := List Host.Cell

/-- The byte at a key. -/
def Memory.get : Memory → Nat → Byte
  | [], _ => 0#8
  | (a, v) :: r, k => if k = a then v else if k < a then 0#8 else Memory.get r k

/-- Store one byte, keeping the canonical form. -/
def Memory.set : Memory → Nat → Byte → Memory
  | [], k, v => if v = 0#8 then [] else [(k, v)]
  | (a, w) :: r, k, v =>
    if k < a then (if v = 0#8 then (a, w) :: r else (k, v) :: (a, w) :: r)
    else if k = a then (if v = 0#8 then r else (k, v) :: r)
    else (a, w) :: Memory.set r k v

/-- Every key of the store is above `lo`, keys rise, no byte is 0. -/
def Memory.above : Option Nat → Memory → Bool
  | _, [] => true
  | lo, (a, v) :: r => (match lo with | some l => decide (l < a) | none => true) && v != 0#8 && Memory.above (some a) r

/-- The canonical form. -/
def Memory.wf (m : Memory) : Bool := Memory.above none m

/-- Store consecutive bytes. -/
def Memory.setAll (m : Memory) : Nat → List Byte → Memory
  | _, [] => m
  | k, b :: bs => Memory.setAll (m.set k b) (k + 1) bs

/-- Bytes take other keys. -/
def Memory.moved (m : Memory) (f : Nat → Nat) : Memory :=
  (m.filter fun c => f c.1 != c.1).foldl (fun r c => Memory.set r (f c.1) c.2) (m.filter fun c => f c.1 == c.1)

/-- Read consecutive bytes. -/
def Memory.getAll (m : Memory) (k n : Nat) : List Byte := (List.range n).map fun i => m.get (k + i)

/-- Key of an HBM4E byte: its physical address (R182). -/
def hbmKey (pa : Nat) : Nat := pa

/-- Key of a capacity-tier byte: its Lenzel Link address (R186). -/
def capKey (la : Nat) : Nat := 2 ^ 56 + la

/-- Key of a scratchpad byte of the cohort with identity `uid` (R176). -/
def scrKey (uid off : Nat) : Nat := 2 ^ 64 * (2 * uid + 2) + off

/-- Key of a tile-space byte of the cohort with identity `uid` (R63). -/
def tileKey (uid off : Nat) : Nat := 2 ^ 64 * (2 * uid + 3) + off

/-- The key is one of global memory. -/
def isGlobal (k : Nat) : Bool := decide (k < 2 ^ 64)

/-- A little-endian field of the management window (R265). -/
def State.win (s : State) (off n : Nat) : Nat := leNat (Memory.getAll s.window off n)

/-- Write a little-endian field of the management window. -/
def State.setWin (s : State) (off n v : Nat) : State := { s with window := Memory.setAll s.window off (toLE n v) }

end Sys2Proof.Machine
end

