-- ==== Sys2Proof/Machine/Hbm.lean ====
section
/-! DEFINITION. HBM4E: channels, homes, parity groups, rows, and bytes that cannot be read (R182, R183, R204, R274-R276). -/

namespace Sys2Proof.Machine

/-- Channels of a domain (R182). -/
def domChannels (d : Nat) : Nat := if d = 0 then 256 else if d < 3 then 128 else 32

/-- `fold` of R183. -/
def foldBits (l n b : Nat) : Nat := (List.range (ceilDiv n b)).foldl (fun x j => Nat.xor x (l / 2 ^ (b * j) % 2 ^ b)) 0

/-- Logical channel of an HBM4E address (R183). -/
def channelOf (pa : Nat) : Nat :=
  let d := pa / 2 ^ 44; let l := pa % 2 ^ 44 / 256
  if d = 0 then foldBits l 36 8 else if d < 3 then 128 * (d - 1) + foldBits l 36 7 else 32 * (d - 3) + foldBits l 36 5

/-- Home slice of a global key (R183). -/
def sliceOf (key : Nat) : Nat :=
  if 2 ^ 56 ≤ key then foldBits ((key - 2 ^ 56) / 256 % 2 ^ 48) 48 7
  else
    let d := key / 2 ^ 44; let l := key % 2 ^ 44 / 256
    if d = 0 then foldBits l 36 7 else if d < 3 then 64 * (d - 1) + foldBits l 36 6 else 16 * (d - 3) + foldBits l 36 4

/-- The die that holds a global byte's home (R204). -/
def homeDie (key : Nat) (mside : Bool) : Nat := if mside then channelOf key / 128 else sliceOf key / 64

/-- CHSTAT of a physical channel (R274). -/
def State.chstat (s : State) (ch : Nat) : Nat := s.win (0x400 + 8 * ch) 8

/-- The physical channels in service of a parity group (R275). -/
def State.live (s : State) (g : Nat) : List Nat := (List.range 16).filterMap fun i => if bitOf (s.chstat (16 * g + i)) 5 then none else some (16 * g + i)

/-- Row of a line in its logical channel (R275). -/
def State.rowOf (s : State) (pa : Nat) : Nat :=
  let d := pa / 2 ^ 44
  s.win (0x40 + 16 * d) 4 + pa % 2 ^ 44 / 256 / domChannels d

/-- The physical channel and row that hold a line (R275). -/
def State.physOf (s : State) (pa : Nat) : Nat × Nat :=
  let ch := channelOf pa
  let live := s.live (ch / 16)
  let w := live.length
  let j := 16 * s.rowOf pa + ch % 16
  let st := j / (w - 1)
  (nth 0 live ((st % w + 1 + j % (w - 1)) % w), st)

/-- The byte lies in a row beyond those of its logical channel (R275, R276). -/
def State.rowLost (s : State) (key : Nat) : Bool :=
  decide (key < 2 ^ 48) && decide (11718750 * ((s.live (channelOf key / 16)).length - 1) / 16 ≤ s.rowOf key)

/-- The byte cannot be read: beyond its channel's rows, on a failed channel, or marked (R179, R275). -/
def State.isPoison (s : State) (key : Nat) : Bool :=
  s.poison.contains key || s.rowLost key
    || (decide (key < 2 ^ 48) && !s.svc.failed.isEmpty && s.svc.failed.contains (s.physOf key).1)

end Sys2Proof.Machine
end

