-- ==== Sys2Proof/Machine/Regs.lean ====
section
/-! DEFINITION. Threads, cohorts, uniform cells: the accessors through which every register is read and written (R23, R54-R60). -/

namespace Sys2Proof.Machine

/-- A thread outside the table: exited, holding nothing. -/
def Thread.none_ : Thread :=
  { coh := 0, tid := 0, pc := 0, g := [], pend := 0, p := 1, fstat := 0, rmode := 0, fcode := 0, fpc := 0, fdetail := 0, region := none,
    run := .exited, listed := .no, since := 0, seen := [], arrivals := [] }

/-- A uniform register at its first value. -/
def UCell.start {α : Type} (v : α) : UCell α := { base := v, hist := [] }

/-- A cohort outside the table. -/
def Cohort.none_ : Cohort :=
  { uid := 0, part := 0, seq := 0, lin := 0, core := 0, place := .gone, taken := .no, placedAt := 0, nthr := 0, gregs := 0, tilegr := 0,
    scrgr := 0, spanSize := 0, kentry := 0, handler := 0, k := [], vw := [], cv := [], ct := [], ftol := UCell.start 0, drain := UCell.start 0,
    divcnt := UCell.start 0, unext := 1, queues := [], points := [], regions := [], chains := [], holds := [], faults := 0, first := none, replaced := false, yieldsTo := none, leftAt := 0, opsKnown := [] }

/-- Thread `t`. -/
def State.th (s : State) (t : Nat) : Thread := (s.threads[t]?).getD Thread.none_

/-- Replace thread `t`. -/
def State.setTh (s : State) (t : Nat) (x : Thread) : State := { s with threads := s.threads.set t x }

/-- Cohort `c`. -/
def State.co (s : State) (c : Nat) : Cohort := (s.cohorts[c]?).getD Cohort.none_

/-- Replace cohort `c`. -/
def State.setCo (s : State) (c : Nat) (x : Cohort) : State := { s with cohorts := s.cohorts.set c x }

/-- The number of the thread that executes. -/
def State.me (s : State) : Nat := s.cur.getD s.threads.length

/-- The thread that executes. -/
def State.cth (s : State) : Thread := s.th s.me

/-- The cohort index of the thread that executes. -/
def State.cci (s : State) : Nat := s.cth.coh

/-- The cohort of the thread that executes. -/
def State.cco (s : State) : Cohort := s.co s.cci

/-- Replace the thread that executes. -/
def State.setCth (s : State) (x : Thread) : State := s.setTh s.me x

/-- Replace the cohort of the thread that executes. -/
def State.setCco (s : State) (x : Cohort) : State := s.setCo s.cci x

/-- Partition `p`. -/
def State.pa (s : State) (p : Nat) : Part := (s.parts[p]?).getD Part.absent

/-- Replace partition `p`. -/
def State.setPa (s : State) (p : Nat) (x : Part) : State := { s with parts := s.parts.set p x }

/-- The thread numbers of cohort `c`, by tid. -/
def State.thsOf (s : State) (c : Nat) : List Nat := (List.range s.threads.length).filter fun t => (s.th t).coh == c

/-- The thread of cohort `c` with a tid; the table's length when there is none. -/
def State.thOf (s : State) (c tid : Nat) : Nat := ((s.thsOf c).find? fun t => (s.th t).tid == tid).getD s.threads.length

/-- Apply a function to each of several threads. -/
def State.mapThs (s : State) (ts : List Nat) (f : Thread → Thread) : State := ts.foldl (fun s t => s.setTh t (f (s.th t))) s

/-- The place of the k-th of a list, replaced. -/
def setNth {α : Type} (xs : List α) (i : Nat) (x : α) : List α := xs.set i x

/-- Set union of lists without repeats. -/
def union (a b : List Nat) : List Nat := a ++ b.filter fun x => !a.contains x

/-- The values a read of a uniform register by thread `tid` may return, newest first (R59). -/
def UCell.values {α : Type} (c : UCell α) (tid : Nat) : List α :=
  let rec go : List (UWrite α) → List α
    | [] => [c.base]
    | w :: ws => w.val :: (if w.sure.contains tid then [] else go ws)
  go c.hist

/-- The newest value (R60). -/
def UCell.newest {α : Type} (c : UCell α) : α := match c.hist with | [] => c.base | w :: _ => w.val

/-- One of several permitted values, by the free choice numbered `n`. -/
def choose {α : Type} (d : α) (n : Nat) : List α → α
  | [] => d
  | [x] => x
  | xs => nth d xs (Config.pick n % xs.length)

/-- The value a read by `tid` returns. -/
def UCell.read {α : Type} (c : UCell α) (tid n : Nat) : α := choose c.newest n (c.values tid)

/-- A write by threads `tids`, which see it from then on (R59). -/
def UCell.write {α : Type} (c : UCell α) (id : Nat) (tids : List Nat) (v : α) : UCell α := { c with hist := { id := id, val := v, writers := tids, sure := tids } :: c.hist }

/-- The writes that writers `ws` made before the issue number beside each become certain for the threads `us`; what nobody can read any
more is dropped (R59). -/
def UCell.certain {α : Type} (c : UCell α) (nthr : Nat) (ws : List (Nat × Nat)) (us : List Nat) : UCell α :=
  let hist := c.hist.map fun w =>
    if w.writers.any fun x => ws.any fun p => p.1 == x && decide (w.id < p.2) then { w with sure := union w.sure us } else w
  let rec cut : List (UWrite α) → List (UWrite α) × Option α
    | [] => ([], none)
    | w :: ws => if nthr ≤ w.sure.length then ([], some w.val) else let r := cut ws; (w :: r.1, r.2)
  let r := cut hist
  { base := r.2.getD c.base, hist := r.1 }

/-- A register's general-register value (R54). -/
def Thread.gv (t : Thread) (n : Nat) : Word := nth 0 t.g n

/-- A 64-bit value in a pair (R56). -/
def Thread.pairv (t : Thread) (n : Nat) : DWord := pair (t.gv n) (t.gv (n + 1))

/-- Write a general register and detach a pending future it holds (R75). -/
def Thread.setG (t : Thread) (n : Nat) (v : Word) : Thread := { t with g := t.g.set n v, pend := t.pend &&& ~~~((1 : BitVec 64) <<< n) }

/-- Write a pair (R56, R75). -/
def Thread.setPair (t : Thread) (n : Nat) (v : DWord) : Thread := (t.setG n (lo32 v)).setG (n + 1) (hi32 v)

/-- Write a future handle and its pending tag (R74). -/
def Thread.setFuture (t : Thread) (n : Nat) (h : Word) : Thread := { t with g := t.g.set n h, pend := t.pend ||| ((1 : BitVec 64) <<< n) }

/-- The register holds a pending future. -/
def Thread.isPend (t : Thread) (n : Nat) : Bool := t.pend.getLsbD n

/-- A predicate; p0 reads true (R57). -/
def Thread.pv (t : Thread) (n : Nat) : Bool := n == 0 || t.p.getLsbD n

/-- Write a predicate; a write to p0 is discarded (R57). -/
def Thread.setP (t : Thread) (n : Nat) (b : Bool) : Thread :=
  if n = 0 then t else { t with p := if b then t.p ||| (1#8 <<< n) else t.p &&& ~~~(1#8 <<< n) }

/-- The next issue number of a uniform write. -/
def Cohort.bump (c : Cohort) : Cohort := { c with unext := c.unext + 1 }

/-- The cell of a k register. -/
def Cohort.kc (c : Cohort) (i : Nat) : UCell DWord := nth (UCell.start 0) c.k i
/-- The cell of a view register. -/
def Cohort.vc (c : Cohort) (i : Nat) : UCell View := nth (UCell.start View.null) c.vw i
/-- The cell of a convergence register. -/
def Cohort.cc (c : Cohort) (i : Nat) : UCell CvReg := nth (UCell.start ⟨0, 0, false⟩) c.cv i
/-- The cell of a code-table slot. -/
def Cohort.tc (c : Cohort) (i : Nat) : UCell (Option CtImg) := nth (UCell.start none) c.ct i

/-- Write k register `i` for thread `tid` (R59, R60). -/
def Cohort.setK (c : Cohort) (tids : List Nat) (i : Nat) (v : DWord) : Cohort := { c with k := c.k.set i ((c.kc i).write c.unext tids v), unext := c.unext + 1 }
/-- Write a view register. -/
def Cohort.setV (c : Cohort) (tids : List Nat) (i : Nat) (v : View) : Cohort := { c with vw := c.vw.set i ((c.vc i).write c.unext tids v), unext := c.unext + 1 }
/-- Write a convergence register. -/
def Cohort.setC (c : Cohort) (tids : List Nat) (i : Nat) (v : CvReg) : Cohort := { c with cv := c.cv.set i ((c.cc i).write c.unext tids v), unext := c.unext + 1 }
/-- Write a code-table slot. -/
def Cohort.setT (c : Cohort) (tids : List Nat) (i : Nat) (v : Option CtImg) : Cohort := { c with ct := c.ct.set i ((c.tc i).write c.unext tids v), unext := c.unext + 1 }

/-- TSIGN and BAR make the uniform writes of writers `ws` certain for the threads `us` (R59). -/
def Cohort.certain (c : Cohort) (ws : List (Nat × Nat)) (us : List Nat) : Cohort :=
  { c with k := c.k.map (·.certain c.nthr ws us), vw := c.vw.map (·.certain c.nthr ws us), cv := c.cv.map (·.certain c.nthr ws us),
           ct := c.ct.map (·.certain c.nthr ws us), ftol := c.ftol.certain c.nthr ws us, drain := c.drain.certain c.nthr ws us,
           divcnt := c.divcnt.certain c.nthr ws us }

/-- Lane of a thread (R23). -/
def Thread.lane (t : Thread) : Nat := t.tid % 32
/-- Slot of a thread (R23). -/
def Thread.slot (t : Thread) : Nat := t.tid / 32
/-- Scratchpad bytes of a cohort. -/
def Cohort.scrBytes (c : Cohort) : Nat := c.scrgr * 4096
/-- Tile-space bytes of a cohort. -/
def Cohort.tileBytes (c : Cohort) : Nat := c.tilegr * 4096
/-- Position in the span; 0 without spans (R28). -/
def Cohort.spanPos (c : Cohort) : Nat := if c.spanSize = 0 then 0 else c.lin % c.spanSize
/-- %quad of a core (R9). -/
def quadOf (core : Nat) : Nat := core / 4
/-- %die of a core (R9). -/
def dieOf (core : Nat) : Nat := core / 96

end Sys2Proof.Machine
end

