-- ==== Sys2Proof/Machine/Seal.lean ====
section
/-! DEFINITION. Placed bytes, and the encryption of the capacity tier (R194, R281). -/

namespace Sys2Proof.Machine

/-- A byte of global memory as the port places it. -/
structure Loc where
  key : Nat
  va : Nat
  mside : Bool
  enc : Bool
  deriving DecidableEq, Repr

/-- Keys of placed bytes. -/
def keysOf (ls : List Loc) : List Nat := ls.map (·.key)

/-- The virtual address of the first of several placed bytes. -/
def vaOf (ls : List Loc) : Nat := (ls.head?.map (·.va)).getD 0

/-- The memory side of placed bytes (R194). -/
def sideOf (ls : List Loc) : Bool := ls.any (·.mside)

/-- The counters of a block. -/
def State.encBlock (s : State) (blk : Nat) : EncBlock :=
  (s.svc.enc.find? fun b => b.block == blk).getD { block := blk, major := 0, minor := [], busy := false, spent := false, sealed := [] }

/-- Replace the counters of a block. -/
def State.setEnc (s : State) (b : EncBlock) : State := { s with svc := { s.svc with enc := b :: s.svc.enc.filter fun x => x.block != b.block } }

/-- The key under which a line of a block holds ciphertext. -/
def EncBlock.owner (b : EncBlock) (line : Nat) : Option (Nat × Nat) := (b.sealed.find? fun x => x.1 == line).map (·.2)

/-- The keystream byte of a capacity-tier byte under a partition's key, or nothing (R281). -/
def State.stream (s : State) (key : Nat) : Option (Nat × Nat) → Byte
  | none => 0
  | some (p, n) =>
    let la := key - 2 ^ 56
    let b := s.encBlock (la / 4096)
    BitVec.ofNat 8 (keyStream (Config.partKey p n) la b.major (((b.minor.find? fun x => x.1 == la / 64 % 64).map (·.2)).getD 0))

/-- The key under which a leaf shows a line. -/
def State.viewKey (s : State) (part : Nat) (enc : Bool) : Option (Nat × Nat) := if enc then some (part, (s.pa part).resets) else none

/-- A leaf shows a byte under another key than the one that its line is under. -/
def State.veiled (s : State) (part : Nat) (l : Loc) : Bool :=
  decide (2 ^ 56 ≤ l.key) && decide (l.key < 2 ^ 57)
    && (s.encBlock ((l.key - 2 ^ 56) / 4096)).owner ((l.key - 2 ^ 56) / 64 % 64) != s.viewKey part l.enc

/-- What a leaf's view of a byte differs by from the byte store: nothing when the line is under the view's own key (R281). -/
def State.veil (s : State) (part : Nat) (l : Loc) : Byte :=
  if s.veiled part l then s.stream l.key ((s.encBlock ((l.key - 2 ^ 56) / 4096)).owner ((l.key - 2 ^ 56) / 64 % 64)) ^^^ s.stream l.key (s.viewKey part l.enc) else 0

/-- Bytes between the byte store and a partition's view of them, in either direction (R281). -/
def State.unmask (s : State) (part : Nat) (ls : List Loc) (bs : List Byte) : List Byte :=
  if s.svc.enc.isEmpty && ls.all (fun l => !l.enc) then bs else (ls.zip bs).map fun x => x.2 ^^^ s.veil part x.1

/-- A byte and every value in its history change by the same difference: the line's ciphertext stays, its key changes. -/
def State.reveil (s : State) (key : Nat) (d : Byte) : State :=
  { s with mem := Memory.set s.mem key (Memory.get s.mem key ^^^ d),
           prov := { s.prov with hist := s.prov.hist.map fun h =>
             if h.key = key then { h with init := h.init ^^^ d, writes := h.writes.map fun w => { w with val := w.val ^^^ d } } else h } }

/-- A line comes under a partition's key (R281). -/
def State.sealLine (s : State) (part : Nat) (line : Nat) : State :=
  let blk := line / 64
  let b := s.encBlock blk
  let view := s.viewKey part true
  if b.owner (line % 64) = view then s
  else
    let keys := (List.range 64).map fun i => capKey (line * 64 + i)
    let s1 := keys.foldl (fun st k => st.reveil k (s.veil part { key := k, va := 0, mside := false, enc := true })) s
    s1.setEnc { b with sealed := (line % 64, part, (s.pa part).resets) :: b.sealed.filter fun x => x.1 != line % 64 }

/-- Count an encrypted line's write: the counters, whether the block is re-encrypted, whether it is exhausted (R281). -/
def EncBlock.bump (b : EncBlock) (line : Nat) : EncBlock × Bool × Bool :=
  let m := ((b.minor.find? fun x => x.1 == line).map (·.2)).getD 0
  if m + 1 < 2 ^ 32 then ({ b with minor := (line, m + 1) :: b.minor.filter fun x => x.1 != line }, false, false)
  else if b.major + 1 < 2 ^ 64 then ({ b with major := b.major + 1, minor := [], busy := true }, true, false)
  else (b, false, true)

/-- One write of an encrypted line: the line comes under the partition's key, its counter advances; a block that is re-encrypted comes under it as a whole, and an
exhausted one is poisoned (R281). -/
def State.encLine (s : State) (part : Nat) (line : Nat) : State :=
  let blk := line / 64
  let s1 := s.sealLine part line
  let (b, again, full) := (s1.encBlock blk).bump (line % 64)
  if full then { s1.setEnc { b with spent := true } with poison := union s1.poison ((List.range 4096).map fun i => capKey (blk * 4096 + i)) }
  else
    let s2 := if again then (List.range 64).foldl (fun st i => st.sealLine part (blk * 64 + i)) s1 else s1
    s2.setEnc { b with sealed := (s2.encBlock blk).sealed }

/-- Before bytes are written: encrypted lines among them advance their counters (R281). -/
def State.encWrite (s : State) (part : Nat) (ls : List Loc) : State :=
  ((ls.filter (·.enc)).foldl (fun l x => union l [(x.key - 2 ^ 56) / 64]) []).foldl (fun st ln => st.encLine part ln) s

end Sys2Proof.Machine
end

