-- ==== Sys2Proof/Machine/Prov.lean ====
section
/-! DEFINITION. The provenance memory model: visible sets, loads, stores, atomics, releases, acquires and fences (R197-R211, R269). -/

namespace Sys2Proof.Machine

/-- The scope codes of R287. -/
def scPkg : Nat := 0
/-- .core -/
def scCore : Nat := 1
/-- .quad -/
def scQuad : Nat := 2
/-- .die -/
def scDie : Nat := 3
/-- .pod -/
def scPod : Nat := 4
/-- .sys -/
def scSys : Nat := 5
/-- .lane -/
def scLane : Nat := 6

/-- The core an agent belongs to (R204). -/
def State.agCore (s : State) : Agent → Option Nat
  | .thread t => some (s.co (s.th t).coh).core
  | .op c _ => some c
  | .core c => some c
  | .ni c => some c
  | _ => none

/-- The quad an agent belongs to. -/
def State.agQuad (s : State) : Agent → Option Nat
  | .quad q => some q
  | a => (s.agCore a).map quadOf

/-- The die an agent belongs to. -/
def State.agDie (s : State) : Agent → Option Nat
  | .quad q => some (q / 24)
  | a => (s.agCore a).map dieOf

/-- The partition an agent acts for; none for a device agent. -/
def State.agPart (s : State) : Agent → Option Nat
  | .thread t => some (s.co (s.th t).coh).part
  | .op c n => ((s.ops.find? fun o => o.core == c && o.serial == n).map (·.part))
  | .host p => some p
  | .hub p => some p
  | .node _ p _ => some p
  | _ => none

/-- Two optional places are the same place. -/
def samePlace (a b : Option Nat) : Bool := a.isSome && a == b

/-- The agent is on this device. -/
def onDevice : Agent → Bool
  | .host _ | .node _ _ _ => false
  | _ => true

/-- The node of a device identifier (R265). -/
def State.node (s : State) : Nat := s.win 0x118 8 % 2 ^ 22

/-- POD_BASE (R265). -/
def State.podBase (s : State) : Nat := bitsOf (s.win 0x100 8) 21 0

/-- POD_LOG (R265). -/
def State.podLog (s : State) : Nat := bitsOf (s.win 0x100 8) 28 24

/-- A node belongs to the pod (R269). -/
def State.inPod (s : State) (n : Nat) : Bool := decide (s.podBase ≤ n) && decide (n < s.podBase + 2 ^ s.podLog)

/-- An agent belongs to the .pod instance of a partition (R269): on this device, or on another device when both are of the pod. -/
def State.podAgent (s : State) (part : Nat) (a : Agent) : Bool :=
  (s.agPart a).getD part == part && match a with
    | .host _ => false
    | .node n _ _ => s.inPod n && s.inPod s.node
    | _ => true

/-- The instance of `scope` that contains `a` also contains `b` (R204, R269). -/
def State.reaches (s : State) (part scope : Nat) (a b : Agent) : Bool :=
  a == b ||
  match scope with
  | 0 => onDevice a && onDevice b
  | 1 => samePlace (s.agCore a) (s.agCore b)
  | 2 => samePlace (s.agQuad a) (s.agQuad b)
  | 3 => samePlace (s.agDie a) (s.agDie b)
  | 4 => s.podAgent part a && s.podAgent part b
  | 5 => (match a with | .node _ _ _ => false | _ => true) && (match b with | .node _ _ _ => false | _ => true)
  | _ => false

/-- A release and an access of an agent lie in each other's instances (R205); at .pod scope both are of one partition (R269). -/
def State.synced (s : State) (part scope : Nat) (a : Agent) (r : Release) : Bool :=
  s.reaches part scope a r.agent && s.reaches r.part r.scope r.agent a && (r.part == part || (scope != scPod && r.scope != scPod))

/-- The visible set kept for an agent. -/
def State.rawSeen (s : State) : Agent → List Nat
  | .thread t => (s.th t).seen
  | .op c n => ((s.ops.find? fun o => o.core == c && o.serial == n).map (·.seen)).getD []
  | .hub _ => s.prov.hub
  | .host p => ((s.prov.host.find? fun h => h.1 == p).map (·.2)).getD []
  | a => ((s.prov.others.find? fun h => h.1 == a).map (·.2)).getD []

/-- A known predicted load stands for the writes with which it was committed as well (R201, R202). -/
def Prov.expand (p : Prov) (ws : List Nat) : List Nat :=
  p.commits.foldl (fun l c => if ws.contains c.1 then union l c.2 else l) ws

/-- The writes an agent's visible sets hold (R201). -/
def State.seenBy (s : State) (a : Agent) : List Nat := s.prov.expand (s.rawSeen a)

/-- Replace a thread's visible set. -/
def Thread.see (t : Thread) (ws : List Nat) : Thread := { t with seen := union t.seen ws }

/-- An agent's part of a list by agent. -/
def ofAgent (l : List (Agent × List Nat)) (a : Agent) : List Nat := ((l.find? fun h => h.1 == a).map (·.2)).getD []

/-- Replace an agent's part of a list by agent; an empty part is not listed. -/
def setAgent (l : List (Agent × List Nat)) (a : Agent) (ws : List Nat) : List (Agent × List Nat) :=
  let rest := l.filter fun h => h.1 != a
  if ws.isEmpty then rest else (a, ws) :: rest

/-- What an agent has observed, or what happens before its accesses: what its releases make known (R205). -/
def State.knownBy (s : State) (a : Agent) : List Nat :=
  s.prov.expand ((s.rawSeen a).filter fun w => !(ofAgent s.prov.shown a).contains w)

/-- What happens before an agent's next access: what an edge other than a release passes on (R199). -/
def State.passedBy (s : State) (a : Agent) : List Nat :=
  (s.rawSeen a).filter fun w => !(ofAgent s.prov.shown a).contains w && !(ofAgent s.prov.reads a).contains w

/-- Writes enter an agent's visible sets. The engines of a core write for the operations that use them and keep no set of their own. -/
def State.take (s : State) (a : Agent) (ws : List Nat) : State :=
  if ws.isEmpty then s
  else match a with
  | .thread t => s.setTh t ((s.th t).see ws)
  | .op c n => { s with ops := updFirst (fun o => o.core == c && o.serial == n) (fun o => { o with seen := union o.seen ws }) s.ops }
  | .hub _ => { s with prov := { s.prov with hub := union s.prov.hub ws } }
  | .host p =>
    { s with prov := { s.prov with host := (p, union (s.rawSeen (.host p)) ws) :: s.prov.host.filter fun h => h.1 != p } }
  | .core _ => s
  | a => { s with prov := { s.prov with others := (a, union (s.rawSeen a) ws) :: s.prov.others.filter fun h => h.1 != a } }

/-- Replace what an agent has merely observed and what it has merely been shown. -/
def State.setMarks (s : State) (a : Agent) (reads shown : List Nat) : State :=
  { s with prov := { s.prov with reads := setAgent s.prov.reads a reads, shown := setAgent s.prov.shown a shown } }

/-- Writes happen before an agent's next access (R199). -/
def State.see (s : State) (a : Agent) (ws : List Nat) : State :=
  (s.take a ws).setMarks a ((ofAgent s.prov.reads a).filter fun w => !ws.contains w) ((ofAgent s.prov.shown a).filter fun w => !ws.contains w)

/-- An agent observes writes, which puts none of them before its later accesses (R200-R202). -/
def State.note (s : State) (a : Agent) (ws : List Nat) : State :=
  let new := ws.filter fun w => !(s.rawSeen a).contains w || (ofAgent s.prov.shown a).contains w
  (s.take a ws).setMarks a (union (ofAgent s.prov.reads a) new) ((ofAgent s.prov.shown a).filter fun w => !ws.contains w)

/-- Writes become visible to an agent that has not observed them (R203). -/
def State.show (s : State) (a : Agent) (ws : List Nat) : State :=
  let new := ws.filter fun w => !(s.rawSeen a).contains w
  (s.take a ws).setMarks a (ofAgent s.prov.reads a) (union (ofAgent s.prov.shown a) new)

/-- Of numbers that another device or the companion processor names, those of events that have happened on this device. -/
def State.madeHere (s : State) (ws : List Nat) : List Nat := ws.filter fun w => decide (w < s.prov.next)

/-- The history of a byte; its initial write alone when nothing has been written (R197). -/
def State.histAt (s : State) (key : Nat) : ByteHist :=
  (s.prov.hist.find? fun h => h.key == key).getD { key := key, init := Memory.get s.mem key, writes := [] }

/-- Replace the history of a byte. -/
def Prov.setHist (p : Prov) (h : ByteHist) : Prov :=
  if p.hist.any fun x => x.key == h.key then { p with hist := updFirst (fun x => x.key == h.key) (fun _ => h) p.hist } else { p with hist := h :: p.hist }

/-- The number of a write's byte alone: writes are numbered in steps of 256, and the numbers between name single bytes (R207). -/
def byteId (w key : Nat) : Nat := w + 1 + key % 128

/-- The write that a number names, or one of whose bytes it names. -/
def wholeOf (v : Nat) : Nat := v / 256 * 256

/-- A visible set holds the write at this byte: the whole write, or this byte of it (R201, R207). -/
def knows (seen : List Nat) (w key : Nat) : Bool := seen.contains w || seen.contains (byteId w key)

/-- The writes numbered from `a` up to `b`. -/
def writesFrom (a b : Nat) : List Nat := (List.range ((b - a) / 256)).map fun i => a + 256 * i

/-- Of a byte's writes, those a load by an agent with this visible set may return (R201); 0 names the initial write. -/
def ByteHist.mayRead (h : ByteHist) (seen : List Nat) : List (Nat × Byte) :=
  let vis := h.writes.filter fun w => knows seen w.wid h.key
  ((h.writes.filter fun w => !(vis.any fun v => v.before.contains w.wid)).map fun w => (w.wid, w.val))
    ++ (if vis.isEmpty then [(0, h.init)] else [])

/-- The frontier of a set of the byte's writes: those that none of the set comes after, or the initial write (R201). -/
def ByteHist.frontier (h : ByteHist) (p : ByteWrite → Bool) : List (Nat × Byte) :=
  let ws := h.writes.filter p
  if ws.isEmpty then [(0, h.init)]
  else (ws.filter fun w => !(ws.any fun v => v.before.contains w.wid)).map fun w => (w.wid, w.val)

/-- The frontier of the writes that have reached the home (R208). -/
def ByteHist.homeFrontier (h : ByteHist) : List (Nat × Byte) := h.frontier (·.home)

/-- A byte may still have been read from a write, 0 the initial one, by an agent with this visible set (R201). -/
def ByteHist.allows (h : ByteHist) (seen : List Nat) (w : Nat) : Bool :=
  !(h.writes.any fun v => knows seen v.wid h.key && (w == 0 || v.before.contains w))

/-- The most recent value that has reached the home (R187). -/
def ByteHist.homeNewest (h : ByteHist) : Byte := match h.writes.filter (·.home) with | w :: _ => w.val | [] => h.init

/-- The most recent bytes at the home of consecutive keys. -/
def State.homeBytes (s : State) (key n : Nat) : List Byte := (List.range n).map fun i => (s.histAt (key + i)).homeNewest

/-- A record of a write. -/
def State.writeRec (s : State) (w : Nat) : Option WriteRec := s.prov.writes.find? fun r => r.wid == w

/-- Every write to these bytes covers all of them, so a single-copy atomic read takes one write (R198). -/
def State.oneWrite (s : State) (keys : List Nat) : Bool :=
  let hs := keys.map s.histAt
  hs.all fun h => h.writes.all fun w => hs.all fun h' => h'.writes.any fun w' => w'.wid == w.wid

/-- Take one more free choice. -/
def State.usePick (s : State) : State := { s with prov := { s.prov with picks := s.prov.picks + 1 } }

/-- Choose the write each byte of a piece is read from: one write for all when `single`, else byte by byte (R198). -/
def State.pickPiece (s : State) (keys : List Nat) (options : ByteHist → List (Nat × Byte)) (single : Bool) : List (Nat × Byte) × State :=
  if single && s.oneWrite keys then
    match keys with
    | [] => ([], s)
    | k :: _ =>
      let opts := (options (s.histAt k)).filter fun x => keys.all fun k' => (options (s.histAt k')).any fun y => y.1 == x.1
      let w := (choose (0, 0#8) s.prov.picks opts).1
      (keys.map fun k => ((options (s.histAt k)).find? fun x => x.1 == w).getD (w, (s.histAt k).init),
        if opts.length ≤ 1 then s else s.usePick)
  else
    keys.foldl (fun (r : List (Nat × Byte) × State) k =>
      let opts := options (r.2.histAt k)
      (r.1 ++ [choose (0, 0#8) r.2.prov.picks opts], if opts.length ≤ 1 then r.2 else r.2.usePick)) ([], s)

/-- No byte of the list has been written since the initial writes. -/
def State.fresh (s : State) (keys : List Nat) : Bool := keys.all fun k => s.prov.hist.all fun h => h.key != k

/-- A location's bytes of a write. -/
def WriteRec.keys (w : WriteRec) : List Nat := w.offs.map (w.key + ·)

/-- What a write gives these bytes: its number when all its bytes are among them, else those of the bytes (R201). -/
def WriteRec.within (w : WriteRec) (keys : List Nat) : List Nat :=
  if w.keys.all keys.contains then [w.wid] else (w.keys.filter keys.contains).map fun k => byteId w.wid k

/-- What a read of bytes observes, each byte with the write it was read from (R201). -/
def State.observed (s : State) (rs : List (Nat × Nat)) : List Nat :=
  rs.foldl (fun l x =>
    if x.2 = 0 then l
    else union l (match s.writeRec x.2 with
      | some r => r.within ((rs.filter fun y => y.2 == x.2).map (·.1))
      | none => [x.2])) []

/-- The bytes that a thread's load predicts (R202). -/
def State.guessed (s : State) (a : Agent) (n : Nat) : Option (List Byte) :=
  match s.guess with
  | some (t, bs) => if a = .thread t ∧ 0 < n ∧ n ≤ bs.length then some (bs.take n) else none
  | none => none

/-- The number that stands for what a predicted load observed, beside the load's own. -/
def Guess.obs (g : Guess) : Nat := g.id + 256

/-- The predicted load that a number names, or a byte of which it names. -/
def Prov.guessOf (p : Prov) (v : Nat) : Option Guess := p.guesses.find? fun g => g.id == wholeOf v || g.obs == wholeOf v

/-- A load takes predicted bytes: it is known as an event of its own, and as what it observed, until it is committed (R202). -/
def State.takeGuess (s : State) (a : Agent) (keys : List Nat) (bytes : List Byte) (va : Nat) : State :=
  let g : Guess := { id := s.prov.next, agent := a, part := (s.agPart a).getD 0, va := va, bytes := keys.zip bytes, seen := s.rawSeen a, reads := [] }
  let left := s.guess.bind fun x => if x.2.length ≤ keys.length then none else some (x.1, x.2.drop keys.length)
  ((({ s with prov := { s.prov with next := g.id + 512, guesses := s.prov.guesses ++ [g] }, guess := left } : State).see a [g.id]).note a [g.obs])

/-- A load while predicted loads of its bytes are not committed: they must leave it allowed (R201, R202). -/
def Prov.watch (p : Prov) (seen : List Nat) (rs : List (Nat × Nat)) : Prov :=
  { p with guesses := p.guesses.map fun g => { g with reads := (rs.filter fun x => g.bytes.any fun b => b.1 == x.1).map (fun x => (x.1, x.2, seen)) ++ g.reads } }

/-- A read of one piece by an agent: its bytes, the writes read, and the state in which the agent has observed them (R201, R202). `va` is its address in global memory. -/
def State.loadPiece (s : State) (a : Agent) (keys : List Nat) (single : Bool) (va : Nat := 0) : List Byte × List Nat × State :=
  match s.guessed a keys.length with
  | some bs => (bs, [], s.takeGuess a keys bs va)
  | none =>
    if s.fresh keys && s.prov.guesses.isEmpty then (keys.map (Memory.get s.mem), [], s)
    else
      let (rs, s1) := s.pickPiece keys (fun h => h.mayRead (s.seenBy a)) single
      let from_ := keys.zip (rs.map (·.1))
      let ws := (rs.map (·.1)).filter (· != 0)
      (rs.map (·.2), ws, ({ s1 with prov := s1.prov.watch (s.rawSeen a) from_ } : State).note a (s1.observed from_))

/-- Split keys into naturally aligned pieces of `n` (R198). -/
def pieces (n : Nat) : Nat → List Nat → List (List Nat)
  | 0, _ => []
  | _, [] => []
  | fuel + 1, k :: ks =>
    let m := n - k % n
    (k :: ks).take m :: pieces n fuel ((k :: ks).drop m)

/-- A read in pieces of `n` bytes, each single-copy atomic. -/
def State.loadBytes (s : State) (a : Agent) (keys : List Nat) (n : Nat) (va : Nat := 0) : List Byte × List Nat × State :=
  (pieces n keys.length keys).foldl (fun (r : List Byte × List Nat × State) p =>
    let (bs, ws, s') := r.2.2.loadPiece a p true (va + r.1.length)
    (r.1 ++ bs, r.2.1 ++ ws, s')) ([], [], s)

/-- A write of one piece by an agent (R200). `side` says that its home is on the memory side, `home` that it is made at the home; `carry` are the releases that its
readers synchronise with. -/
def State.storePiece (s : State) (a : Agent) (part va : Nat) (side : Bool) (keys : List Nat) (bytes : List Byte) (home : Bool) (carry : List Release)
    (extra : List Nat) : State :=
  let w := s.prov.next
  let low := keys.foldl min (keys.headD 0)
  let seen := s.knownBy a
  let prov := (keys.zip bytes).foldl (fun (p : Prov) kb =>
    let h := (p.hist.find? fun h => h.key == kb.1).getD { key := kb.1, init := Memory.get s.mem kb.1, writes := [] }
    let prior := h.writes.filter fun x => knows seen x.wid kb.1 || extra.contains x.wid
    let before := prior.foldl (fun l x => union (union l [x.wid]) x.before) []
    p.setHist { h with writes := { wid := w, val := kb.2, before := before, home := home } :: h.writes }) s.prov
  let mem := (keys.zip bytes).foldl (fun m kb => Memory.set m kb.1 kb.2) s.mem
  let entry : WriteRec :=
    { wid := w, key := low, offs := keys.map (· - low), part := part, va := va, agent := a, wide := false,
      releases := carry.map fun r => { r with known := union r.known [w] }, side := side, made := s.svc.cyc,
      after := if s.prov.guesses.isEmpty then [] else seen.filter fun v => s.prov.guesses.any fun g => g.id == wholeOf v }
  ({ s with mem := mem, prov := { prov with next := w + 256, writes := entry :: prov.writes } } : State).see a [w]

/-- A write in pieces of `n` bytes, each single-copy atomic. -/
def State.storeBytes (s : State) (a : Agent) (part va : Nat) (side : Bool) (keys : List Nat) (bytes : List Byte) (n : Nat) : State :=
  ((pieces n keys.length keys).foldl (fun (r : State × Nat) p =>
    (r.1.storePiece a part (va + r.2) side p ((bytes.drop r.2).take p.length) false [] [], r.2 + p.length)) (s, 0)).1

/-- Writes arrive at the home of their location, each as a whole (R198, R209). -/
def Prov.arrive (p : Prov) (ws : List Nat) : Prov :=
  { p with hist := p.hist.map fun h =>
      { h with writes := (h.writes.filter fun w => (ws.any fun v => wholeOf v == w.wid) && !w.home).map (fun w => { w with home := true })
                  ++ h.writes.filter fun w => !((ws.any fun v => wholeOf v == w.wid) && !w.home) } }

/-- The line of a global byte. -/
def lineOf (key : Nat) : Nat := key / 256

/-- The key lies in a block of the capacity tier that satisfies a test. -/
def State.inBlock (s : State) (p : EncBlock → Bool) (key : Nat) : Bool :=
  decide (2 ^ 56 ≤ key) && decide (key < 2 ^ 57) && s.svc.enc.any fun b => p b && b.block == (key - 2 ^ 56) / 4096

/-- A pinned line is refused to the agent (R210). DEDUCED (log 93): not to the Curator and the system hubs, which R210 does not name and which never wait on a cohort (R52,
R53). -/
def State.pinned (s : State) (a : Agent) (line : Nat) : Bool :=
  s.pins.any fun p => p.2 == line && match a with | .hub _ => false | _ => s.agCore a != some p.1

/-- An access to the byte is refused with retry: pinned by another core, its group rebuilds, its block is re-encrypted (R210, R276, R281). -/
def State.refused (s : State) (a : Agent) (l : Loc) : Bool :=
  s.pinned a (lineOf l.key)
    || (decide (l.key < 2 ^ 48) && s.svc.rebuilding.any fun ch => ch / 16 == channelOf l.key / 16)
    || s.inBlock (·.busy) l.key

/-- A write of the set has not reached its home, which refuses it now (R209, R210). -/
def State.homeRefused (s : State) (known : List Nat) : Bool :=
  (!s.pins.isEmpty || !s.svc.rebuilding.isEmpty || !s.svc.enc.isEmpty) &&
    s.prov.writes.any fun w => isGlobal w.key && (known.any fun v => wholeOf v == w.wid) && w.keys.any fun k =>
      ((s.histAt k).writes.any fun x => x.wid == w.wid && !x.home) && s.refused w.agent { key := k, va := 0, mside := false, enc := false }

/-- Writes arrive at their homes, but for those that their homes refuse (R209, R210). -/
def State.arrive (s : State) (ws : List Nat) : State :=
  if ws.isEmpty then s
  else { s with prov := s.prov.arrive (if s.homeRefused ws then ws.filter fun v => !s.homeRefused [v] else ws) }

/-- Writes that must have become visible by now (R203): performed some finite time ago, not in a visible set, at some of these bytes. -/
def State.overdue (s : State) (seen keys : List Nat) (p : WriteRec → Bool) : List Nat :=
  (s.prov.writes.filter fun w => !seen.contains w.wid && w.keys.any (fun k => keys.contains k && !seen.contains (byteId w.wid k)) && p w
    && decide (w.made + Config.visibleIn ≤ s.svc.cyc)).foldl (fun l w => union l (w.within keys)) []

/-- What becomes visible to an acquire at a scope before it reads these bytes (R203). -/
def State.promise (s : State) (a : Agent) (part scope : Nat) (keys : List Nat) : State :=
  s.show a (s.overdue (s.seenBy a) keys fun w => s.reaches part scope a w.agent)

/-- What becomes visible to a fence's agent in finite time, so that its next loads return it (R203). -/
def State.overdueAll (s : State) (a : Agent) (part scope : Nat) : List Nat :=
  let seen := s.seenBy a
  (s.prov.writes.filter fun w => !seen.contains w.wid && s.reaches part scope a w.agent && decide (w.made + Config.visibleIn ≤ s.svc.cyc)).map (·.wid)

/-- The writes of a byte that have reached its home. -/
def State.homed (s : State) (key : Nat) : List Nat := ((s.histAt key).writes.filter (·.home)).map (·.wid)

/-- A read-modify-write of one aligned piece at its home: the old bytes, the writes read and the new state (R203, R208, R209, R291).
`f` gives the new bytes, or none when nothing is written; an encrypted line's counter advances when it is (R281). -/
def State.rmw (s : State) (a : Agent) (part : Nat) (ls : List Loc) (release : Option Release) (f : List Byte → Option (List Byte)) :
    List Byte × List Nat × State :=
  let keys := keysOf ls
  let s0 := s.arrive (s.knownBy a)
  let s0 := s0.arrive (s0.overdue (keys.foldl (fun l k => union l (s0.homed k)) []) keys fun _ => true)
  let (rs, s1) := s0.pickPiece keys (·.homeFrontier) true
  let old := s1.unmask part ls (rs.map (·.2))
  let ws := (rs.map (·.1)).filter (· != 0)
  let homed := keys.foldl (fun l k => union l (s1.homed k)) []
  let carried := homed.foldl (fun (l : List Release) w => l ++ ((s1.writeRec w).map (·.releases)).getD []) []
  let from_ := keys.zip (rs.map (·.1))
  let s2 := ({ s1 with prov := s1.prov.watch (union (s.rawSeen a) homed) from_ } : State).note a (s1.observed from_)
  match f old with
  | none => (old, ws, s2)
  | some new =>
    let s3 := s2.encWrite part ls
    let w := s3.prov.next
    let s4 := s3.storePiece a part (vaOf ls) (sideOf ls) keys (s3.unmask part ls new) true release.toList homed
    (old, ws, { s4 with prov := { s4.prov with writes := updFirst (fun x => x.wid == w) (fun x => { x with releases := carried ++ x.releases }) s4.prov.writes } })

/-- What an acquire that read these writes learns (R205). -/
def State.learn (s : State) (a : Agent) (part scope : Nat) (ws : List Nat) : List Nat :=
  ws.foldl (fun l w =>
    (((s.writeRec w).map (·.releases)).getD []).foldl (fun l r =>
      if s.synced part scope a r then union l r.known else l) l) []

/-- Scopes of .quad and wider (R210). -/
def isWide (scope : Nat) : Bool := scope != scCore && scope != scLane

/-- A release at .quad or wider covers the writes: lines that hold one of them leave the pins of the agent's core (R210). -/
def State.widen (s : State) (a : Agent) (known : List Nat) : State :=
  let prov := { s.prov with writes := s.prov.writes.map fun w => if known.contains w.wid then { w with wide := true } else w }
  let covered (line : Nat) : Bool := prov.writes.any fun w => lineOf w.key == line && isGlobal w.key && known.any fun v => wholeOf v == w.wid
  { s with prov := prov, pins := s.pins.filter fun p => !(some p.1 == s.agCore a && covered p.2) }

/-- What the agents of a core have observed, and what happens before their accesses: a release by the core covers it (R205, R211). -/
def State.coreKnown (s : State) (core : Nat) : List Nat :=
  let agents := (List.range s.threads.length).map Agent.thread ++ s.ops.map (fun o => .op o.core o.serial) ++ [.ni core]
  (agents.filter fun a => s.agCore a == some core).foldl (fun l a => union l (s.knownBy a)) []

/-- Pin one line for a core, releasing the core's oldest pinned line at .pkg scope when its table of 512 is full (R211). -/
def State.pinLine (s : State) (core line : Nat) : State :=
  if s.pins.contains (core, line) then s
  else
    let mine := s.pins.filter fun p => p.1 == core
    if mine.length < 512 then { s with pins := s.pins ++ [(core, line)] }
    else match mine with
      | [] => s
      | old :: _ =>
        let known := s.coreKnown core
        let mark (w : WriteRec) : WriteRec := if lineOf w.key == old.2 && isGlobal w.key && known.contains w.wid then { w with wide := true } else w
        { s with prov := { s.prov with writes := s.prov.writes.map mark }, pins := (s.pins.filter fun p => p != old) ++ [(core, line)] }

/-- A release at .core pins the lines of the writes it makes visible (R210). -/
def State.pinAll (s : State) (core : Nat) (known : List Nat) : State :=
  s.prov.writes.foldl (fun st w => if (known.any fun v => wholeOf v == w.wid) && !w.wide && isGlobal w.key then st.pinLine core (lineOf w.key) else st) s

/-- The side of a release that acts on pins (R210). -/
def State.pinSide (s : State) (a : Agent) (scope : Nat) (known : List Nat) : State :=
  if isWide scope then s.widen a known
  else if scope = scCore then (match s.agCore a with | some c => s.pinAll c known | none => s)
  else s

/-- The old and the new value of R291 for 32 or 64 bits; none when a cas fails. Type bit [0] is .sg, bit [1] .w64. -/
def atomNew (op typ : Nat) (old v : Nat) (cmpNew : Nat) : Option Nat :=
  let w : Nat := if typ ≥ 2 then 64 else 32
  let sg := typ % 2 = 1
  let o := readInt sg w old
  let x := readInt sg w v
  match op with
  | 0 => some ((old + v) % 2 ^ w)
  | 1 => some (Nat.land old v)
  | 2 => some (Nat.lor old v)
  | 3 => some (Nat.xor old v)
  | 4 => some (if o < x then old else v)
  | 5 => some (if o < x then v else old)
  | 6 => some v
  | 7 => some (if v ≤ old then 0 else old + 1)
  | 8 => some (if old = 0 ∨ v < old then v else old - 1)
  | 9 => some (FF.fp32.add2 .rne false old v).1
  | 10 => some (FF.fp32.minmax false false old v).1
  | 11 => some (FF.fp32.minmax true false old v).1
  | _ => if old = v then some cmpNew else none

/-- The bytes of a RED's location. -/
def PendingRed.keys (r : PendingRed) : List Nat := (List.range (if r.typ ≥ 2 then 8 else 4)).map (r.key + ·)

/-- A RED's location as placed bytes. -/
def PendingRed.locs (r : PendingRed) : List Loc :=
  (List.range (if r.typ ≥ 2 then 8 else 4)).map fun i => { key := r.key + i, va := r.va + i, mside := r.side, enc := r.enc }

/-- A RED's write is among what the later REDs of its thread that are releases make known (R205, R390). -/
def PendingRed.learn (r : PendingRed) (thread id w : Nat) : PendingRed :=
  if r.thread = thread ∧ id < r.id then { r with release := r.release.map fun x => { x with known := union x.known [w] } } else r

/-- A RED executes at its home, as an atomic of its thread (R390). One whose bytes cannot be read stays, and fails (R391). -/
def State.doRed (s : State) (r : PendingRed) : State :=
  if r.keys.any s.isPoison then s
  else
    let w := s.prov.next
    let s1 := { s with prov := { s.prov with reds := (s.prov.reds.filter fun (x : PendingRed) => x.id != r.id).map fun (x : PendingRed) => x.learn r.thread r.id w } }
    let s2 := (s1.rmw (.thread r.thread) r.part r.locs r.release fun old => (atomNew r.op r.typ (leNat old) r.operand 0).map (toLE r.keys.length)).2.2
    match r.release with
    | some x => if w < s2.prov.next then s2.pinSide (.thread r.thread) x.scope (w :: x.known) else s2
    | none => s2

/-- The REDs of an agent that a later access to these bytes, or any release when `keys` is none, may not overtake (R390). -/
def State.redsBefore (s : State) (a : Agent) (keys : Option (List Nat)) : List PendingRed :=
  s.prov.reds.filter fun r => a == Agent.thread r.thread &&
    match keys with
    | none => true
    | some ks => ks.any fun k => decide (r.key ≤ k) && decide (k < r.key + 8)

/-- A RED cannot execute at its home now: its location is refused there, what must reach its home first is, or it is a release and an earlier RED of its thread has not
executed (R205, R208, R210). -/
def State.redWaits (s : State) (r : PendingRed) : Bool :=
  r.locs.any (s.refused (.thread r.thread)) || s.homeRefused (s.knownBy (.thread r.thread))
    || (r.release.isSome && (s.prov.reds.any (fun x => x.thread == r.thread && decide (x.id < r.id)) || s.fabric.reds.any fun x => x.thread == r.thread && decide (x.id < r.id)))

/-- Execute an agent's pending REDs in order, but for those that cannot execute now. -/
def State.forceReds (s : State) (a : Agent) (keys : Option (List Nat)) : State :=
  (s.redsBefore a keys).foldl (fun st r => if st.redWaits r then st else st.doRed r) s

/-- A release by an agent: what it makes known, in the state after its side effects; what it had observed happens before its later accesses too (R199, R205, R210). -/
def State.release (s : State) (a : Agent) (scope : Nat) : List Nat × State :=
  let s1 := s.forceReds a none
  let known := s1.knownBy a
  (known, (s1.pinSide a scope known).see a known)

/-- FENCE (R206): ordered after every earlier fence whose instance and its own contain both agents; its writes reach the point its scope observes,
and what others have written becomes visible in finite time (R203). -/
def State.fence (s : State) (a : Agent) (part scope : Nat) : State :=
  let (_, s1) := s.release a scope
  let got := s1.prov.fences.foldl (fun l r => if s1.synced part scope a r then union l r.known else l) []
  let s2 := (s1.show a (s1.overdueAll a part scope)).see a got
  let known := s2.knownBy a
  let s3 := if scope = scLane ∨ scope = scCore ∨ scope = scQuad then s2 else s2.arrive known
  { s3 with prov := { s3.prov with fences := s3.prov.fences ++ [{ agent := a, part := part, scope := scope, known := known }] } }

/-- Of an event that a number names, whole or by one byte, with its keys from an address on: what of it lies inside virtual ranges (R207). -/
def insideRun (ranges : List (Nat × Nat)) (va : Nat) (keys : List Nat) (v : Nat) : List Nat :=
  let at_ (k : Nat) : Nat := va + k - keys.headD 0
  let inside := keys.filter fun k => ranges.any fun q => decide (q.1 ≤ at_ k) && decide (at_ k < q.1 + q.2)
  let bytes := inside.map (byteId (wholeOf v))
  if v = wholeOf v then (if inside.length = keys.length then [v] else bytes) else if bytes.contains v then [v] else []

/-- What of a known write or predicted load, or of a known byte of one, lies inside virtual ranges of the partition (R207). -/
def State.insideOf (s : State) (part : Nat) (ranges : List (Nat × Nat)) (v : Nat) : List Nat :=
  match s.writeRec (wholeOf v) with
  | some r => if r.part != part || !isGlobal r.key then [] else insideRun ranges r.va r.keys v
  | none =>
    match s.prov.guessOf v with
    | some g => if g.part != part || g.bytes.any (fun b => !isGlobal b.1) then [] else insideRun ranges g.va (g.bytes.map (·.1)) v
    | none => []

/-- FENCER (R207): a fence for the bytes that lie inside virtual ranges of the partition. -/
def State.fenceRange (s : State) (a : Agent) (part scope : Nat) (ranges : List (Nat × Nat)) : State :=
  let s0 := s.forceReds a none
  let inside (ws : List Nat) : List Nat := ws.foldl (fun l v => union l (s0.insideOf part ranges v)) []
  let got := inside (s0.prov.fences.foldl (fun l r =>
    if s0.synced part scope a r then union l r.known else l) [])
  let s1 := (s0.show a (inside (s0.overdueAll a part scope))).see a got
  let known := inside (s1.knownBy a)
  let s2 := (s1.pinSide a scope known).see a known
  let s3 := if scope = scLane ∨ scope = scCore ∨ scope = scQuad then s2 else s2.arrive known
  { s3 with prov := { s3.prov with fences := s3.prov.fences ++ [{ agent := a, part := part, scope := scope, known := known }] } }

/-- A write's byte follows a predicted load's: the load happens before it. -/
def State.follows (s : State) (g : Guess) (k w : Nat) : Bool :=
  ((s.writeRec w).map fun r => r.after.contains g.id || r.after.contains (byteId g.id k)).getD false

/-- A byte of a predicted load may belong to a write, 0 the initial one (R201, R202): the write has the value, is not stale for the load, and does not happen after it. -/
def State.mayCommit (s : State) (g : Guess) (k : Nat) (b : Byte) (w : Nat) : Bool :=
  let h := s.histAt k
  h.allows (s.prov.expand g.seen) w
    && if w = 0 then h.init == b
       else match h.writes.find? fun x => x.wid == w with
         | none => false
         | some x => x.val == b && !s.follows g k w && !(x.before.any (s.follows g k))

/-- Every byte of a predicted load belongs to a write, one write for all where the load is single-copy atomic over them (R198, R202). -/
def State.canCommit (s : State) (g : Guess) (ws : List Nat) : Bool :=
  ws.length == g.bytes.length && (g.bytes.zip ws).all (fun x => s.mayCommit g x.1.1 x.1.2 x.2)
    && (!(s.oneWrite (g.bytes.map (·.1))) || ws.all fun w => w == ws.headD 0)

/-- Writes of a byte that happen after a predicted load, and those ordered after them, come after the write the load observed (R200). -/
def ByteHist.follow (h : ByteHist) (follows : Nat → Bool) (w : Nat) : ByteHist :=
  let prior := if w = 0 then [] else union [w] (((h.writes.find? fun x => x.wid == w).map (·.before)).getD [])
  { h with writes := h.writes.map fun x => if follows x.wid || x.before.any follows then { x with before := union x.before prior } else x }

/-- A predicted load belongs to writes: later writes come after them, whoever has observed the load has observed them, and other predicted loads must leave it allowed. -/
def State.committed (s : State) (g : Guess) (ws : List Nat) : State :=
  let from_ := (g.bytes.map (·.1)).zip ws
  let prov := from_.foldl (fun (p : Prov) x =>
    match p.hist.find? fun h => h.key == x.1 with
    | some h => p.setHist (h.follow (s.follows g x.1) x.2)
    | none => p) s.prov
  let bytes := (from_.filter fun x => x.2 != 0).map fun x => (byteId g.obs x.1, s.observed [(x.1, x.2)])
  { s with prov := ({ prov with guesses := prov.guesses.filter fun x => x.id != g.id, commits := (g.obs, s.observed from_) :: bytes ++ prov.commits } : Prov).watch g.seen from_ }

/-- A predicted load is committed, where every load since stays allowed (R201, R202). -/
def State.commitGuess (s : State) (id : Nat) (ws : List Nat) : State :=
  match s.prov.guesses.find? fun g => g.id == id with
  | none => s
  | some g =>
    let s1 := s.committed g ws
    if s.canCommit g ws && g.reads.all (fun r => (s1.histAt r.1).allows (s1.prov.expand r.2.2) r.2.1) then s1 else s

end Sys2Proof.Machine
end

