-- ==== Sys2Proof/Machine/Port.lean ====
section
/-! DEFINITION. The memory port: buffer table, translation, placement, pins and poison (R176-R196, R275, R276). -/

namespace Sys2Proof.Machine

/-- What a blocked access asks of the device. -/
inductive Req where
  | none
  | migrate (leaf : Leaf) (pte : Nat) (domain : Option Nat) (detail : DWord)
  | remote (node part va off kind len : Nat) (mod : BitVec 18) (data : List Byte)
  deriving DecidableEq, Repr

/-- Why an instruction does not complete: an exception of R258, or a wait. -/
inductive Trap where
  | fault (code : Nat) (detail : DWord)
  | wait (w : Wait) (r : Req)
  deriving DecidableEq, Repr

/-- The accesses of R179. -/
inductive Acc where
  | read
  | write
  | atomic
  | fetch
  deriving DecidableEq, Repr

/-- ACC of R180. -/
def Acc.code : Acc → Nat
  | .read => 0 | .write => 1 | .atomic => 2 | .fetch => 3

/-- On whose behalf an access is made: agent, partition, core of its L1 TLB, quad of its caches and the launch's SEQ (R179, R181). -/
structure Ctx where
  agent : Agent
  part : Nat
  core : Option Nat
  quad : Nat
  seq : Option Nat
  deriving DecidableEq, Repr

/-- Where an access goes: bytes of this device, or another device with the pointer that a failure reports. -/
inductive Target where
  | here (ls : List Loc)
  | away (node part va off : Nat)
  deriving DecidableEq, Repr

/-- %fdetail with OFFSET and BUF (R180). -/
def bufDetail (idx off : Nat) : DWord := mkPtr idx (min off (2 ^ 48 - 1))

/-- %fdetail of PAGE (R180). -/
def pageDetail (off cause acc level : Nat) (btw : Bool) : DWord :=
  BitVec.ofNat 64 (off % 2 ^ 48 + cause * 2 ^ 48 + acc * 2 ^ 52 + level * 2 ^ 54 + (if btw then 2 ^ 56 else 0))

/-- %fdetail of a scratchpad fault (R180). -/
def scrDetail (member off : Nat) : DWord := BitVec.ofNat 64 (min off 0x7FFFF + (member % 4) * 2 ^ 44)

/-- A buffer-table entry (R177). -/
structure BufEntry where
  valid : Bool
  bad : Bool
  base : Nat
  length : Nat
  rights : Nat
  owner : Nat
  gen : Nat
  kind : Nat
  ilv : Nat
  place : Nat
  policy : Nat
  stride : Nat
  cnt : Nat
  node : Nat
  rpart : Nat
  gseq : Nat
  deriving DecidableEq, Repr

/-- Read an entry and test it for malformation (R177). DESIGN CHOICE (log 94): a nonzero ILV [4:2] of a fine or pod entry, to which the table gives a meaning for
die-local and stack-local only, makes the entry malformed. -/
def BufEntry.parse (b : List Byte) : BufEntry :=
  let base := field b 0 8; let len := field b 8 8
  let rights := field b 0x10 1; let owner := field b 0x11 1; let kv := field b 0x13 1; let iv := field b 0x14 1
  let pol := field b 0x15 1; let ps := field b 0x16 1; let pc := field b 0x17 1; let nd := field b 0x18 4
  let kind := kv % 8; let ilv := iv % 4; let place := iv / 4
  let pod := kind == 3
  let bad := decide (2 ^ 57 ≤ base) || base % 256 != 0 || decide (2 ^ 48 < len) || decide (8 ≤ rights) || decide (16 ≤ owner)
    || decide (16 ≤ kv) || decide (5 ≤ kind) || decide (32 ≤ iv) || decide (2 ^ 57 < base + len) || decide (5 < pol)
    || (ilv == 3) != pod || (decide (ilv ≠ 0) && (kind == 1 || kind == 2))
    || (ilv == 1 && decide (2 ≤ place)) || ((ilv == 0 || ilv == 3) && place != 0)
    || (if pod then decide (ps < 16) || decide (40 < ps) || decide (22 < pc) || decide (48 < ps + pc) || nd % 2 ^ 22 % 2 ^ pc != 0
        else ps != 0 || pc != 0)
    || (if pod || kind == 2 then nd / 2 ^ 22 % 4 != 0 || decide (2 ^ 28 ≤ nd) else nd != 0)
  { valid := kv / 8 % 2 == 1, bad := bad, base := base, length := len, rights := rights, owner := owner, gen := field b 0x12 1, kind := kind,
    ilv := ilv, place := place, policy := pol, stride := ps, cnt := pc, node := nd % 2 ^ 22, rpart := nd / 2 ^ 24 % 16, gseq := field b 0x1C 4 }

/-- Entry 0 is the flat buffer: only RIGHTS and POLICY are read (R178). -/
def BufEntry.flat (part : Nat) (b : List Byte) : BufEntry :=
  { valid := true, bad := false, base := 0, length := 2 ^ 48, rights := field b 0x10 1 % 8, owner := part, gen := 0, kind := 0, ilv := 0, place := 0,
    policy := field b 0x15 1, stride := 0, cnt := 0, node := 0, rpart := 0, gseq := 0 }

/-- The domain a local or memory-side buffer needs (R186). -/
def BufEntry.domain (e : BufEntry) : Nat := match e.ilv with | 1 => 1 + e.place | 2 => 3 + e.place | _ => 0

/-- Size of a domain (R182, R265). -/
def State.domBytes (s : State) (d : Nat) : Nat := if d < 11 then s.win (0x40 + 16 * d + 4) 4 * domChannels d * 256 else 0

/-- An HBM4E extent lies wholly in one of the partition's ranges and in its domain (R186). -/
def State.frameOk (s : State) (p : Part) (pa size : Nat) : Bool :=
  decide (pa < 2 ^ 48) && decide (pa % 2 ^ 44 + size ≤ s.domBytes (pa / 2 ^ 44)) && p.ranges.any fun r => decide (r.1 ≤ pa) && decide (pa + size ≤ r.2)

/-- The first 2 TB of Lenzel Link addresses (R186). -/
def capLimit : Nat := 2 * 10 ^ 12

/-- Page size of a SIZE code (R186). -/
def pageBytes (sz : Nat) : Nat := match sz with | 0 => 2 ^ 16 | 1 => 2 ^ 21 | 2 => 2 ^ 25 | _ => 2 ^ 30

/-- A page-table entry at its home (R187). -/
def State.pteAt (s : State) (key : Nat) : Nat := leNat (s.homeBytes key 8)

/-- A leaf entry checked by R186: the leaf, or the cause. DESIGN CHOICE (log 95): an HBM4E FRAME in one of the domains 11 to 15, which R182 calls no HBM4E, gives cause 3. -/
def State.leafOf (s : State) (p : Part) (pn va level e : Nat) (run : Nat → Nat) : Except Nat Leaf :=
  let sz := bitsOf e 3 2
  let bytes := pageBytes sz
  let res := bitOf e 4
  let frame := bitsOf e 55 16 * 2 ^ 16
  let sizeOk : Bool := if level = 0 then decide (sz < 3) else sz == 3
  if !bitOf e 1 || !sizeOk || (bitOf e 5 && decide (1 < sz)) || (bitOf e 7 && res) || (bitOf e 8 && !res) || bitsOf e 15 9 != 0
      || bitsOf e 63 56 != 0 || frame % bytes != 0 || (!res && bitsOf e 55 48 != 0) then .error 2
  else if (sz == 1 || sz == 2) && !((List.range (bytes / 2 ^ 16)).all fun i => run i == e) then .error 2
  else if !res && !s.frameOk p frame bytes then .error 3
  else if res && decide (capLimit < frame + bytes) then .error 3
  else .ok { part := pn, va := va / bytes * bytes, size := bytes, frame := frame, res := res, mig := bitOf e 5, cache := bitOf e 6,
             mside := bitOf e 7, enc := bitOf e 8 }

/-- Index of a virtual address at a table level (R185). -/
def vaIndex (level va : Nat) : Nat :=
  match level with
  | 0 => bitsOf va 29 16
  | 1 => bitsOf va 38 30
  | 2 => bitsOf va 47 39
  | _ => bitsOf va 56 48

/-- A walker's read of a byte at its home for an agent is refused with retry: a pinned line, a group that rebuilds (R210, R276). -/
def State.walkHeld (s : State) (a : Agent) (key : Nat) : Bool :=
  s.pinned a (lineOf key) || (decide (key < 2 ^ 48) && s.svc.rebuilding.any fun ch => ch / 16 == channelOf key / 16)

/-- What stops a walker's read of entries: 0 refused with retry, 16 a byte that cannot be read (R210, R275, R276). Entries are 8 B, so each lies in one line. -/
def State.walkStop (s : State) (a : Agent) (keys : List Nat) : Option Nat :=
  if keys.any (s.walkHeld a) then some 0
  else if keys.any fun k => (List.range 8).any fun i => s.isPoison (k + i) then some 16
  else none

/-- The walk from a node of a level: the leaf and the key of its entry, or cause and level; cause 0 stands for a read that was refused with retry, cause 16 for one of
bytes that cannot be read (R185-R187). DESIGN CHOICE (log 79): the access that needed the entry then meets POISON. -/
def State.walk (s : State) (c : Ctx) (va : Nat) : Nat → Nat → Except (Nat × Nat) (Leaf × Nat)
  | 0, node =>
    if !s.frameOk (s.pa c.part) node (2 ^ 17) then .error (3, 0)
    else
      let key := node + 8 * vaIndex 0 va
      let e := s.pteAt key
      match s.walkStop c.agent [key] with
      | some c => .error (c, 0)
      | none =>
        if !bitOf e 0 then .error (1, 0)
        else
          let n := pageBytes (bitsOf e 3 2) / 2 ^ 16
          let first := node + 8 * (vaIndex 0 va / n * n)
          match s.walkStop c.agent (if n = 32 ∨ n = 512 then (List.range n).map fun i => first + 8 * i else []) with
          | some c => .error (c, 0)
          | none =>
            match s.leafOf (s.pa c.part) c.part va 0 e fun i => s.pteAt (first + 8 * i) with
            | .ok l => .ok (l, first)
            | .error c => .error (c, 0)
  | level + 1, node =>
    if !s.frameOk (s.pa c.part) node (2 ^ 16) then .error (3, level + 1)
    else
      let key := node + 8 * vaIndex (level + 1) va
      let e := s.pteAt key
      match s.walkStop c.agent [key] with
      | some c => .error (c, level + 1)
      | none =>
        if !bitOf e 0 then .error (1, level + 1)
        else if level = 0 && bitOf e 1 then
          match s.leafOf (s.pa c.part) c.part va 1 e fun _ => e with
          | .ok l => .ok (l, key)
          | .error c => .error (c, 1)
        else if bitsOf e 15 1 != 0 || bitsOf e 63 48 != 0 then .error (2, level + 1)
        else s.walk c va level (bitsOf e 55 16 * 2 ^ 16)

/-- A TLB's leaf for an address. -/
def tlbFind (tlb : List (Nat × Leaf)) (unit part va : Nat) : Option Leaf :=
  (tlb.find? fun x => x.1 == unit && x.2.part == part && decide (x.2.va ≤ va) && decide (va < x.2.va + x.2.size)).map (·.2)

/-- Put a leaf into a TLB that holds `cap` entries for the unit, dropping the oldest. -/
def tlbPut (tlb : List (Nat × Leaf)) (unit cap : Nat) (l : Leaf) : List (Nat × Leaf) :=
  let mine := tlb.filter fun x => x.1 == unit
  (unit, l) :: (tlb.filter fun x => x.1 != unit) ++ mine.take (cap - 1)

/-- Put a leaf into a quad's L2 TLB of 4,096 entries in 512 sets of 8, dropping the oldest of its set (R2, R187). -/
def tlbPut8 (tlb : List (Nat × Leaf)) (unit : Nat) (l : Leaf) : List (Nat × Leaf) :=
  let set (x : Leaf) : Nat := Config.tlbSet x.part x.va x.size % 512
  let mine := tlb.filter fun x => x.1 == unit
  if mine.length < 8 then (unit, l) :: tlb
  else
    let same (x : Nat × Leaf) : Bool := x.1 == unit && set x.2 == set l
    (unit, l) :: (tlb.filter fun x => !same x) ++ (tlb.filter same).take 7

/-- Translation through the TLBs and the walker: the leaf and the state with the caches filled (R187). -/
def State.translate (s : State) (c : Ctx) (va : Nat) : Except (Nat × Nat) (Leaf × State) :=
  let l1 := match c.core with | some k => tlbFind s.tlb1 k c.part va | none => none
  match l1 with
  | some l => .ok (l, s)
  | none =>
    let fill1 (s : State) (l : Leaf) : State := match c.core with | some k => { s with tlb1 := tlbPut s.tlb1 k 64 l } | none => s
    match tlbFind s.tlb2 c.quad c.part va with
    | some l => .ok (l, fill1 s l)
    | none =>
      match s.walk c (va % 2 ^ 57) 3 (s.pa c.part).ptroot with
      | .error e => .error e
      | .ok (l, _) => .ok (l, fill1 { s with tlb2 := tlbPut8 s.tlb2 c.quad l, bigPages := if l.size == 2 ^ 16 || s.bigPages.contains l then s.bigPages else l :: s.bigPages } l)

/-- A leaf used by a buffer of a kind: in place, to be migrated, or refused (R186). `dom` is the domain the buffer needs, if any. -/
inductive LeafUse where
  | hbm
  | cap
  | migrate
  | wrong
  deriving DecidableEq, Repr

/-- The use of a leaf (R186). -/
def Leaf.use (l : Leaf) (kind : Nat) (dom : Option Nat) : LeafUse :=
  if l.res then
    if kind == 1 || (!l.mig && kind != 4) then .cap
    else if !l.mig then .wrong
    else .migrate
  else match dom with
    | some d => if (kind == 0 || kind == 4) && l.frame / 2 ^ 44 != d then .wrong else .hbm
    | none => .hbm

/-- The byte of a leaf at an address, and whether the Lenzel Link refuses it. -/
def Leaf.loc (l : Leaf) (memside : Bool) (va : Nat) : Loc :=
  let off := va - l.va
  { key := if l.res then capKey (l.frame + off) else hbmKey (l.frame + off), va := va, mside := !l.res && (memside || l.mside), enc := l.enc }

/-- The migration that is copying a capacity-tier byte (R189). -/
def State.copying (s : State) (frame : Nat) : Option Migration :=
  s.migrations.find? fun m => decide (m.leaf.frame ≤ frame) && decide (frame < m.leaf.frame + m.leaf.size)

/-- A byte through a leaf that is used in place: HBM4E, or the capacity tier unless a migration copies the page or the Lenzel Link refuses (R186, R189); else what
`other` says. -/
def State.inPlace (s : State) (acc kind : Nat) (dom : Option Nat) (va off : Nat) (btw : Bool) (l : Leaf) (other : LeafUse → Except Trap (Loc × State)) :
    Except Trap (Loc × State) :=
  let level := if l.size = 2 ^ 30 then 1 else 0
  match l.use kind dom with
  | .hbm => .ok (l.loc (kind == 4) va, s)
  | .cap =>
    match s.copying (l.frame + (va - l.va)) with
    | some m => .error (.wait (.page m.id (pageDetail off 0 acc level btw)) .none)
    | none =>
      if Config.companionHas ((l.frame + (va - l.va)) / 64) then .ok (l.loc false va, s)
      else .error (.fault 0x0A (pageDetail off 3 acc level btw))
  | u => other u

/-- What a walk that stopped does to its access: it is sent again, meets POISON (R275), or meets PAGE. -/
def walkTrap (lost page : DWord) (cause : Nat) : Trap := if cause = 0 then .wait .retry .none else if cause = 16 then .fault 0x17 lost else .fault 0x0A page

/-- POISON of a walk names the access's buffer (R180). -/
def Trap.inBuf (idx : Nat) : Trap → Trap
  | .fault code d => if code = 0x17 then .fault code (bufDetail idx (ptrOff d)) else .fault code d
  | t => t

/-- One byte's translation for a buffer of a kind: the byte, or the trap (R186, R187, R189). `off` is the offset reported. The leaf of a page that must migrate is
read again at its home. -/
def State.byteAt (s : State) (c : Ctx) (acc : Nat) (kind : Nat) (dom : Option Nat) (va off : Nat) (btw : Bool) : Except Trap (Loc × State) :=
  let page (cause level : Nat) : Except Trap (Loc × State) := .error (walkTrap (bufDetail 0 off) (pageDetail off cause acc level btw) cause)
  match s.translate c va with
  | .error (cause, level) => page cause level
  | .ok (l, s1) =>
    s1.inPlace acc kind dom va off btw l fun u =>
      if u = .wrong then page 3 (if l.size = 2 ^ 30 then 1 else 0)
      else match s1.walk c (va % 2 ^ 57) 3 (s1.pa c.part).ptroot with
      | .error (cause, level) => page cause level
      | .ok (l1, key) =>
        s1.inPlace acc kind dom va off btw l1 fun u1 =>
          if u1 = .wrong then page 3 (if l1.size = 2 ^ 30 then 1 else 0)
          else .error (.wait .retry (.migrate l1 key dom (pageDetail off 0 acc 0 btw)))

/-- A run of bytes, lowest failing byte first. -/
def State.bytesAt (s : State) (c : Ctx) (acc kind : Nat) (dom : Option Nat) (btw : Bool) : Nat → Nat → Nat → Except Trap (List Loc × State)
  | 0, _, _ => .ok ([], s)
  | n + 1, va, off =>
    match s.byteAt c acc kind dom va off btw with
    | .error t => .error t
    | .ok (l, s1) =>
      match s1.bytesAt c acc kind dom btw n (va + 1) (off + (if btw then 0 else 1)) with
      | .error t => .error t
      | .ok (ls, s2) => .ok (l :: ls, s2)

/-- The buffer-table entry of an index, through the quad's buffer cache (R187), as a read shows it (R281). `off` is the offset of the access. -/
def State.bufEntry (s : State) (c : Ctx) (idx off : Nat) : Except Trap (BufEntry × State) :=
  let parse (b : List Byte) : BufEntry := if idx = 0 then BufEntry.flat c.part b else BufEntry.parse b
  match s.bufc.find? fun x => x.1 == c.quad && x.2.1 == c.part && x.2.2.1 == idx with
  | some x => .ok (parse x.2.2.2, s)
  | none =>
    match s.bytesAt c 0 0 none true 32 ((s.pa c.part).btbase + 32 * idx) off with
    | .error t => .error (t.inBuf idx)
    | .ok (ls, s1) =>
      if ls.any fun l => s1.walkHeld c.agent l.key then .error (.wait .retry .none)
      else if ls.any fun l => s1.isPoison l.key then .error (.fault 0x17 (bufDetail idx off))
      else
      let b := s1.unmask c.part ls (ls.map fun l => (s1.histAt l.key).homeNewest)
      let mine := s1.bufc.filter fun x => x.1 == c.quad
      .ok (parse b, { s1 with bufc := (c.quad, c.part, idx, b) :: (s1.bufc.filter fun x => x.1 != c.quad) ++ mine.take 255 })

/-- `pod_place` of R184: node and local offset. -/
def podPlace (e : BufEntry) (off : Nat) : Nat × Nat :=
  let i := off / 2 ^ e.stride % 2 ^ e.cnt
  (e.node + i, off / 2 ^ (e.stride + e.cnt) * 2 ^ e.stride + off % 2 ^ e.stride)

/-- SEQ comparison of the generation check (R179). -/
def genBlocked (seq gseq : Nat) : Bool := decide (2 ^ 31 ≤ (seq + 2 ^ 32 - gseq % 2 ^ 32) % 2 ^ 32)

/-- The checks of R179 before translation: the entry. -/
def State.portEntry (s : State) (c : Ctx) (acc : Acc) (ptr : DWord) (n : Nat) : Except Trap (BufEntry × State) :=
  let idx := ptrBuf ptr; let off := ptrOff ptr
  match s.bufEntry c idx off with
  | .error t => .error t
  | .ok (e, s1) =>
    let need := match acc with | .read | .fetch => 0 | .write => 1 | .atomic => 2
    if !e.valid || e.bad then .error (.fault 0x07 (bufDetail idx off))
    else if e.length < off + n then .error (.fault 0x07 (bufDetail idx (max off e.length)))
    else if !bitOf e.rights need then .error (.fault 0x08 (bufDetail idx off))
    else if e.owner ≠ c.part then .error (.fault 0x09 (bufDetail idx off))
    else if (match c.seq with | some q => idx != 0 && genBlocked q e.gseq | none => false) then
      .error (.fault 0x18 (BitVec.ofNat 64 (idx + e.gen * 2 ^ 16)))
    else .ok (e, s1)

/-- Placement and translation of bytes that one node holds (R179, R184). What goes to the device's own node is handled here, through partition RPART (R268). -/
def State.portPlace (s : State) (c : Ctx) (acc : Acc) (e : BufEntry) (idx off n : Nat) : Except Trap (Target × State) :=
  let here (va : Nat) (dom : Option Nat) : Except Trap (Target × State) :=
    match s.bytesAt c acc.code e.kind dom false n va off with
    | .error t => .error (t.inBuf idx)
    | .ok (ls, s2) => .ok (.here ls, s2)
  match e.kind with
  | 2 =>
    if e.node = s.node then
      match s.bytesAt { c with part := e.rpart, core := none, quad := 48 } acc.code 0 none false n (e.base + off) off with
      | .error t => .error (match t.inBuf idx with
        | .fault code d => if code = 0x17 then .fault code d else .fault 0x0A (pageDetail (ptrOff d) 6 acc.code 0 false)
        | t => t)
      | .ok (ls, s2) => .ok (.here ls, s2)
    else .ok (.away e.node e.rpart (e.base + off) (mkPtr idx off).toNat, s)
  | 3 =>
    let (node, loc) := podPlace e off
    if node = s.node then here (e.base + loc) none else .ok (.away node e.rpart (e.base + loc) (mkPtr idx off).toNat, s)
  | _ => here (e.base + off) (some e.domain)

/-- The steps of R179 up to and including translation, for an access that one node holds: every naturally aligned access. -/
def State.port (s : State) (c : Ctx) (acc : Acc) (ptr : DWord) (n : Nat) : Except Trap (Target × State) :=
  match s.portEntry c acc ptr n with
  | .error t => .error t
  | .ok (e, s1) => s1.portPlace c acc e (ptrBuf ptr) (ptrOff ptr) n

/-- The lengths into which a pod buffer's stripes cut an access (R184). -/
def podCuts (e : BufEntry) : Nat → Nat → Nat → List Nat
  | 0, _, _ => []
  | fuel + 1, off, n =>
    let room := 2 ^ e.stride - off % 2 ^ e.stride
    if e.kind ≠ 3 ∨ n ≤ room then [n] else room :: podCuts e fuel (off + room) (n - room)

/-- A part of an access: where it goes, its offset in the access and its length. -/
abbrev AccPart := Target × Nat × Nat

/-- The parts of an access in ascending order, up to the first that cannot be placed, with its trap (R179). -/
def State.placeParts (s : State) (c : Ctx) (acc : Acc) (e : BufEntry) (ptr : DWord) : Nat → List Nat → List AccPart × Option Trap × State
  | _, [] => ([], none, s)
  | at_, m :: ms =>
    match s.portPlace c acc e (ptrBuf ptr) (ptrOff ptr + at_) m with
    | .error t => ([], some t, s)
    | .ok (tg, s1) =>
      let (r, t, s2) := s1.placeParts c acc e ptr (at_ + m) ms
      ((tg, at_, m) :: r, t, s2)

/-- The steps of R179 for an access of any length: its parts, and the trap of the part after them. -/
def State.portPlan (s : State) (c : Ctx) (acc : Acc) (ptr : DWord) (n : Nat) : Except Trap (List AccPart × Option Trap × State) :=
  match s.portEntry c acc ptr n with
  | .error t => .error t
  | .ok (e, s1) => .ok (s1.placeParts c acc e ptr 0 (podCuts e (n + 1) (ptrOff ptr) n))

/-- The parts of an access that can be placed as a whole. -/
def State.portParts (s : State) (c : Ctx) (acc : Acc) (ptr : DWord) (n : Nat) : Except Trap (List AccPart × State) :=
  match s.portPlan c acc ptr n with
  | .error t => .error t
  | .ok (_, some t, _) => .error t
  | .ok (ps, none, s1) => .ok (ps, s1)

/-- An earlier RED of the agent to these bytes comes before its access and cannot execute yet (R208, R210, R390). -/
def State.redHeld (s : State) (a : Agent) (ls : List Loc) : Bool := (s.redsBefore a (some (keysOf ls))).any s.redWaits

/-- After translation: refusals, then POISON: of every access to a row that its channel does not hold or to a block whose counters are spent (R275, R281), and of a read or
an atomic to a byte that cannot be read (R179). -/
def State.guardLocs (s : State) (c : Ctx) (acc : Acc) (ptr : DWord) (ls : List Loc) : Except Trap Unit :=
  if ls.any (s.refused c.agent) || s.redHeld c.agent ls then .error (.wait .retry .none)
  else match (List.range ls.length).find? fun i =>
      let k := (ls[i]?.map (·.key)).getD 0
      if acc = .write then s.rowLost k || s.inBlock (·.spent) k else s.isPoison k with
    | some i => .error (.fault 0x17 (bufDetail (ptrBuf ptr) (ptrOff ptr + i)))
    | none => .ok ()

end Sys2Proof.Machine
end

