-- ==== Sys2Proof/Machine/Fabric.lean ====
section
/-! DEFINITION. Messages to other devices, remote requests, and the parts of an access that several nodes hold (R22, R179, R266-R270, R281, R390). -/

namespace Sys2Proof.Machine

/-- A forwarding entry: PREFIX, MLEN, PORTS when VALID (R268). -/
def State.fwd (s : State) (i : Nat) : Option (Nat × Nat × Nat) :=
  let v := s.win (0x3000 + 16 * i) 8
  if bitOf v 63 then some (bitsOf v 21 0, min (bitsOf v 28 24) 22, bitsOf v 47 32) else none

/-- The ports of the entry by which a message bound for a node leaves: longest match, then the lower entry (R268). -/
def State.fwdPorts (s : State) (node : Nat) : Nat :=
  (((List.range 256).filterMap s.fwd).foldl (fun (best : Option (Nat × Nat)) e =>
    let (pre, len, ports) := e
    if pre / 2 ^ (22 - len) ≠ node / 2 ^ (22 - len) then best
    else match best with
      | some (l, _) => if l < len then some (len, ports) else best
      | none => some (len, ports)) none).elim 0 (·.2)

/-- The trained ports over which a message to a node may go; a message to the device's own node stays here (R266, R268). -/
def State.routePorts (s : State) (node : Nat) : Nat := Nat.land (s.fwdPorts node) (bitsOf (s.win 0 8) 24 9)

/-- A message to the node can leave, or is handled here (R268). -/
def State.hasRoute (s : State) (node : Nat) : Bool := node == s.node || s.routePorts node != 0

/-- ACC of a request's kind (R180). -/
def reqAcc (kind : Nat) : Nat := match kind with | 0 | 5 | 6 => 0 | 1 | 7 | 8 => 1 | 4 => 3 | _ => 2

/-- PAGE with cause 6 for a remote access (R180, R268, R270). -/
def remoteLost (off kind : Nat) : DWord := pageDetail off 6 (reqAcc kind) 0 false

/-- The port over which a message goes, by a hash of its source node and sequence (R268). -/
def State.sendPort (s : State) (node src seq : Nat) : Nat :=
  let ports := (List.range 16).filter fun i => bitOf (s.routePorts node) i
  nth 0 ports (Config.portHash src seq % max 1 ports.length)

/-- Encrypted traffic over a port counts its flits; at the counter's maximum the port carries none (R281). -/
def State.countFlits (s : State) (node src seq len : Nat) : Option State :=
  if node = s.node ∨ !Config.nodeMarked node then some s
  else
    let p := s.sendPort node src seq
    let n : Nat := ((s.fabric.portFlits.find? fun x => x.1 == p).map (·.2)).getD 0
    if n + 1 = 2 ^ 64 then none
    else some { s with fabric := { s.fabric with portFlits := (p, min (n + max 1 (ceilDiv len 64)) (2 ^ 64 - 1)) :: s.fabric.portFlits.filter fun x => x.1 != p } }

/-- A message leaves for another node over one of its ports; none when no port leads there or the port carries none (R268, R281). -/
def State.sendMsg (s : State) (node src seq len : Nat) (msg : Nat → Out) : Option State :=
  if !s.hasRoute node then none
  else (s.countFlits node src seq len).map fun s1 => { s1 with fabric := { s1.fabric with out := s1.fabric.out ++ [msg (s.sendPort node src seq)] } }

/-- A message over a port. -/
def Out.via (m : Out) (port : Nat) : Out := match m with
  | .request _ node who seq part va kind len mod data => .request port node who seq part va kind len mod data
  | .forward _ src sp who dest seq part va kind len mod data => .forward port src sp who dest seq part va kind len mod data
  | .answer _ src dest seq kind fault detail data => .answer port src dest seq kind fault detail data
  | .half _ src node part tag ll nb hb data => .half port src node part tag ll nb hb data
  | .barrier _ src node part tag id release => .barrier port src node part tag id release
  | m => m

/-- A message that its sender does not make again leaves, or stays until a port takes it (R22, R281). -/
def State.sendOut (s : State) (d : HeldMsg) : State :=
  (s.sendMsg d.node d.src d.seq d.len d.msg.via).getD { s with fabric := { s.fabric with outDue := s.fabric.outDue ++ [d] } }

/-- The messages that ports take now leave, in their order. -/
def State.sendDue (s : State) : State := s.fabric.outDue.foldl State.sendOut { s with fabric := { s.fabric with outDue := [] } }

/-- Ordering bits of a request (R293): [6] acquire, [7] release, [10:8] SCOPE. -/
def ordMod (acq rel : Bool) (scope : Nat) : BitVec 18 := BitVec.ofNat 18 ((if acq then 2 ^ 6 else 0) + (if rel then 2 ^ 7 else 0) + scope % 8 * 2 ^ 8)

/-- SCOPE of a request. -/
def modScope (mod : BitVec 18) : Nat := bitsOf mod.toNat 10 8

/-- What a request makes known when its access is a release (R205). -/
def State.modRelease (s : State) (a : Agent) (part : Nat) (mod : BitVec 18) : Option Release :=
  if mod.getLsbD 7 then some { agent := a, part := part, scope := modScope mod, known := s.knownBy a } else none

/-- Send a request to another device (R270): its number, or none while 1,024 requests to that device are outstanding or its port carries none. A release among them is
remembered by its sequence (R205); `known` is what it makes known, where that is not what its agent knows now. -/
def State.postRemote (s : State) (a : Agent) (node part va off kind len : Nat) (mod : BitVec 18) (data : List Byte) (known : Option (List Nat) := none) : Option (Nat × State) :=
  if 1024 ≤ (s.fabric.reqs.filter fun r => r.node == node && r.answer.isNone).length then none
  else
    let s := if mod.getLsbD 7 then s.forceReds a none else s
    let seq := ((s.fabric.seqs.find? fun x => x.1 == node).map (·.2)).getD 0
    (s.sendMsg node s.node seq data.length fun port => .request port node a seq part va kind len mod data).map fun s1 =>
      let now := s.svc.time.toNat
      let rel := (s.modRelease a ((s.agPart a).getD part) mod).map fun x => { x with known := known.getD x.known }
      let s1 := match rel with | some x => s1.see a x.known | none => s1
      let r : RemoteReq := { id := s.fabric.nextReq, agent := a, node := node, seq := seq, part := part, va := va, off := off, kind := kind, len := len,
                             mod := mod, data := data, sent := now, again := now, release := rel, answer := none, learned := [] }
      (r.id, { s1 with fabric := { s1.fabric with reqs := s1.fabric.reqs ++ [r], nextReq := r.id + 1,
                                                  seqs := (node, (seq + 1) % 2 ^ 32) :: s1.fabric.seqs.filter (fun x => x.1 != node),
                                                  releases := (rel.map fun x => { node := node, seq := seq, release := x }).toList ++ s1.fabric.releases } })

/-- The request of an agent for this access, if it has been made. -/
def State.madeReq (s : State) (a : Agent) (node part va kind len : Nat) : Option RemoteReq :=
  s.fabric.reqs.find? fun r => r.agent == a && r.node == node && r.va == va && r.kind == kind && r.part == part && r.len == len

/-- The requests of an agent that have been answered are done with. -/
def State.dropAnswers (s : State) (a : Agent) : State :=
  if s.fabric.reqs.any fun r => r.agent == a && r.answer.isSome then
    { s with fabric := { s.fabric with reqs := s.fabric.reqs.filter fun r => !(r.agent == a && r.answer.isSome) } }
  else s

/-- A remote access: the answer that arrived, or the request to send (R179, R270); after an earlier RED of the thread to the same bytes (R390). -/
def State.remote (s : State) (a : Agent) (node part va off kind len : Nat) (mod : BitVec 18) (data : List Byte) : Except Trap (List Byte) :=
  match s.madeReq a node part va kind len with
  | some r =>
    match r.answer with
    | some (0, _, _, bytes) => .ok bytes
    | some (_, code, detail, _) => .error (.fault code detail)
    | none => .error (.wait (.remote r.id) .none)
  | none =>
    match s.fabric.reds.find? fun r => a == Agent.thread r.thread && r.node == node && r.part == part && decide (r.va < va + len) && decide (va < r.va + r.len) with
    | some r => .error (.wait ((r.req.map Wait.remote).getD .retry) .none)
    | none => .error (.wait .retry (.remote node part va off kind len mod data))

/-- What the answer of an acquire made known enters the agent's visible sets (R205). -/
def State.remoteLearn (s : State) (a : Agent) (node part va kind len : Nat) : State :=
  match s.madeReq a node part va kind len with
  | some r => s.see a r.learned
  | none => s

/-- Bytes that the parts of an access place on this device. -/
def partLocs (ps : List AccPart) : List Loc :=
  ps.flatMap fun p => match p.1 with | .here ls => ls | .away _ _ _ _ => []

/-- Bytes of this device among the parts: refusals of any, then POISON of the first byte that meets it (R179). -/
def State.guardParts (s : State) (c : Ctx) (acc : Acc) (ptr : DWord) (ps : List AccPart) : Except Trap Unit :=
  if (partLocs ps).any fun l => s.refused c.agent l || s.redHeld c.agent [l] then .error (.wait .retry .none)
  else ps.foldl (fun (r : Except Trap Unit) p => match r, p.1 with
    | .ok (), .here ls => s.guardLocs c acc (ea ptr p.2.1) ls
    | r, _ => r) (.ok ())

/-- The parts on other devices, in ascending order, asked by requests of a kind: the first that must wait or fails otherwise than with POISON stops the access; else the
first POISON among them (R179). -/
def State.awayStop (s : State) (c : Ctx) (kind : Nat) (mod : BitVec 18) : List AccPart → Option DWord → Except Trap (Option DWord)
  | [], p => .ok p
  | (.here _, _, _) :: ps, p => s.awayStop c kind mod ps p
  | (.away node part va off, _, n) :: ps, p =>
    match s.remote c.agent node part va off kind n mod [] with
    | .ok _ => s.awayStop c kind mod ps p
    | .error (.fault 0x17 d) => s.awayStop c kind mod ps (p.or (some d))
    | .error t => .error t

/-- The parts of an access as a whole: a part that cannot be placed stops it when no earlier part does, then refusals, then POISON of the lowest byte that meets it (R179). -/
def State.partsStop (s : State) (c : Ctx) (acc : Acc) (ptr : DWord) (kind : Nat) (mod : BitVec 18) (ps : List AccPart) (stop : Option Trap) : Except Trap Unit :=
  match s.awayStop c kind mod ps none, stop with
  | .error t, _ => .error t
  | .ok _, some t => .error t
  | .ok far, none =>
    match s.guardParts c acc ptr ps, far with
    | .ok (), none => .ok ()
    | .ok (), some d => .error (.fault 0x17 d)
    | .error (.fault code d), some d' => .error (.fault code (if ptrOff d' < ptrOff d then d' else d))
    | .error t, _ => .error t

/-- An answered request has been used: what it made known enters the agent's visible sets, and the request is done with. -/
def State.spend (s : State) (a : Agent) (node part va kind len : Nat) : State :=
  match s.madeReq a node part va kind len with
  | some r => if r.answer.isNone then s else
    let s1 := s.see a r.learned
    { s1 with fabric := { s1.fabric with reqs := s1.fabric.reqs.filter fun x => x.id != r.id } }
  | none => s

/-- The answered requests of a kind for the parts of an access have been used. -/
def State.spendParts (s : State) (a : Agent) (kind : Nat) (ps : List AccPart) : State :=
  ps.foldl (fun st p => match p.1 with
    | .away node part va _ => st.spend a node part va kind p.2.2
    | .here _ => st) s

end Sys2Proof.Machine
end

