-- ==== Sys2Proof/Machine/Hub.lean ====
section
/-! DEFINITION. The Curator and the system hubs as agents: their reads, their release writes, host notifications and fault-queue entries (R48, R220, R259, R264). -/

namespace Sys2Proof.Machine

/-- The hub's context for a partition. DESIGN CHOICE (log 87): R187 gives a TLB and a buffer cache to each quad only; what belongs to no quad (the Curator, the companion
processor, requests of other devices) shares one more of each, as quad 48. -/
def hubCtx (part : Nat) (seq : Option Nat) : Ctx := { agent := .hub part, part := part, core := none, quad := 48, seq := seq }

/-- Wake the blocked threads that satisfy a test: they replay what blocked them. Those of a cohort that is saved stay as they are (R253). -/
def State.wake (s : State) (p : Nat → Thread → Bool) : State :=
  let woken (t : Nat) : Bool := p t (s.th t) && (s.co (s.th t).coh).place == .resident && (s.co (s.th t).coh).taken != .save
  { s with threads := (List.range s.threads.length).map fun t => if woken t then { s.th t with run := .ready, listed := .no } else s.th t }

/-- The most recent bytes of a location, observed by the hub with an acquire at .sys (R244). -/
def State.hubLook (s : State) (part : Nat) (ls : List Loc) : List Byte × State :=
  let ws := (ls.filterMap fun l => ((s.histAt l.key).writes.head?).map (·.wid)).foldl (fun l w => union l [w]) []
  let got := s.learn (.hub part) part scSys ws
  (s.unmask part ls (ls.map fun l => Memory.get s.mem l.key), (s.note (.hub part) ws).see (.hub part) got)

/-- The order of the hub's reads at another device: an acquire at .sys (R190, R244). -/
def hubAcq : BitVec 18 := ordMod true false scSys

/-- The bytes that the hub reads, part by part; a part on another device has been answered there. -/
def State.hubGet (s : State) (c : Ctx) : List AccPart → Except Trap (List Byte × State)
  | [] => .ok ([], s)
  | (.here ls, _, _) :: ps =>
    let (b, s1) := s.hubLook c.part ls
    (s1.hubGet c ps).map fun r => (b ++ r.1, r.2)
  | (.away node part va off, _, n) :: ps =>
    match s.remote c.agent node part va off 0 n hubAcq [] with
    | .error t => .error t
    | .ok b => ((s.spend c.agent node part va 0 n).hubGet c ps).map fun r => (b ++ r.1, r.2)

/-- A read by the hub through the memory port (R179, R181). -/
def State.hubRead (s : State) (part : Nat) (seq : Option Nat) (ptr : DWord) (n : Nat) : Except Trap (List Byte × State) := do
  let c := hubCtx part seq
  let (ps, s1) ← s.portParts c .read ptr n
  s1.partsStop c .read ptr 0 hubAcq ps none
  s1.hubGet c ps

/-- A write by the hub, as a release at .sys scope that has reached its home, on this device or another (R48, R179, R259). -/
def State.hubWrite (s : State) (part : Nat) (seq : Option Nat) (ptr : DWord) (bytes : List Byte) : Except Trap State := do
  let c := hubCtx part seq
  let (tg, s1) ← s.port c .write ptr bytes.length
  match tg with
  | .away node rp va off =>
    let _ ← s1.remote c.agent node rp va off 1 bytes.length (ordMod false true scSys) bytes
    .ok (s1.spend c.agent node rp va 1 bytes.length)
  | .here ls =>
    s1.guardLocs c .write ptr ls
    let rel : Release := { agent := c.agent, part := part, scope := scSys, known := s1.prov.hub }
    let w := s1.prov.next
    let s2 := s1.encWrite part ls
    .ok ((s2.storePiece c.agent part (vaOf ls) (sideOf ls) (keysOf ls) (s2.unmask part ls bytes) true [rel] []).arrive [w])

/-- A pointer moved within its buffer. -/
def DWord.plus (p : DWord) (n : Nat) : DWord := ea p n

/-- A host notification of 64 B (R264): written, as a release at .sys of what `known` holds, or discarded and counted in NDROP. -/
def State.notify (s : State) (part : Nat) (body : List Byte) (known : List Nat) : State :=
  let naddr := s.win (0x2000 + 16 * part) 8
  if naddr = 0 then s
  else if Config.companionHas (naddr / 64) then
    { s with fabric := { s.fabric with out := s.fabric.out ++ [.notify naddr body] },
             prov := { s.prov with notices := s.prov.notices ++ [(part, known)] } }
  else
    let n := s.win (0x2000 + 16 * part + 8) 4
    s.setWin (0x2000 + 16 * part + 8) 4 (if n + 1 < 2 ^ 32 then n + 1 else n)

/-- STATUS of a partition's record in the window (R242). -/
def State.status (s : State) (part : Nat) : Nat := s.win (0x1000 + 256 * part + 0x78) 8

/-- Set one bit of STATUS. -/
def State.setStatus (s : State) (part bit : Nat) (v : Bool) : State :=
  let x := s.status part
  s.setWin (0x1000 + 256 * part + 0x78) 8 (if bitOf x bit == v then x else if v then x + 2 ^ bit else x - 2 ^ bit)

/-- The fault queue is unusable until the next reset (R259). -/
def State.fqStop (s : State) (part : Nat) : State := (s.setPa part { s.pa part with fqBad := true }).setStatus part 2 true

/-- The fault-queue control block: HEAD, TAIL, SIZE, LOST, RING when it is sound (R259). -/
def fqParse (b : List Byte) : Option (Nat × Nat × Nat × Nat × DWord) :=
  let head := field b 0 8; let tail := field b 8 8; let size := field b 0x10 1
  let ring := BitVec.ofNat 64 (field b 0x18 8)
  if size < 4 ∨ 12 < size ∨ field b 0x11 3 ≠ 0 ∨ field b 0x20 32 ≠ 0 ∨ 2 ^ size < (tail + 2 ^ 64 - head) % 2 ^ 64 ∨ ptrOff ring % 64 ≠ 0 then none
  else some (head, tail, size, field b 0x14 4, ring)

/-- The bytes of a fault-queue entry (R259). -/
def fqBytes (kind code seq cohort handle state : Nat) (detail time : DWord) : List Byte :=
  toLE 1 kind ++ toLE 1 code ++ toLE 2 0 ++ toLE 4 seq ++ toLE 8 cohort ++ toLE 4 handle ++ toLE 4 state ++ toLE 8 detail.toNat ++ toLE 8 time.toNat
    ++ toLE 24 0

/-- The partition of a job. -/
def HubJob.part : HubJob → Nat
  | .put p _ _ _ => p
  | .entry p _ _ _ _ _ _ _ _ => p
  | .fq p _ _ _ => p
  | .reject p _ _ _ _ => p
  | .refuse p _ _ _ _ => p
  | .skip p => p
  | .reset p _ => p
  | .tell p _ => p
  | .child p _ _ _ => p

/-- What becomes of a job whose access fails: the fault queue is unusable, a rejection that cannot be recorded is an entry for the fault queue, any other write is dropped
(R245, R259). -/
def State.hubFail (s : State) (j : HubJob) : State × List HubJob :=
  let s1 := s.dropAnswers (.hub j.part)
  match j with
  | .entry part _ _ _ _ _ _ _ _ | .fq part _ _ _ => (s1.fqStop part, [])
  | .reject part seq code _ time | .refuse part seq code _ time => (s1, [.entry part 2 code seq 0 0 0 0 time])
  | _ => (s1, [])

/-- A fault-queue entry (R259): discarded when the queue is unusable, counted in LOST when the ring is full, else written before TAIL is. -/
def State.fqPlan (s : State) (part : Nat) (entry : List Byte) : Except Trap (State × List HubJob) := do
  let cb := (s.pa part).fqcb
  let (b, s1) ← s.hubRead part none cb 64
  .ok (match fqParse b with
    | none => (s1.fqStop part, [])
    | some (head, tail, size, lost, ring) =>
      if 2 ^ size ≤ (tail + 2 ^ 64 - head) % 2 ^ 64 then (s1, [.fq part (DWord.plus cb 0x14) (toLE 4 (min (lost + 1) (2 ^ 32 - 1))) none])
      else (s1, [.fq part (DWord.plus ring (64 * (tail % 2 ^ size))) entry none, .fq part (DWord.plus cb 8) (toLE 8 (tail + 1)) (some (tail + 1))]))

/-- A write to the fault queue; that of TAIL raises a host notification (R259). -/
def State.fqWrite (s : State) (part : Nat) (ptr : DWord) (bytes : List Byte) (tail : Option Nat) : Except Trap State := do
  let s1 ← s.hubWrite part none ptr bytes
  .ok (match tail with
    | none => s1
    | some n => s1.notify part (toLE 1 1 ++ toLE 1 part ++ toLE 6 0 ++ toLE 8 n ++ toLE 8 s1.svc.time.toNat ++ toLE 40 0) s1.prov.hub)

/-- The access that a job makes, and the jobs that follow it, so that each write stands before the next is begun (R47, R48, R259-R261). A reset's later steps make theirs
through jobs of their own, and the completion of a child's future makes none. -/
def State.hubAccess (s : State) : HubJob → Except Trap (State × List HubJob)
  | .put part seq ptr bytes => (s.hubWrite part seq ptr bytes).map fun s1 => (s1, [])
  | .entry part kind code seq cohort handle state detail time =>
    if (s.pa part).fqBad then .ok (s, []) else s.fqPlan part (fqBytes kind code seq cohort handle state detail time)
  | .fq part ptr bytes tail => if (s.pa part).fqBad then .ok (s, []) else (s.fqWrite part ptr bytes tail).map fun s1 => (s1, [])
  | .reject part seq code ptr time => (s.hubWrite part (some seq) (DWord.plus ptr 4) (toLE 4 seq)).map fun s1 => (s1, [.refuse part seq code ptr time])
  | .refuse part seq code ptr _ => (s.hubWrite part (some seq) ptr (toLE 1 4 ++ toLE 1 code)).map fun s1 => (s1, [])
  | .skip part => (s.hubRead part none (s.pa part).hqcb 64).map fun r => (r.2, [.put part none (s.pa part).hqcb (toLE 8 (field r.1 8 8))])
  | .tell part hctrl => (s.hubRead part none hctrl 64).map fun r =>
    (r.2, [.put part none hctrl (toLE 8 0), .put part none (DWord.plus hctrl 8) (toLE 8 (field r.1 8 8 + 1))])
  | .reset _ _ | .child _ _ _ _ => .error (.wait .retry .none)

/-- One job of the Curator: what is left of it, or what it waits for. -/
def State.hubJob (s : State) (j : HubJob) : Except (Wait × Req) (State × List HubJob) :=
  match s.hubAccess j with
  | .ok r => .ok r
  | .error (.wait w r) => .error (w, r)
  | .error (.fault _ _) => .ok (s.hubFail j)

/-- Jobs are done in order until one must wait; those that are left. -/
def State.hubRun : Nat → State → List HubJob → State × List HubJob
  | 0, s, js => (s, js)
  | _, s, [] => (s, [])
  | n + 1, s, j :: js => match s.hubJob j with
    | .ok (s1, more) => State.hubRun n s1 (more ++ js)
    | .error _ => (s, j :: js)

/-- Do a job, or queue it behind the partition's earlier jobs or what it waits for. -/
def State.hubDo (s : State) (j : HubJob) : State :=
  if s.hubq.any fun x => x.part == j.part then { s with hubq := s.hubq ++ [j] }
  else
    let (s1, js) := State.hubRun 8 s [j]
    { s1 with hubq := s1.hubq ++ js }

/-- A partition's reset is under way: steps 1 to 6 of R260 have not all been made. -/
def State.resetting (s : State) (part : Nat) : Bool := s.hubq.any fun j => match j with | .reset p _ => p == part | _ => false

/-- A write of the Curator, which it retries while it is refused. -/
def State.hubPut (s : State) (part : Nat) (seq : Option Nat) (ptr : DWord) (bytes : List Byte) : State := s.hubDo (.put part seq ptr bytes)

/-- An entry for a partition's fault queue (R259). -/
def State.fqEnter (s : State) (part kind code seq cohort handle state : Nat) (detail : DWord) : State :=
  s.hubDo (.entry part kind code seq cohort handle state detail s.svc.time)

/-- The index of a launch. -/
def State.launchIdx (s : State) (part seq : Nat) : Option Nat := s.launches.findIdx? fun l => l.part == part && l.seq == seq

/-- Update a launch. -/
def State.updLaunch (s : State) (part seq : Nat) (f : Launch → Launch) : State :=
  { s with launches := updFirst (fun l => l.part == part && l.seq == seq) f s.launches }

/-- A launch. -/
def State.launch (s : State) (part seq : Nat) : Option Launch := s.launches.find? fun l => l.part == part && l.seq == seq

/-- The bytes of FAULTCNT to the end of a completion record (R47). -/
def Launch.faultBytes (l : Launch) : List Byte :=
  let f := l.first.getD ⟨0, 0, 0, 0, 0, 0, 0, 0⟩
  toLE 4 l.faults ++ toLE 4 0 ++ toLE 4 f.x ++ toLE 2 f.y ++ toLE 2 f.z ++ toLE 2 f.tid ++ toLE 1 f.code ++ toLE 1 f.kind ++ toLE 4 0 ++ toLE 8 f.pc
    ++ toLE 8 f.detail.toNat

/-- Write the counts of a launch into its completion record (R48). -/
def State.putCounts (s : State) (part seq : Nat) : State :=
  match s.launch part seq with
  | none => s
  | some l => s.hubPut part (some seq) (DWord.plus l.lr.compl 8) (toLE 8 l.completed ++ toLE 8 l.prefix_ ++ l.faultBytes)

/-- Write STATE of a completion record, last, as a release at .sys (R48). -/
def State.putState (s : State) (part seq v : Nat) : State :=
  match s.launch part seq with
  | none => s
  | some l => (s.hubPut part (some seq) l.lr.compl (toLE 1 v)).updLaunch part seq fun l => { l with state := v }

/-- Saturating 32-bit addition. -/
def satAdd32 (a b : Nat) : Nat := min (a + b) (2 ^ 32 - 1)

/-- A fault record reaches a launch: the count and, when none is recorded, its first entry (R47, R257). -/
def State.faultLaunch (s : State) (part seq n : Nat) (f : Option FirstFault) : State :=
  if n = 0 then s
  else (s.updLaunch part seq fun l => { l with faults := satAdd32 l.faults n, first := match l.first with | some x => some x | none => f }).putCounts part seq

/-- A fault enters a cohort fault record (R255). -/
def Cohort.fault (c : Cohort) (f : FirstFault) : Cohort :=
  { c with faults := satAdd32 c.faults 1, first := match c.first with | some x => some x | none => some f }

/-- Coordinates of a linear index (R26). -/
def coords (l : LaunchRec) (lin : Nat) : Nat × Nat × Nat := (lin % l.gx, lin / l.gx % l.gy, lin / l.gx / l.gy)

/-- A first-fault entry for a cohort (R47). -/
def State.firstFault (s : State) (c : Cohort) (tid code kind pc : Nat) (detail : DWord) : FirstFault :=
  let (x, y, z) := match s.launch c.part c.seq with | some l => coords l.lr c.lin | none => (0, 0, 0)
  { x := x, y := y, z := z, tid := tid, code := code, kind := kind, pc := pc, detail := detail }

end Sys2Proof.Machine
end

