-- ==== Sys2Proof/Machine/Engine.lean ====
section
/-! DEFINITION. Accesses through the port by any agent, page migration, and engine operations with their futures (R189, R190, R212-R220). -/

namespace Sys2Proof.Machine

/-- Size code of a page in the migration pool: 64 KiB or 2 MiB. -/
def poolSide (size : Nat) : Nat := if size = 2 ^ 16 then 0 else 1

/-- What keeps the migration pool waiting, or cause 4: a pool that would have to migrate first is empty too. -/
def poolOr (s : State) : Trap → Except (Wait × Req) (Except Nat Nat × State)
  | .wait _ (.migrate _ _ _ _) => .ok (.error 4, s)
  | .wait w r => .error (w, r)
  | .fault _ _ => .ok (.error 4, s)

/-- Take a frame of the partition's migration pool for a page (R190): the frame and the state, or the cause of PAGE; or a wait.
DESIGN CHOICE (log 68): a broken SIZE or RING of either list empties the pool for both sizes, and so does a block or ring that the port refuses or that is not resident. -/
def State.takeFrame (s : State) (part : Nat) (leaf : Leaf) (domain : Option Nat) : Except (Wait × Req) (Except Nat Nat × State) :=
  let pool := (s.pa part).migpool
  if ptrOff pool % 64 ≠ 0 then .ok (.error 4, s)
  else match s.hubRead part none pool 64 with
  | .error t => poolOr s t
  | .ok (b, s1) =>
    let i := poolSide leaf.size
    let head := field b (16 * i) 8
    let tail := field b (16 * i + 8) 8
    let ring := BitVec.ofNat 64 (field b (0x20 + 8 * i) 8)
    let size := field b (0x30 + i) 1
    if 20 < field b 0x30 1 ∨ 20 < field b 0x31 1 ∨ field b 0x32 14 ≠ 0 ∨ field b 0x20 8 % 8 ≠ 0 ∨ field b 0x28 8 % 8 ≠ 0
        ∨ 2 ^ size < (tail + 2 ^ 64 - head) % 2 ^ 64 ∨ head = tail then .ok (.error 4, s1)
    else match s1.hubRead part none (DWord.plus ring (8 * (head % 2 ^ size))) 8 with
    | .error t => poolOr s1 t
    | .ok (eb, s2) =>
      let frame := leNat eb
      match s2.hubWrite part none (DWord.plus pool (16 * i)) (toLE 8 (head + 1)) with
      | .error t => poolOr s2 t
      | .ok s3 =>
        let wrong : Bool := frame % leaf.size != 0 || !s3.frameOk (s3.pa part) frame leaf.size
          || match domain with | some d => frame / 2 ^ 44 != d | none => false
        .ok (if wrong then .error 3 else .ok frame, s3)

/-- PAGE detail with its cause. -/
def withCause (d : DWord) (cause : Nat) : DWord := d ||| (BitVec.ofNat 64 cause <<< 48)

/-- The agents other than threads that wait for a page: a parked thread hears of a failed transfer by itself (R189). -/
def Agent.asks : Agent → List Agent
  | .thread _ => []
  | a => [a]

/-- A request to another device is made, unless it has been (R268, R270). -/
def State.askRemote (s : State) (a : Agent) (node part va off kind len : Nat) (mod : BitVec 18) (data : List Byte) : Except (Nat × DWord) Wait × State :=
  match s.madeReq a node part va kind len with
  | some r => (.ok (.remote r.id), s)
  | none =>
    if !s.hasRoute node then (.error (0x0A, remoteLost off kind), s)
    else match s.postRemote a node part va off kind len mod data with
    | some (id, s1) => (.ok (.remote id), s1)
    | none => (.ok .retry, s)

/-- What the hub needs of another device for a page's frame is asked for there; a pool that cannot be asked is empty (R190, log 68). -/
def State.askPool (s : State) (part : Nat) (w : Wait) : Req → Except Nat Wait × State
  | .remote node rp va off kind len mod data => match s.askRemote (.hub part) node rp va off kind len mod data with
    | (.ok _, s1) => (.ok .retry, s1)
    | (.error _, s1) => (.error 4, s1)
  | _ => (.ok w, s)

/-- A page is asked for (R189): its migration, which goes on or starts, or the cause of PAGE. An agent other than a thread hears here that the transfer it waited for
has failed: cause 5 (log 80). -/
def State.askPage (s : State) (a : Agent) (leaf : Leaf) (pte : Nat) (domain : Option Nat) (detail : DWord) : Except (Nat × DWord) Wait × State :=
  let key := (a, leaf.part, leaf.va)
  if s.failedMoves.contains key then (.error (0x0A, withCause detail 5), { s with failedMoves := s.failedMoves.filter (· != key) })
  else
    match s.migrations.find? fun m => m.leaf.part == leaf.part && m.leaf.va == leaf.va with
    | some m =>
      let join (x : Migration) : Migration := { x with askers := x.askers ++ a.asks.filter fun b => !x.askers.contains b }
      (.ok (.page m.id detail), { s with migrations := updFirst (fun x => x.id == m.id) join s.migrations })
    | none =>
      match s.takeFrame leaf.part leaf domain with
      | .error (w, r) => match s.askPool leaf.part w r with
        | (.ok _, s1) => (.ok .retry, s1)
        | (.error cause, s1) => (.error (0x0A, withCause detail cause), s1)
      | .ok (.error cause, s1) => (.error (0x0A, withCause detail cause), s1.dropAnswers (.hub leaf.part))
      | .ok (.ok frame, s1) =>
        let m : Migration := { id := s1.count, leaf := leaf, pte := pte, frame := frame, askers := a.asks }
        (.ok (.page m.id detail), { s1 with migrations := s1.migrations ++ [m], count := s1.count + 1 })

/-- What a blocked access asks of the device: the wait that stands for it, or the fault that ends it (R189, R270). -/
def State.request (s : State) (a : Agent) (w : Wait) : Req → Except (Nat × DWord) Wait × State
  | .none => (.ok w, s)
  | .migrate leaf pte domain detail => s.askPage a leaf pte domain detail
  | .remote node part va off kind len mod data => s.askRemote a node part va off kind len mod data

/-- Read the parts of an access in ascending order; `mod` gives its order where a part lies on another device. -/
def State.readParts (s : State) (c : Ctx) (piece : Nat) (mod : BitVec 18) : List AccPart → Except Trap (List Byte × List Nat × State)
  | [] => .ok ([], [], s)
  | (.here ls, _, _) :: ps =>
    let (bs, ws, s1) := (s.forceReds c.agent (some (keysOf ls))).loadBytes c.agent (keysOf ls) piece (vaOf ls)
    match s1.readParts c piece mod ps with
    | .error t => .error t
    | .ok (bs', ws', s2) => .ok (s.unmask c.part ls bs ++ bs', ws ++ ws', s2)
  | (.away node part va off, _, n) :: ps =>
    match s.remote c.agent node part va off 0 n mod [] with
    | .error t => .error t
    | .ok bs =>
      match (s.remoteLearn c.agent node part va 0 n).readParts c piece mod ps with
      | .error t => .error t
      | .ok (bs', ws', s2) => .ok (bs ++ bs', ws', s2)

/-- The remote parts of a write: each has been answered, or the first that has not stops the write. -/
def State.sendParts (s : State) (c : Ctx) (bytes : List Byte) : List AccPart → Except Trap Unit
  | [] => .ok ()
  | (.here _, _, _) :: ps => s.sendParts c bytes ps
  | (.away node part va off, at_, n) :: ps =>
    match s.remote c.agent node part va off 1 n 0 ((bytes.drop at_).take n) with
    | .error t => .error t
    | .ok _ => s.sendParts c bytes ps

/-- The parts of a write on this device. -/
def State.storeParts (s : State) (c : Ctx) (bytes : List Byte) (piece : Nat) (ps : List AccPart) : State :=
  ps.foldl (fun st p => match p.1 with
    | .here ls =>
      let st1 := (st.forceReds c.agent (some (keysOf ls))).encWrite c.part ls
      st1.storeBytes c.agent c.part (vaOf ls) (sideOf ls) (keysOf ls) (st1.unmask c.part ls ((bytes.drop p.2.1).take p.2.2)) piece
    | .away _ _ _ _ => st) s

/-- Whether R179's steps are applied byte by byte: engine operations report the first failing byte of all steps. -/
def Agent.bytewise : Agent → Bool
  | .op _ _ => true
  | _ => false

/-- The steps of R179 for each byte in turn, POISON among them; a part on another device, up to the end of the buffer, must have been answered before a later byte is looked
at. No byte lies beyond the last offset. -/
def State.firstBad (s : State) (c : Ctx) (acc : Acc) (ptr : DWord) (n : Nat) (send : State → Nat → Target → Nat → Except Trap Unit) : Except Trap Unit :=
  let rec go (st : State) : Nat → Nat → Except Trap Unit
    | 0, _ => .ok ()
    | fuel + 1, i =>
      if n ≤ i then .ok ()
      else if 2 ^ 48 ≤ ptrOff ptr + i then .error (.fault 0x07 (bufDetail (ptrBuf ptr) (2 ^ 48)))
      else
      match st.portEntry c acc (ea ptr i) 1 with
      | .error t => .error t
      | .ok (e, st1) =>
        match st1.portPlace c acc e (ptrBuf (ea ptr i)) (ptrOff (ea ptr i)) 1 with
        | .error t => .error t
        | .ok (.here ls, st2) =>
          match st2.guardLocs c acc (ea ptr i) ls with
          | .error t => .error t
          | .ok () => go st2 fuel (i + 1)
        | .ok (tg, st2) =>
          let m := min (e.length - ptrOff (ea ptr i)) ((podCuts e (n + 1) (ptrOff (ea ptr i)) (n - i)).headD 1)
          match send st2 i tg m with
          | .error t => .error t
          | .ok () => go st2 fuel (i + m)
  go s n 0

/-- Checks of an access: those of R179 over all bytes, or byte by byte for an engine operation. -/
def State.checked {α : Type} (s : State) (c : Ctx) (acc : Acc) (ptr : DWord) (n : Nat) (send : State → Nat → Target → Nat → Except Trap Unit)
    (whole : Except Trap α) : Except Trap α :=
  match whole with
  | .ok x => .ok x
  | .error t =>
    if c.agent.bytewise then (match s.firstBad c acc ptr n send with | .error t' => .error t' | .ok () => .error t) else .error t

/-- A plain read of global memory by an agent, in single-copy atomic pieces of `piece` bytes: bytes, writes read, state (R179, R198, R201). -/
def State.readMem (s : State) (c : Ctx) (ptr : DWord) (n piece : Nat) (mod : BitVec 18 := 0) : Except Trap (List Byte × List Nat × State) :=
  s.checked c .read ptr n (fun st _ tg m => match tg with
    | .away node part va off => (st.remote c.agent node part va off 0 m mod []).map fun _ => ()
    | .here _ => .ok ()) <|
  match s.portPlan c .read ptr n with
  | .error t => .error t
  | .ok (ps, stop, s1) =>
    match s1.partsStop c .read ptr 0 mod ps stop with
    | .error t => .error t
    | .ok () => s1.readParts c piece mod ps

/-- What stops a write before any byte is written: of several parts those on other devices are asked first whether they take it (request kind 8, R179). -/
def State.writeStop (s : State) (c : Ctx) (ptr : DWord) (ps : List AccPart) (stop : Option Trap) : Except Trap Unit :=
  s.partsStop c .write ptr 8 0 (if ps.length ≤ 1 && stop.isNone then ps.filter (fun p => match p.1 with | .here _ => true | .away _ _ _ _ => false) else ps) stop

/-- A plain write of global memory by an agent; one that fails writes nothing (R179, R198, R200). -/
def State.writeMem (s : State) (c : Ctx) (ptr : DWord) (bytes : List Byte) (piece : Nat) : Except Trap State :=
  s.checked c .write ptr bytes.length (fun st _ tg m => match tg with
    | .away node part va off => (st.remote c.agent node part va off 8 m 0 []).map fun _ => ()
    | .here _ => .ok ()) <|
  match s.portPlan c .write ptr bytes.length with
  | .error t => .error t
  | .ok (ps, stop, s1) =>
    match s1.writeStop c ptr ps stop with
    | .error t => .error t
    | .ok () =>
      match s1.sendParts c bytes ps with
      | .error t => .error t
      | .ok () => .ok (s1.storeParts c bytes piece ps)

/-- A status word from its fields (R215). -/
def statusWord (failed : Bool) (reason detail : Nat) : Word := BitVec.ofNat 32 (detail % 2 ^ 24 + reason % 2 ^ 7 * 2 ^ 24 + (if failed then 2 ^ 31 else 0))

/-- A status with the FAILED bit that R215 gives its reason. -/
def engStatus (reason detail : Nat) : Word := statusWord (!(reason == 0 || reason == 0x40 || reason == 0x46)) reason detail

/-- The status EXPIRED (R216). -/
def expired : Word := engStatus 0x48 0

/-- The cause field of a fault's detail that goes into a status (R215). -/
def causeOf (code : Nat) (detail : DWord) : Nat :=
  let d := detail.toNat
  match code with
  | 0x0A => bitsOf d 51 48
  | 0x0E => bitsOf d 41 38
  | 0x0C => bitsOf d 44 42
  | 0x0D | 0x11 | 0x16 | 0x12 | 0x02 => bitsOf d 3 0
  | _ => 0

/-- The status of an operation that met a fault (R215). -/
def faultStatus (code : Nat) (detail : DWord) : Word := engStatus code (causeOf code detail)

/-- REASON of a status. -/
def reasonOf (st : Word) : Nat := bitsOf st.toNat 30 24

/-- FAILED of a status. -/
def failedOf (st : Word) : Bool := bitOf st.toNat 31

/-- A future handle (R214). -/
def handleWord (kind core serial : Nat) : Word := BitVec.ofNat 32 (serial % 2 ^ 20 + core % 256 * 2 ^ 20 + kind % 16 * 2 ^ 28)

/-- The operation that holds a core's serial. -/
def State.findOp (s : State) (core serial : Nat) : Option Op := s.ops.find? fun o => o.core == core && o.serial == serial

/-- Update an operation. -/
def State.updOp (s : State) (core serial : Nat) (f : Op → Op) : State := { s with ops := updFirst (fun o => o.core == core && o.serial == serial) f s.ops }

/-- CORE of a handle. -/
def hCore (h : Word) : Nat := bitsOf h.toNat 27 20
/-- SERIAL of a handle. -/
def hSerial (h : Word) : Nat := bitsOf h.toNat 19 0
/-- KIND of a handle. -/
def hKind (h : Word) : Nat := bitsOf h.toNat 31 28

/-- What a handle names for a partition (R216). -/
inductive Named where
  | bad
  | expired
  | op (o : Op)
  deriving DecidableEq, Repr

/-- Resolve a handle (R216). -/
def State.resolve (s : State) (part : Nat) (h : Word) : Named :=
  if 8 ≤ hKind h ∨ 192 ≤ hCore h then .bad
  else match s.findOp (hCore h) (hSerial h) with
  | none => .expired
  | some o => if o.part = part then .op o else .bad

/-- The first serial from `n` on that no operation of the core holds (R216). -/
def freeSerial (ops : List Op) (core : Nat) : Nat → Nat → Nat
  | 0, n => n % 2 ^ 20
  | fuel + 1, n => if ops.any fun o => o.core == core && o.serial == n % 2 ^ 20 then freeSerial ops core fuel (n + 1) else n % 2 ^ 20

/-- The operation is held pending in a register (R216). -/
def State.heldPending (s : State) (o : Op) : Bool :=
  s.threads.any fun t => (s.co t.coh).place != .gone && (List.range t.g.length).any fun n =>
    t.isPend n && hCore (t.gv n) == o.core && hSerial (t.gv n) == o.serial

/-- A new operation of the thread that executes: its handle, and the state that holds it (R212, R214). -/
def State.fork (s : State) (kind : Nat) (holdsEntry : Bool) (phase : Phase) (start : DWord) (body : OpBody) : Word × State :=
  let co := s.cco
  let s0 := s.forceReds (.thread s.me) none
  let n := freeSerial s.ops co.core (s.ops.length + 1) (nth 0 s.serials co.core)
  let o : Op := { core := co.core, serial := n, kind := kind, part := co.part, coh := s.cci, uid := co.uid, seq := co.seq, tid := s.cth.tid,
                  phase := phase, start := start, holdsEntry := holdsEntry, status := 0, order := s.count, seen := s0.passedBy (.thread s.me), scope := scCore,
                  flags := 0, takers := [], born := s0.prov.next, work := .fresh, body := body }
  (handleWord kind co.core n,
    { s0.setMarks (.op co.core n) [] [] with ops := s0.ops ++ [o], serials := s0.serials.set co.core ((n + 1) % 2 ^ 20), count := s0.count + 1 })

/-- The context of an operation's accesses (R181). -/
def Op.ctx (o : Op) : Ctx := { agent := .op o.core o.serial, part := o.part, core := some o.core, quad := quadOf o.core, seq := some o.seq }

/-- The core that holds a byte of a scratchpad or of tile space, by its key (R204). -/
def State.coreOfKey (s : State) (key : Nat) : Option Nat := (s.cohorts.find? fun c => c.uid == (key / 2 ^ 64 - 2) / 2).map (·.core)

/-- The narrowest scope that contains two cores (R204). -/
def coreScope (a b : Nat) : Nat := if a = b then scCore else if quadOf a = quadOf b then scQuad else if dieOf a = dieOf b then scDie else scPkg

/-- The narrowest scope that contains a core and the home of a write (R204, R212). -/
def State.homeScope (s : State) (core : Nat) (w : WriteRec) : Nat :=
  if isGlobal w.key then (if w.keys.all fun k => homeDie k w.side == dieOf core then scDie else scPkg)
  else ((s.coreOfKey w.key).map (coreScope core)).getD scCore

/-- Scopes of one device from narrow to wide. -/
def scopeRank (sc : Nat) : Nat := match sc with | 1 => 0 | 2 => 1 | 3 => 2 | 0 => 3 | _ => 4

/-- The wider of two scopes. -/
def widerScope (a b : Nat) : Nat := if scopeRank a < scopeRank b then b else a

/-- A request has written a location at its home, or may have. -/
def RemoteReq.writes (r : RemoteReq) : Bool :=
  (r.kind == 1 || r.kind == 2 || r.kind == 3 || (r.kind == 7 && !r.data.isEmpty)) && (r.answer.map fun a => a.1 == 0).getD true

/-- The narrowest scope that contains the issuing core and the homes of what the operation wrote (R212); its `scope` so far covers the rings it placed messages in. -/
def State.joinScope (s : State) (o : Op) : Nat :=
  let ws := s.prov.writes.filter fun w => w.agent == Agent.op o.core o.serial && decide (o.born ≤ w.wid)
  let away := s.fabric.reqs.any fun r => r.agent == Agent.op o.core o.serial && r.writes
  if (match o.body with | .launch _ _ _ => true | _ => false) then scPkg
  else if away then scPod
  else ws.foldl (fun sc w => widerScope sc (s.homeScope o.core w)) o.scope

/-- The failure record of an operation goes to the first of its three places (R220). -/
def State.recordFailure (s : State) (o : Op) (st : Word) (detail : DWord) : State :=
  let handle := handleWord o.kind o.core o.serial
  let f := s.firstFault (s.co o.coh) 0xFFFF 0 2 (handle.toNat + st.toNat * 2 ^ 32) detail
  if (s.co o.coh).uid = o.uid ∧ (s.co o.coh).place ≠ .gone then s.setCo o.coh ((s.co o.coh).fault f)
  else match s.launch o.part o.seq with
  | some l =>
    if l.state < 2 then s.faultLaunch o.part o.seq 1 (some f)
    else s.fqEnter o.part 1 (reasonOf st) o.seq (s.co o.coh).lin handle.toNat st.toNat detail
  | none => s.fqEnter o.part 1 (reasonOf st) o.seq (s.co o.coh).lin handle.toNat st.toNat detail

/-- A blocked thread waits for the operation, or for room that its end makes (R218, R222). -/
def waitsFor (s : State) (o : Op) (t : Thread) : Bool :=
  match t.run with
  | .blocked (.future c n) => c == o.core && n == o.serial
  | .blocked (.futures hs _) => hs.any fun h => h.1 == o.core && h.2 == o.serial
  | .blocked .engine => o.holdsEntry && (s.co t.coh).core == o.core
  | .blocked .messages => (o.kind == 4 || o.kind == 3) && (s.co t.coh).core == o.core
  | .blocked .atLaunch => o.kind == 5 && (s.co t.coh).core == o.core
  | .blocked .pxch => o.kind == 6
  | _ => false

/-- Statuses that are no longer retained: beyond the newest 4,096 of the core and held pending nowhere (R216). DESIGN CHOICE (log 100): one that was held pending goes at the
core's next completion after the last register that held it. -/
def State.forget (s : State) (core : Nat) : State :=
  let done := s.ops.filter fun o => o.core == core && o.phase == .done
  if done.length ≤ 4096 then s
  else
    let gone := ((sorted done fun a b => decide (b.order ≤ a.order)).drop 4096).filter fun o => !s.heldPending o
    let s1 := gone.foldl (fun st o => st.setCo o.coh { st.co o.coh with opsKnown := union (st.co o.coh).opsKnown (st.knownBy (.op o.core o.serial)) }) s
    { s1 with ops := s1.ops.filter fun o => !(gone.any fun g => g.core == o.core && g.serial == o.serial) }

/-- The answer of an encode's request that took its entry at a home on another device (R146). -/
def RemoteReq.granted (r : RemoteReq) : Bool := r.kind == 6 && (r.answer.map fun a => a.1 == 0 && a.2.2.2.headD 0 != 1#8).getD false

/-- A request's entry is to be freed at its home, should an encode of this device hold it there (R146). -/
def State.owesHold (s : State) (r : RemoteReq) : State := match r.agent with
  | .op core serial => { s with fabric := { s.fabric with letGo := s.fabric.letGo ++ [⟨core, serial, r.node, r.part, r.va, r.off⟩] } }
  | _ => s

/-- An operation that ends owes its homes the entries that it took there, but for the one that it has freed by writing it (R146). -/
def State.endHold (s : State) (core serial : Nat) : State :=
  let mine (r : RemoteReq) : Bool := r.agent == Agent.op core serial
  let wrote (r : RemoteReq) : Bool := s.fabric.reqs.any fun x =>
    mine x && x.kind == 7 && x.node == r.node && x.part == r.part && x.va == r.va && (x.answer.map fun a => a.1 == 0).getD false
  (s.fabric.reqs.filter fun r => mine r && r.granted && !wrote r).foldl State.owesHold s

/-- An operation completes with a status (R215): its failure is recorded unless `quiet`, its entry is freed, those who wait for it replay. -/
def State.complete (s : State) (core serial : Nat) (st : Word) (detail : DWord) (quiet : Bool := false) : State :=
  match s.findOp core serial with
  | none => s
  | some o =>
    if o.phase = .done then s
    else
      let rec_ : Bool := failedOf st && decide (reasonOf st ≤ 0x18) && !quiet
      let s0 := if rec_ then s.recordFailure o st detail else s
      let scope := s0.joinScope o
      let s1 := ((s0.endHold core serial).dropAnswers (.op core serial)).updOp core serial fun x =>
        { x with phase := .done, status := st, order := s0.count, scope := scope, holdsEntry := false,
                 flags := if failedOf st then 0 else x.flags }
      let s2 := { s1 with count := s1.count + 1 }
      (s2.wake fun _ t => waitsFor s2 o t).forget core

/-- A thread observes an operation's completion: the join edge, and the flags of its own copy of the future (R172, R212). -/
def State.observe (s : State) (t : Nat) (o : Op) (own : Bool) : State :=
  let s1 := if s.reaches o.part o.scope (.thread t) (.core o.core) then s.see (.thread t) (s.passedBy (.op o.core o.serial)) else s
  if own && o.takers.contains t then s1.setTh t { s1.th t with fstat := (s1.th t).fstat ||| o.flags } else s1

/-- The operation that a thread's pending register holds. -/
def State.pendingOp (s : State) (t : Thread) (n : Nat) : Option Op := s.findOp (hCore (t.gv n)) (hSerial (t.gv n))

/-- A pending register whose operation has completed takes its status (R74, R216). -/
def State.settle (s : State) (t n : Nat) : State :=
  if !(s.th t).isPend n then s
  else match s.pendingOp (s.th t) n with
  | none => s.setTh t ((s.th t).setG n expired)
  | some o =>
    if o.phase = .done then
      let s1 := s.observe t o true
      s1.setTh t ((s1.th t).setG n o.status)
    else s

/-- The operation a register still waits for (R74). -/
def State.unsettled (s : State) (t n : Nat) : Option Op :=
  if !(s.th t).isPend n then none
  else match s.pendingOp (s.th t) n with
  | some o => if o.phase = .done then none else some o
  | none => none

end Sys2Proof.Machine
end

