-- ==== Sys2Proof/Machine/Copy.lean ====
section
/-! DEFINITION. The copy engine: boxes of bytes between global memory, scratchpad and tile space (R222-R224, R313). -/

namespace Sys2Proof.Machine

/-- Displacements of a box's bytes on both sides, source first, in the order of R313. -/
def boxBytes (xb ny nz : Nat) (srs drs sps dps : Int) : List (Int × Int) :=
  (List.range nz).flatMap fun (z : Nat) => (List.range ny).flatMap fun (y : Nat) => (List.range xb).map fun (x : Nat) =>
    ((z : Int) * sps + (y : Int) * srs + x, (z : Int) * dps + (y : Int) * drs + x)

/-- Lowest and highest displacement of one side of a box (R313). -/
def boxRange (xb ny nz : Nat) (rs ps : Int) : Int × Int :=
  let ry := (ny - 1 : Nat) * rs; let rz := (nz - 1 : Nat) * ps
  (min 0 ry + min 0 rz, max 0 ry + max 0 rz + ((xb - 1 : Nat) : Int))

/-- The lowest address of a local side that lies outside an allocation; none when all lie within (R180, R313). -/
def boxOutside (xb ny nz : Nat) (rs ps : Int) (off : Nat) (size : Nat) : Option Int :=
  let (l, h) := boxRange xb ny nz rs ps
  if 0 ≤ (off : Int) + l ∧ (off : Int) + h < size then none
  else (((List.range nz).flatMap fun (z : Nat) => (List.range ny).flatMap fun (y : Nat) => (List.range xb).map fun (x : Nat) =>
    (off : Int) + (z : Int) * ps + (y : Int) * rs + x).filter fun a => a < 0 || (size : Int) ≤ a).foldl (fun (m : Option Int) a => match m with
      | some b => some (min a b)
      | none => some a) none

/-- A list in ascending order of a key, equal keys in their order. -/
def sortBy {α : Type} (f : α → Nat) (xs : List α) : List α := sorted xs fun a b => decide (f a ≤ f b)

/-- One byte of one side of a copy: where it lies, or the trap that stops it. -/
inductive Spot where
  | loc (l : Loc)
  | away (node part va off : Nat)
  | bad (code : Nat) (detail : DWord)
  | wait (w : Wait) (r : Req)
  deriving DecidableEq, Repr

/-- Place one global byte. -/
def State.spot (s : State) (c : Ctx) (acc : Acc) (ptr : DWord) : Spot × State :=
  match s.port c acc ptr 1 with
  | .error (.fault k d) => (.bad k d, s)
  | .error (.wait w r) => (.wait w r, s)
  | .ok (.away n p va off, s1) => (.away n p va off, s1)
  | .ok (.here ls, s1) =>
    match s1.guardLocs c acc ptr ls with
    | .error (.fault k d) => (.bad k d, s1)
    | .error (.wait w r) => (.wait w r, s1)
    | .ok () => match ls with | l :: _ => (.loc l, s1) | [] => (.bad 0x07 0, s1)

/-- Place the bytes of one side in the order given; from the first that must wait on, all wait. -/
def State.spots (s : State) (f : State → Int → Spot × State) : List Int → List Spot × State
  | [] => ([], s)
  | d :: ds =>
    match f s d with
    | (.wait w r, s1) => (.wait w r :: ds.map fun _ => .wait w r, s1)
    | (p, s1) => let (ps, s2) := s1.spots f ds; (p :: ps, s2)

/-- The first of each address in an ordered list, and the rest. -/
def firsts {α : Type} : List (Nat × α) → List (Nat × α) × List (Nat × α)
  | [] => ([], [])
  | x :: xs =>
    match firsts xs with
    | ([], rest) => ([x], rest)
    | (y :: ys, rest) => if y.1 = x.1 then (x :: ys, y :: rest) else (x :: y :: ys, rest)

/-- An ordered list as lists without equal addresses. -/
def layers {α : Type} : Nat → List (Nat × α) → List (List (Nat × α))
  | 0, _ => []
  | fuel + 1, xs => if xs.isEmpty then [] else (firsts xs).1 :: layers fuel (firsts xs).2

/-- Group the addresses of an ordered list that share an aligned 4-byte piece. -/
def runs4 {α : Type} : List (Nat × α) → List (List (Nat × α))
  | [] => []
  | x :: xs =>
    match runs4 xs with
    | (y :: ys) :: gs => if y.1 / 4 = x.1 / 4 then (x :: y :: ys) :: gs else [x] :: (y :: ys) :: gs
    | gs => [x] :: gs.filter fun g => !g.isEmpty

/-- Bytes in whatever order, as the naturally aligned 4-byte pieces in which the engine moves them (R198, R313). -/
def pieces4 {α : Type} (xs : List (Nat × α)) : List (List (Nat × α)) := (layers xs.length (sortBy (·.1) xs)).flatMap runs4

/-- Read placed bytes of this device in 4-byte pieces: each byte beside its number. -/
def State.readKeys (s : State) (a : Agent) (xs : List (Nat × Nat)) : List (Nat × Byte) × State :=
  (pieces4 xs).foldl (fun (r : List (Nat × Byte) × State) p =>
    let (bs, _, s1) := r.2.loadPiece a (p.map (·.1)) true
    (r.1 ++ (p.map (·.2)).zip bs, s1)) ([], s)

/-- The byte that the answer of a read request of an agent holds. -/
def State.answerByte (s : State) (a : Agent) (node part va : Nat) : Option Byte :=
  (s.fabric.reqs.find? fun r => r.agent == a && r.kind == 0 && r.node == node && r.part == part && decide (r.va ≤ va) && decide (va < r.va + r.len)).bind fun r =>
    match r.answer with
    | some (0, _, _, bytes) => bytes[va - r.va]?
    | _ => none

/-- The bytes of placed spots: this device's bytes are read, remote bytes come from their answers. -/
def State.readSpots (s : State) (a : Agent) (part : Nat) (ps : List Spot) : List (Option Byte) × State :=
  let num := (List.range ps.length).zip ps
  let ls := num.filterMap fun x => match x.2 with | .loc l => some (x.1, l) | _ => none
  let (bs, s1) := s.readKeys a (ls.map fun x => (x.2.key, x.1))
  let got := s.unmask part (ls.map (·.2)) ((sortBy (·.1) bs).map (·.2))
  let rec merge : List Spot → List Byte → List (Option Byte)
    | [], _ => []
    | .loc _ :: ps, b :: bs => some b :: merge ps bs
    | .away n p va _ :: ps, bs => s.answerByte a n p va :: merge ps bs
    | _ :: ps, bs => none :: merge ps bs
  (merge ps got, s1)

/-- Bytes of a side in ascending order, those of other devices in aligned 4-byte pieces; a byte met again is passed over. -/
def awayPieces : List (Spot × Option Byte) → List (List (Spot × Option Byte))
  | [] => []
  | x :: xs =>
    let gs := awayPieces xs
    match x.1, gs with
    | .away n p va _, ((.away n' p' va' o', b) :: ys) :: rest =>
      if n = n' ∧ p = p' ∧ va' = va then gs
      else if n = n' ∧ p = p' ∧ va' / 4 = va / 4 then (x :: (.away n' p' va' o', b) :: ys) :: rest
      else [x] :: gs
    | _, _ => [x] :: gs

/-- The address of a byte on another device. -/
def Spot.va : Spot → Nat
  | .away _ _ va _ => va
  | _ => 0

/-- A piece on another device as a request: its length, which of its bytes it names when not all, and its bytes (R198, R313). -/
def awayRequest (g : List (Spot × Option Byte)) : Nat × BitVec 18 × List Byte :=
  let va := (g.head?.map (·.1.va)).getD 0
  let n := (g.getLast?.map (·.1.va)).getD va + 1 - va
  let named (i : Nat) : Option (Spot × Option Byte) := g.find? fun x => x.1.va == va + i
  (n, if g.length = n then 0 else BitVec.ofNat 18 (((List.range n).filter fun i => (named i).isSome).foldl (fun m i => m + 2 ^ i) 0),
    (List.range n).map fun i => ((named i).bind (·.2)).getD 0)

/-- The first byte of a side, in ascending order, that fails or must wait; a piece on another device must have been answered before a later byte is looked at (R179). -/
def State.sideStop (s : State) (a : Agent) (kind : Nat) : List (List (Spot × Option Byte)) → Except Trap Unit
  | [] => .ok ()
  | [] :: gs => s.sideStop a kind gs
  | (x :: xs) :: gs =>
    match x.1 with
    | .loc _ => s.sideStop a kind gs
    | .bad k d => .error (.fault k d)
    | .wait w r => .error (.wait w r)
    | .away n p va off =>
      let (len, mod, data) := awayRequest (x :: xs)
      match s.remote a n p va off kind len mod (if kind = 1 then data else []) with
      | .error t => .error t
      | .ok _ => s.sideStop a kind gs

/-- Two neighbours of an ordered list are equal. -/
def repeats : List Nat → Bool
  | x :: y :: ys => x == y || repeats (y :: ys)
  | _ => false

/-- Two ordered lists share an element; the number bounds the walk. -/
def meets : Nat → List Nat → List Nat → Bool
  | n + 1, x :: xs, y :: ys => if x = y then true else if x < y then meets n xs (y :: ys) else meets n (x :: xs) ys
  | _, _, _ => false

/-- A byte to write: its value before the copy, its place, and the key it was read from where that lies on this device. -/
abbrev Cell := Byte × Loc × Option Nat

/-- The value of a byte whose source the copy itself has written since: the one from before or the written one, as a free choice has it (R223). -/
def Cell.now (written : List (Nat × Byte)) (fresh : Bool) (x : Cell) : Byte :=
  match x.2.2 with
  | some k => if fresh then ((written.find? fun w => w.1 == k).map (·.2)).getD x.1 else x.1
  | none => x.1

/-- Replace the visible set of an engine operation. -/
def State.setSeen (s : State) (a : Agent) (ws : List Nat) : State := match a with
  | .op c n => { s with ops := updFirst (fun o => o.core == c && o.serial == n) (fun o => { o with seen := ws }) s.ops }
  | _ => s

/-- Write pieces of placed bytes, given by destination address, in an order that a free choice rotates when bytes are written more than once or when
source and destination overlap: each piece whole or, when `partly`, only if every byte of it is there and the free choice says so (R219, R223, R313).
Writes of one operation to one byte stay unordered (R212). -/
def State.writePieces (s : State) (a : Agent) (part : Nat) (partly : Bool) (xs : List (Nat × Option Cell)) : State :=
  let gs := pieces4 xs
  let all := xs.filterMap (·.2)
  let mixed := meets (2 * all.length) (sortBy id (all.filterMap (·.2.2))) (sortBy id (all.map (·.2.1.key)))
  let again := mixed || repeats (sortBy id (xs.map (·.1)))
  let t := ((if again then gs.rotateLeft (Config.pick s.prov.picks) else gs).foldl (fun (r : State × List (Nat × Byte)) g =>
    let cs := g.filterMap (·.2)
    let skip : Bool := partly && (cs.length != g.length || Config.pick r.1.prov.picks % 2 == 1)
    let st0 := if partly then r.1.usePick else r.1
    if skip then (st0, r.2)
    else
      let bs := if mixed then cs.map (Cell.now r.2 (Config.pick st0.prov.picks % 2 == 1)) else cs.map (·.1)
      let keys := cs.map (·.2.1.key)
      let ls := cs.map (·.2.1)
      let ste := st0.encWrite part ls
      let st1 := ste.storePiece a part (vaOf ls) (sideOf ls) keys (ste.unmask part ls bs) false [] []
      let st2 := if again then st1.setSeen a (s.seenBy a) else st1
      if mixed then (st2.usePick, keys.zip bs ++ r.2) else (st2, r.2)) (if again then s.usePick else s, [])).1
  if again then t.see a (writesFrom s.prov.next t.prov.next) else t

/-- Local bytes of a side. -/
def localSpot (key : Nat) : Loc := { key := key, va := 0, mside := false, enc := false }

/-- Place a byte of a side in space 0 global, 1 scratchpad, 2 tile space of cohort identity `uid`. -/
def State.sideSpot (s : State) (c : Ctx) (acc : Acc) (space uid : Nat) (addr : DWord) (d : Int) : Spot × State :=
  match space with
  | 0 => s.spot c acc (ea addr d)
  | 1 => (.loc (localSpot (scrKey uid (addr.toNat + d).toNat)), s)
  | _ => (.loc (localSpot (tileKey uid (addr.toNat + d).toNat)), s)

/-- The address by which the bytes of a side are put in ascending order (R313). -/
def sideAddr (space : Nat) (addr : DWord) (d : Int) : Nat := if space = 0 then (ea addr d).toNat else (addr.toNat + d).toNat

/-- The span member that resides on a core (R224). -/
def State.spanMember (s : State) (c : Cohort) (core : Nat) : Option Cohort :=
  if c.spanSize = 0 then none
  else s.cohorts.find? fun x => x.part == c.part && x.seq == c.seq && x.place == .resident && x.core == core && x.spanSize == c.spanSize
        && x.lin / x.spanSize == c.lin / c.spanSize

/-- The target of a multicast on a core. -/
def State.castTarget (s : State) (c : Cohort) (core : Nat) : Option Cohort := if core = c.core then some c else s.spanMember c core

/-- A byte offset of a local side as 32 bits: a negative one is reported modulo 2³² (log 21). -/
def off32 (x : Int) : Nat := (x % (2 ^ 32 : Int)).toNat

/-- The checks of R224 over the named cores in ascending order. DESIGN CHOICE (log 91): a core without a span member is reported by its place in the quad, with the
destination's base as the offset. -/
def State.castCheck (s : State) (c : Cohort) (mask off : Nat) (xb ny nz : Nat) (drs dps : Int) : Except (Nat × DWord) (List Nat) :=
  let cores := (List.range 4).filterMap fun i => if bitOf mask i then some (quadOf c.core * 4 + i) else none
  match cores.find? fun k => (s.castTarget c k).isNone && !bitOf (s.pa c.part).coreset k with
  | some k => .error (0x0B, BitVec.ofNat 64 k)
  | none =>
    match cores.find? fun k => (s.castTarget c k).isNone with
    | some k => .error (0x09, scrDetail (k % 4) off)
    | none =>
      let ts := cores.filterMap (s.castTarget c)
      match ts.find? fun t => (boxOutside xb ny nz drs dps off t.scrBytes).isSome with
      | some t => .error (0x07, scrDetail t.spanPos (off32 ((boxOutside xb ny nz drs dps off t.scrBytes).getD 0)))
      | none => .ok (ts.map (·.uid))

/-- The outcome of running an engine operation: not finished yet, or finished with a status and a detail. -/
inductive Ran where
  | wait (w : Wait) (r : Req) (s : State)
  | done (st : Word) (detail : DWord) (s : State)

/-- The copy of R313. `partly`: the operation is cancelled or has failed, so each destination piece may keep its old value. -/
def State.runCopy (s : State) (o : Op) (multi : Bool) (dsp ssp mask : Nat) (dst src : DWord) (xb ny nz : Nat) (srs drs sps dps : Int) (partly : Bool) : Ran :=
  let a : Agent := .op o.core o.serial
  let pts := boxBytes xb ny nz srs drs sps dps
  let targets : Except (Nat × DWord) (List Nat) :=
    if multi then s.castCheck (s.co o.coh) mask dst.toNat xb ny nz drs dps else .ok [o.uid]
  match targets with
  | .error (k, d) => .done (faultStatus k d) d s
  | .ok uids =>
    let num (d : Nat × Int × Int) : Nat := d.1
    let byAddr := sortBy (fun (p : Nat × Int × Int) => sideAddr ssp src p.2.1) ((List.range pts.length).zip pts)
    let (found, s1) := s.spots (fun st d => st.sideSpot o.ctx .read ssp o.uid src d) (byAddr.map (·.2.1))
    let srcStop := s1.sideStop a 0 (awayPieces (found.map fun p => (p, none)))
    match srcStop with
    | .error (.wait w r) => if partly then .done (engStatus 0x47 0) 0 s1 else .wait w r s1
    | _ =>
      let ss := (sortBy (fun (x : (Nat × Int × Int) × Spot) => num x.1) (byAddr.zip found)).map (·.2)
      let (bs, s2) := s1.readSpots a o.part ss
      let from_ (p : Spot) : Option Nat := match p with | .loc l => some l.key | _ => none
      let cells := (List.range pts.length).zip ((pts.map (·.2)).zip (bs.zip (ss.map from_)))
      let dests := sortBy (fun (x : Nat × Int × Option Byte × Option Nat) => sideAddr dsp dst x.2.1) cells
      let side (r : List (List ((Nat × Int × Option Byte × Option Nat) × Spot)) × State) (uid : Nat) :=
        let (ps, st) := r.2.spots (fun st d => st.sideSpot o.ctx .write dsp uid dst d) (dests.map (·.2.1))
        (r.1 ++ [dests.zip ps], st)
      let (sides, s3) := uids.foldl side ([], s2)
      let stop : Except Trap Unit := match srcStop with
        | .error t => .error t
        | .ok () =>
          let first (ps : List ((Nat × Int × Option Byte × Option Nat) × Spot)) : Except Trap Unit :=
            s3.sideStop a 1 (awayPieces (ps.map fun x => (x.2, x.1.2.2.1)))
          if partly then .ok () else sides.foldl (fun (r : Except Trap Unit) ps => match r with | .error t => .error t | .ok () => first ps) (.ok ())
      match stop with
      | .error (.wait w r) => .wait w r s3
      | _ =>
        let failed : Bool := match stop with | .error _ => true | .ok () => false
        let s4 := sides.foldl (fun st ps =>
          st.writePieces a o.part (partly || failed) ((sortBy (fun (x : (Nat × Int × Option Byte × Option Nat) × Spot) => x.1.1) ps).filterMap fun x => match x.2 with
            | .away _ _ _ _ => none
            | .loc l => some (sideAddr dsp dst x.1.2.1, x.1.2.2.1.map fun b => (b, l, x.1.2.2.2))
            | _ => some (sideAddr dsp dst x.1.2.1, none))) s3
        match stop with
        | .error (.fault k d) => .done (faultStatus k d) d s4
        | _ => .done (if partly then engStatus 0x47 0 else engStatus 0 0) 0 s4

end Sys2Proof.Machine
end

