-- ==== Sys2Proof/Machine/Cancel.lean ====
section
/-! DEFINITION. Cancellation of copy and tile operations (R219, R252, R257). -/

namespace Sys2Proof.Machine

/-- Cancel a copy or a tile operation that has not finished; an encode that holds its entry goes on, and a decode that has begun to write its tile on other devices writes
it whole before it ends CANCELLED (R219). -/
def State.cancelEngine (s : State) (o : Op) : State :=
  if o.phase = .done then s
  else match o.body with
  | .copy multi dsp ssp mask dst src xb ny nz srs drs sps dps =>
    if o.phase = .held then s.complete o.core o.serial (engStatus 0x47 0) 0
    else match s.runCopy o multi dsp ssp mask dst src xb ny nz srs drs sps dps true with
      | .wait _ _ s1 => s1.complete o.core o.serial (engStatus 0x47 0) 0
      | .done _ _ s1 => s1.complete o.core o.serial (engStatus 0x47 0) 0
  | .tileDec _ _ _ _ _ =>
    if s.fabric.reqs.any fun r => r.agent == Agent.op o.core o.serial && r.kind == 1 then s.updOp o.core o.serial fun x => { x with phase := .committed }
    else s.complete o.core o.serial (engStatus 0x47 0) 0
  | .tileLd _ _ _ _ _ | .tileChk _ _ _ _ => s.complete o.core o.serial (engStatus 0x47 0) 0
  | .tileSt _ _ _ _ _ _ _ | .tileAp _ _ _ _ _ _ _ => if o.phase = .running then s.complete o.core o.serial (engStatus 0x47 0) 0 else s
  | _ => s

end Sys2Proof.Machine
end

