-- ==== Sys2Proof/Machine/Ops.lean ====
section
/-! DEFINITION. The frame of every instruction: guard, register bounds, pending sources, taking an exception, and going on (R55, R73-R77, R85, R255-R257). -/

namespace Sys2Proof.Machine

/-- How an instruction leaves its thread: at the fall-through, at another offset, blocked at itself or at the fall-through, or placed by the instruction. -/
inductive Flow where
  | fall
  | jump (off : Nat)
  | hold (w : Wait)
  | sleep (w : Wait)
  | placed
  deriving DecidableEq, Repr

/-- The fall-through PC: the offset changes, the buffer index stays (R76, R77). -/
def fallPc (pc : DWord) (len : Nat) : DWord := mkPtr (ptrBuf pc) (ptrOff pc + 4 * (1 + len))

/-- The PC at an offset of the code's buffer (R77). -/
def pcAt (pc : DWord) (off : Nat) : DWord := mkPtr (ptrBuf pc) off

/-- The entry of the fault handler (R256). -/
def Cohort.handlerPc (c : Cohort) : DWord := mkPtr (ptrBuf c.kentry) (ptrOff c.kentry + c.handler.toNat)

/-- Block a thread where it stands. -/
def State.block (s : State) (t : Nat) (w : Wait) : State :=
  { s.setTh t { s.th t with run := .blocked w, listed := .no, since := s.count } with count := s.count + 1 }

/-- Take the threads of a cohort out of issue: Registrar, ready queue and issue group (R30). -/
def State.unlist (s : State) (c : Nat) : State :=
  let mine (t : Nat) : Bool := (s.th t).coh == c
  { s with registrar := s.registrar.filter (fun e => e.coh != c), readyq := s.readyq.filter (fun t => !mine t),
           group := match s.group with | some g => if g.coh = c then none else some g | none => none }

/-- The threads of a cohort leave the line of LAUNCH.wait (R52). -/
def State.unqueue (s : State) (c : Nat) : State := { s with waiters := s.waiters.filter fun t => (s.th t).coh != c }

/-- The writes that the threads and operations of a cohort know: all operations that it has issued, those from before a flush and those whose statuses are no longer
retained too (R46, R252). -/
def State.cohortKnown (s : State) (c : Nat) : List Nat :=
  let same (x : Cohort) : Bool := x.part == (s.co c).part && x.seq == (s.co c).seq && x.lin == (s.co c).lin
  let l := (s.thsOf c).foldl (fun l t => union l (s.knownBy (.thread t))) []
  let l1 := (s.ops.filter fun o => same (s.co o.coh)).foldl (fun l o => union l (s.knownBy (.op o.core o.serial))) l
  (s.cohorts.filter same).foldl (fun l x => union l (s.prov.expand x.opsKnown)) l1

/-- The release at .pkg scope that ends a cohort's stay on its core: it covers the cohort's writes and empties the core's pins (R46, R210, R253, R257). -/
def State.releaseCohort (s : State) (c : Nat) : State :=
  let s0 := (s.thsOf c).foldl (fun st t => st.forceReds (.thread t) none) s
  let co := s0.co c
  let known := s0.cohortKnown c
  let s1 := (s0.widen (.core co.core) known).see (.hub co.part) known
  let s2 := s1.updLaunch co.part co.seq fun l => { l with wrote := union l.wrote known }
  if co.place = .resident then { s2 with pins := s2.pins.filter fun p => p.1 != co.core } else s2

/-- Free a cohort's rings (R228). -/
def State.freeRings (s : State) (c : Nat) : State := { s with rings := s.rings.filter fun r => r.coh != c }

/-- Cancel the copy and tile operations of a cohort (R252, R257). -/
def State.cancelCohort (s : State) (c : Nat) : State :=
  (s.ops.filter fun o => o.uid == (s.co c).uid && (o.kind == 0 || o.kind == 2)).foldl State.cancelEngine s

/-- A launch of the partition other than those done has the tag (R27). -/
def Launch.open_ (l : Launch) : Bool := decide (l.state < 2)

/-- The prerequisites of a launch are done (R27). -/
def State.freed (s : State) (l : Launch) : Bool := l.preqs.all fun q => match s.launch l.part q with | some x => !x.open_ | none => true

/-- The instance of a BAR.pod of a partition's tagged launches (R271). -/
def BarKey.tagged (part tag : Nat) : BarKey → Bool
  | .pod p t _ _ => p == part && t == tag && t != 0
  | _ => false

/-- A launch has ended with all participants on this device exited: its tag counts as arrived at the pod's barriers from now on (R43, R271). -/
def State.leaveTag (s : State) (part : Nat) (l : Launch) (v : Nat) : State :=
  let out : Bool := (List.range s.threads.length).all fun t =>
    let c := s.co (s.th t).coh
    !(c.part == part && c.seq == l.seq && !c.replaced) || (s.th t).run == .exited
  if v = 2 && l.lr.ltag != 0 && out then { s with fabric := { s.fabric with left := (part, l.lr.ltag) :: s.fabric.left.filter (· != (part, l.lr.ltag)) } } else s

/-- The future of a child launch completes once its STATE has been written (R51). -/
def State.childDone (s : State) (part : Nat) (c n : Nat) (st : Word) : State :=
  if s.hubq.any fun j => j.part == part then { s with hubq := s.hubq ++ [.child part c n st] } else s.complete c n st 0

/-- A launch ends with a STATE (R48, R50, R51): its future completes, and launches that waited for it alone become eligible now (R246). -/
def State.endLaunch (s : State) (part seq v : Nat) : State :=
  match s.launch part seq with
  | none => s
  | some l =>
    let s1 := (s.leaveTag part l v).putState part seq v
    let woken (x : Launch) : Bool := x.part == part && x.preqs.contains seq && s1.freed x
    let s2 := { s1 with launches := s1.launches.map (fun x => if woken x then { x with since := s1.svc.time.toNat } else x),
                        bars := s1.bars.filter (fun b => !b.key.tagged part l.lr.ltag), due := true }
    match l.child with
    | none => s2
    | some (c, n) =>
      let count := min l.faults 0xFFFFFF
      let st := if l.cancelled then engStatus 0x47 0 else if v = 2 then engStatus 0 count else engStatus 0x4A count
      (s2.see (.op c n) l.wrote).childDone part c n st

/-- A launch all of whose cohorts have completed or been stopped is complete (R50). -/
def State.settleLaunch (s : State) (part seq : Nat) : State :=
  match s.launch part seq with
  | none => s
  | some l =>
    if l.open_ && !l.aborting && decide (l.lr.gx * l.lr.gy * l.lr.gz ≤ l.nextLin) && l.flushed.isEmpty
        && !(s.cohorts.any fun c => c.part == part && c.seq == seq && c.place != .gone) then s.endLaunch part seq 2
    else s

/-- A save of a partition has succeeded or its save area has gained room: KIND 5 may be entered again (R250). -/
def State.roomGained (s : State) (part : Nat) : State :=
  { s with launches := s.launches.map fun l => if l.part = part then { l with kind5 := false } else l }

/-- COHORT_STOP (R257): stop the threads, cancel copy and tile work, release, free, and add the fault record to the completion record. -/
def State.stopCohort (s : State) (c : Nat) : State :=
  if (s.co c).place = .gone then s
  else
    let s1 := ((s.unlist c).unqueue c).mapThs ((s.thsOf c).filter fun t => (s.th t).run != .exited) fun t => { t with run := .stopped, listed := .no }
    let s2 := ((s1.cancelCohort c).releaseCohort c).freeRings c
    let co := s2.co c
    let s3 := s2.setCo c { co with place := .gone, taken := .no, holds := [], leftAt := if co.place = .resident then s.svc.time.toNat else co.leftAt }
    let s4 := { s3 with matops := s3.matops.filter fun m => m.coh != c }
    let s5 := { (if co.place = .resident then s4 else s4.roomGained co.part) with due := true }
    (s5.faultLaunch co.part co.seq co.faults co.first).settleLaunch co.part co.seq

/-- A fault enters the cohort fault record; a handler, when it takes the fault, receives it (R255, R256). -/
def State.noteFault (s : State) (t : Nat) (code : Nat) (detail : DWord) : State :=
  let th := s.th t
  let c := s.co th.coh
  let s1 := s.setCo th.coh (c.fault (s.firstFault c th.tid code 1 th.pc.toNat detail))
  if c.handler = 0xFFFFFFFF ∨ th.pc = c.handlerPc then s1
  else s1.setTh t { th with fcode := BitVec.ofNat 32 code, fpc := th.pc, fdetail := detail, pc := c.handlerPc, run := .ready, listed := .no }

/-- No handler takes a fault of the thread where it stands (R256). -/
def State.unhandled (s : State) (t : Nat) : Bool :=
  (s.co (s.th t).coh).handler = 0xFFFFFFFF || (s.th t).pc == (s.co (s.th t).coh).handlerPc

/-- Taking an exception (R255-R257): each of the threads takes the fault separately; when no handler takes one of them, the cohort stops,
and a launch with ABORT set is aborted (R50). -/
def State.takeFaults (s : State) (ts : List Nat) (code : Nat) (detail : DWord) : State :=
  match ts with
  | [] => s
  | t0 :: _ =>
    let c := (s.th t0).coh
    let stop := ts.any s.unhandled
    let s1 := ts.foldl (fun st t => st.noteFault t code detail) s
    if stop then
      (s1.updLaunch (s.co c).part (s.co c).seq fun l => if bitOf l.lr.ctrl 4 then { l with aborting := true } else l).stopCohort c
    else s1

/-- Taking an exception for one thread. -/
def State.takeFault (s : State) (t : Nat) (code : Nat) (detail : DWord) : State := s.takeFaults [t] code detail

/-- A trap ends an instruction: the exception is taken, or the thread blocks at the instruction. -/
def State.trap (s : State) (t : Nat) : Trap → State
  | .fault code detail => (s.dropAnswers (.thread t)).takeFault t code detail
  | .wait w r =>
    match s.request (.thread t) w r with
    | (.ok w', s1) => s1.block t w'
    | (.error (code, detail), s1) => (s1.dropAnswers (.thread t)).takeFault t code detail

/-- The guard of a thread (R85). -/
def Thread.guard (t : Thread) (g : BitVec 4) : Bool := t.pv (g.toNat % 8) != g.getLsbD 3

/-- The g registers that an instruction names, with the field that names each (R55, R218). -/
def namedRegs (op : Nat) (o : Canon) : List (Nat × Nat) :=
  let (d, a, b, c) := canonCls op o
  let f (k : Nat) (cl : Cls) (s : BitVec 8) : List (Nat × Nat) := (clsRegs cl s.toNat).map fun r => (r, k)
  f 1 d o.d ++ (if op = 0xC3 then (List.range (o.mod.toNat % 4 + 1)).map (fun i => (o.a.toNat + i, 2)) else f 2 a o.a) ++ f 3 b o.b ++ f 4 c o.c

/-- The instruction is a release, signs for its team, pushes an entry or forks an operation: it comes after the thread's earlier REDs (R199, R205, R212, R311, R390). A RED
that is a release waits for them at its home, not in its thread. -/
def ordersReds (op : Nat) (o : Canon) : Bool :=
  [0x4A, 0x4B, 0x51, 0x56, 0x57, 0x65, 0x6D, 0x6E, 0x85, 0xB3, 0xC0, 0xC1, 0xC7, 0xCA, 0xD0, 0xD1, 0xD3, 0xD6, 0xE2, 0xE3, 0xE4].contains op
    || (decide (0x69 ≤ op) && decide (op ≤ 0x6B) && o.mod.getLsbD 7) || (decide (0x90 ≤ op) && decide (op ≤ 0x94))
    || (decide (0xA0 ≤ op) && decide (op ≤ 0xA8)) || (decide (0xB5 ≤ op) && decide (op ≤ 0xB9))

/-- What an instruction that comes after the thread's earlier REDs waits for: one that another device has not answered, or one that its home refuses now (R22, R210,
R390). -/
def State.redsWait (s : State) (t : Nat) : Option Wait :=
  match s.fabric.reds.find? fun r => r.thread == t with
  | some r => some ((r.req.map Wait.remote).getD .retry)
  | none => if (s.redsBefore (.thread t) none).any s.redWaits then some .retry else none

/-- What an instruction waits for because it comes after the thread's earlier REDs. -/
def State.redsHold (s : State) (t op : Nat) (o : Canon) : Option Wait := if ordersReds op o then s.redsWait t else none

/-- The state in which an instruction has its effect: the thread's earlier REDs have executed where it comes after them (R390). -/
def State.redsDone (s : State) (t op : Nat) (o : Canon) : State := if ordersReds op o then s.forceReds (.thread t) none else s

/-- The lowest register at or beyond GREGS and its field (R55, R258). -/
def regBound (gregs : Nat) (rs : List (Nat × Nat)) : Option (Nat × Nat) :=
  (rs.filter fun r => decide (gregs ≤ r.1)).foldl (fun best r => match best with
    | some b => if r.1 < b.1 then some r else some b
    | none => some r) none

/-- The opcode reads its d field (R62, R404-R407, R429, R361). -/
def readsD (op : Nat) (o : Canon) : Bool :=
  op == 0x62 || op == 0x63 || op == 0x65 || op == 0x68 || op == 0x83 || (op == 0x95 && o.mod.toNat % 4 == 1)

/-- The g registers an instruction reads before it executes, so that it waits for futures in them (R74, R330). -/
def sourceRegs (op : Nat) (o : Canon) : List Nat :=
  let (d, a, b, c) := canonCls op o
  let f (cl : Cls) (s : BitVec 8) : List Nat := if cl = .handle then [] else clsRegs cl s.toNat
  if op = 0xC3 then []
  else if op = 0x52 ∨ op = 0x53 ∨ op = 0x54 ∨ op = 0x55 then f a o.a
  else if guardBound op then []
  else (if readsD op o then f d o.d else []) ++ f a o.a ++ f b o.b ++ f c o.c

/-- The body of an instruction: its effect and how it goes on, or the trap that ends it. -/
abbrev Body := State → Except Trap (Flow × State)

/-- The thread goes on (R76, R77). -/
def State.goOn (s : State) (t : Nat) (len : Nat) : Flow → State
  | .fall => s.setTh t { s.th t with pc := fallPc (s.th t).pc len, run := .ready, listed := .no }
  | .jump off => s.setTh t { s.th t with pc := pcAt (s.th t).pc off, run := .ready, listed := .no }
  | .hold w => s.block t w
  | .sleep w => (s.setTh t { s.th t with pc := fallPc (s.th t).pc len }).block t w
  | .placed => s

/-- An instruction whose guard is true, for thread `t`: register bounds, earlier REDs, pending sources, effect (R55, R74, R390). -/
def State.perform (s : State) (t : Nat) (op : Nat) (o : Canon) (body : Body) : State :=
  match regBound (s.co (s.th t).coh).gregs (namedRegs op o) with
  | some (r, f) => s.trap t (.fault 0x03 (BitVec.ofNat 64 (r % 64 + f * 64)))
  | none =>
    match s.redsHold t op o with
    | some w => s.trap t (.wait w .none)
    | none =>
      let s0 := s.redsDone t op o
      match (sourceRegs op o).findSome? (s0.unsettled t) with
      | some w => s0.trap t (.wait (.future w.core w.serial) .none)
      | none =>
        let s1 := (sourceRegs op o).foldl (fun st r => st.settle t r) s0
        match body s1 with
        | .error tr => s1.trap t tr
        | .ok (fl, s2) => (s2.dropAnswers (.thread t)).goOn t o.len.toNat fl

/-- An instruction of the thread that executes: a false guard only passes on (R85). -/
def run (op : Nat) (o : Canon) (s : State) (body : Body) : Host.Outcome State Fault Refusal :=
  match s.cur with
  | none => .fault .noThread
  | some t => .next (if (s.th t).guard o.guard then s.perform t op o body else s.goOn t o.len.toNat .fall)

/-- A body that only changes the state and falls through. -/
def plain (f : State → State) : Body := fun s => .ok (.fall, f s)

end Sys2Proof.Machine
end

