-- ==== Sys2Proof/Machine/Fetch.lean ====
section
/-! DEFINITION. Instruction fetch and fill: the instruction cache, fault marks and what a launch observes of its code (R76-R79, R85, R93). -/

namespace Sys2Proof.Machine

/-- What fetch finds: a word of the cache with the state, or a wait. -/
inductive Fetched where
  | word (w : Filled) (len : Nat) (s : State)
  | wait (w : Wait) (r : Req)

/-- Bytes of a length code for fill (R76). -/
def fillBytes (len : Nat) : Nat := if len = 1 then 8 else if len = 2 then 12 else 4

/-- The writes that a launch's fetch certainly observes: those visible to the Curator at its acceptance (R79), and at the acceptance of the partition's
other launches that run, since its words may be theirs as well (R78). -/
def State.fetchKnown (s : State) (part seq : Nat) : List Nat :=
  s.prov.expand (s.launches.foldl (fun l x => if x.part == part && (x.seq == seq || decide (x.state < 2)) then union l x.known else l) [])

/-- Of a byte's writes that none of the others comes after, the one that stands: the highest number among those of highest rank. -/
def topWrite (rank : Nat → Nat) : List (Nat × Byte) → Byte → Byte
  | [], b => b
  | x :: xs, _ => (xs.foldl (fun best y => if rank best.1 < rank y.1 ∨ (rank best.1 = rank y.1 ∧ best.1 < y.1) then y else best) x).2

/-- One 4-byte unit (R79): the writes that the fetch observes for certain, and of the later ones those that a free choice takes, each for every byte of the unit that it
covers; of unordered ones a later one stands before one observed for certain, and among the others free choices say which, alike for every byte (log 5). -/
def State.fetchUnit (s : State) (known : List Nat) (keys : List Nat) : List Byte × State :=
  if s.fresh keys then (keys.map (Memory.get s.mem), s)
  else
    let hs := keys.map s.histAt
    let all := hs.foldl (fun l h => union l (h.writes.map (·.wid))) []
    let sure := hs.foldl (fun l h => union l ((h.writes.filter fun w => knows known w.wid h.key).map (·.wid))) []
    let (taken, s1) := all.foldl (fun (r : List Nat × State) w =>
      (if Config.pick r.2.prov.picks % 2 = 1 then w :: r.1 else r.1, r.2.usePick)) ([], s)
    let new := taken.filter fun w => !sure.contains w
    let rank (w : Nat) : Nat := if new.contains w then 2 else if taken.contains w then 1 else 0
    (hs.map fun h => topWrite rank (h.frontier fun w => knows known w.wid h.key || new.contains w.wid) h.init, s1)

/-- The units of placed bytes. -/
def State.fetchUnits (s : State) (c : Ctx) (known : List Nat) (ls : List Loc) : List Byte × State :=
  let (bs, s1) := (pieces 4 3 (keysOf ls)).foldl (fun (r : List Byte × State) k => let (bs, s1) := r.2.fetchUnit known k; (r.1 ++ bs, s1)) ([], s)
  (s1.unmask c.part ls bs, s1)

/-- Fetch the parts of an access. -/
def State.fetchParts (s : State) (c : Ctx) (known : List Nat) : List (Target × Nat × Nat) → Except Trap (List Byte × State)
  | [] => .ok ([], s)
  | (.here ls, _, _) :: ps =>
    let (bs, s1) := s.fetchUnits c known ls
    (s1.fetchParts c known ps).map fun r => (bs ++ r.1, r.2)
  | (.away node part va off, _, n) :: ps =>
    match s.remote c.agent node part va off 4 n 0 [] with
    | .error t => .error t
    | .ok bs => (s.fetchParts c known ps).map fun r => (bs ++ r.1, r.2)

/-- Fetch bytes through the memory port with the read right (R77, R184). -/
def State.fetchBytes (s : State) (c : Ctx) (known : List Nat) (pc : DWord) (n : Nat) : Except Trap (List Byte × State) :=
  match s.portParts c .fetch pc n with
  | .error t => .error t
  | .ok (ps, s1) =>
    match s1.partsStop c .fetch pc 4 0 ps none with
    | .error t => .error t
    | .ok () => s1.fetchParts c known ps

/-- The word that fill makes of whole fetched bytes, with the length to advance by (R93, R94). -/
def fillWord (bytes : List Byte) : Filled × Nat :=
  match Sys2Proof.decode bytes with
  | .ok (i, _) => (.ins i, Sys2Proof.Machine.lenOf i)
  | .error .truncated => (.mark 0x02 0 0 false, 0)
  | .error (.illegalOpcode opc short g) => (.mark 0x01 (BitVec.ofNat 64 (opc + if short then 256 else 0)) g false, (fillBytes (leNat (bytes.take 1) % 4)) / 4 - 1)
  | .error (.illegalEncoding r f len g) => (.mark 0x02 (BitVec.ofNat 64 (r + f * 16 + len * 256)) g false, (fillBytes (leNat (bytes.take 1) % 4)) / 4 - 1)

/-- The cached word at an address. -/
def State.cached (s : State) (core part : Nat) (pc : DWord) : Option ICWord := s.icache.find? fun w => w.core == core && w.part == part && w.pc == pc

/-- Put a word into a core's cache of 4,096 words, dropping the oldest (R2, R78). -/
def State.cacheWord (s : State) (w : ICWord) : State :=
  let mine := s.icache.filter fun x => x.core == w.core
  { s with icache := w :: (if mine.length < 4096 then s.icache else (mine.take 4095) ++ s.icache.filter fun x => x.core != w.core) }

/-- Fill the word at a PC: its first unit gives the length, then the others are fetched; bytes beyond the last offset are outside every buffer (R76, R77, R93, R179). -/
def State.fill (s : State) (c : Ctx) (core : Nat) (known : List Nat) (pc : DWord) : Fetched :=
  match s.fetchBytes c known pc 4 with
  | .error (.fault k d) => .word (.mark k d 0 true) 0 s
  | .error (.wait w r) => .wait w r
  | .ok (b4, s1) =>
    let n := fillBytes (leNat (b4.take 1) % 4)
    match (if n = 4 then .ok ([], s1) else if 2 ^ 48 ≤ ptrOff pc + 4 then .error (.fault 0x07 (bufDetail (ptrBuf pc) (2 ^ 48)))
        else s1.fetchBytes c known (ea pc 4) (n - 4)) with
    | .error (.fault k d) => .word (.mark k d 0 true) 0 s1
    | .error (.wait w r) => .wait w r
    | .ok (rest, s2) =>
      let (f, len) := fillWord (b4 ++ rest)
      .word f len (s2.cacheWord { core := core, part := c.part, pc := pc, len := len, word := f })

/-- The word that thread `t` executes next. -/
def State.fetch (s : State) (t : Nat) : Fetched :=
  let co := s.co (s.th t).coh
  let pc := (s.th t).pc
  match s.cached co.core co.part pc with
  | some w => .word w.word w.len s
  | none =>
    s.fill { agent := .thread t, part := co.part, core := some co.core, quad := quadOf co.core, seq := some co.seq } co.core
      (s.fetchKnown co.part co.seq) pc

end Sys2Proof.Machine
end

