-- ==== Sys2Proof/Machine/Idle.lean ====
section
/-! DEFINITION. The device's own work that is under way: the events that the default of the step may choose (assumption log 3). -/

namespace Sys2Proof.Machine

/-- The event that an unfinished operation waits for. -/
def Op.event (o : Op) : Option Instr :=
  let n := BitVec.ofNat 20 o.serial
  match o.phase, o.body with
  | .done, _ => none
  | .held, _ => some (.atTimeReached o.core n)
  | _, .copy _ _ _ _ _ _ _ _ _ _ _ _ _ => some (.copyComplete o.core n)
  | _, .tileLd _ _ _ _ _ | _, .tileDec _ _ _ _ _ => some (.tileDecodeComplete o.core n)
  | _, .tileSt _ _ _ _ _ _ _ | _, .tileAp _ _ _ _ _ _ _ => some (.tileEncodeComplete o.core n)
  | _, .tileChk _ _ _ _ => some (.tilechkComplete o.core n)
  | _, .chain _ => some (.chainComplete o.core n)
  | _, .lowRank _ _ _ => some (.lowRankAsyncComplete o.core n)
  | _, .message _ _ _ _ _ => some (.messagePlacement o.core n)
  | _, .route q e => some (.routeDelivery q e)
  | _, .rret _ _ _ _ => some (.rretArrival o.core n)
  | _, .launch _ _ _ => none
  | _, .pxch _ _ _ _ _ => some (.pxchTimeout o.core n)

/-- The event that a blocked thread waits for, where it is one of the device's own. -/
def Thread.event (t : Thread) (i : Nat) : Option Instr :=
  match t.run with
  | .blocked (.time _) => some (.waittExpiry i)
  | .blocked .retry => some (.requestRetry i)
  | _ => none

/-- The events that a cohort on a core waits for. -/
def Cohort.events (c : Cohort) (i : Nat) : List Instr :=
  if c.place = .resident then
    .cohortComplete i :: (match c.taken with | .no => [] | .drain _ _ _ _ => [.drainTimeout i] | .save => [.save i])
  else []

/-- The oldest waiting write of each kind: to its home, and a RED. -/
def Prov.events (p : Prov) : List Instr :=
  (match p.hist.findSome? fun h => (h.writes.find? fun w => !w.home).map (·.wid) with | some w => [.writeReachesHome w] | none => [])
    ++ (p.reds.take 1).map fun r => .redAtHome r.id

/-- What the Curator has to do for its partitions and launches. -/
def State.curatorEvents (s : State) : List Instr :=
  ((List.range s.parts.length).filter fun p => (s.pa p).present).flatMap (fun p => [.launchAcceptance p, .hostResetRequest p, .dispatchTick])
    ++ (s.launches.filter fun l => l.aborting && decide (l.state < 2)).map fun l => .launchAbort l.part (BitVec.ofNat 32 l.seq)

/-- All the device's own work. -/
def State.work (s : State) : List Instr :=
  s.ops.filterMap Op.event ++ s.matops.map (fun m => .matrixOpComplete m.core)
    ++ (List.range s.threads.length).filterMap (fun t => (s.th t).event t)
    ++ (List.range s.cohorts.length).flatMap (fun c => (s.co c).events c)
    ++ s.prov.events ++ s.migrations.map (fun m => .migrationComplete m.id true)
    ++ s.reasm.map (fun e => .routeTimeout e.quad e.num)
    ++ s.fabric.reqs.flatMap (fun r => [.remoteResend r.id, .remoteRequestTimeout r.id])
    ++ s.curatorEvents

/-- The event of the device that the default of the step chooses: in turn by cycle, and in each 64th cycle in turn by that count. -/
def State.nextEvent (s : State) : Option Instr :=
  let w := s.work
  if w.isEmpty then none else w[(if s.svc.cyc % 64 = 63 then s.svc.cyc / 64 else s.svc.cyc) % w.length]?

end Sys2Proof.Machine
end

