-- ==== Sys2Proof/Machine/Issue.lean ====
section
/-! DEFINITION. Issue: the Registrar, the issue picker, the groups, and the passing of time (R30-R35, R61, R240, R272). -/

namespace Sys2Proof.Machine

/-- Put a ready thread into an entry of its core, or into the ready queue; one that has waited there keeps the cycle in which it became ready (R30). -/
def State.enter (s : State) (t : Nat) : State :=
  let th := s.th t
  let cyc := if th.listed = .registrar then th.since else s.svc.cyc
  let core := (s.co th.coh).core
  let same (e : RegEntry) : Bool := e.core == core && e.coh == th.coh && e.pc == th.pc
  let s1 := s.setTh t { th with listed := .registrar, since := cyc }
  if s.registrar.any same then { s1 with registrar := updFirst same (fun e => { e with tids := e.tids ++ [t], age := min e.age cyc }) s.registrar }
  else if (s.registrar.filter fun e => e.core == core).length < 256 then
    { s1 with registrar := s.registrar ++ [{ core := core, coh := th.coh, pc := th.pc, tids := [t], age := cyc }] }
  else { s1 with readyq := s.readyq ++ [t] }

/-- The thread can be listed: ready, in no list, of a cohort that runs. -/
def State.listable (s : State) (t : Nat) : Bool :=
  (s.th t).run == .ready && (s.th t).listed == .no && (s.co (s.th t).coh).place == .resident && (s.co (s.th t).coh).taken != .save

/-- The thread is ready and its cohort runs: it stands in issue (R30). -/
def State.stands (s : State) (t : Nat) : Bool :=
  decide (t < s.threads.length) && (s.th t).run == .ready && (s.co (s.th t).coh).place == .resident && (s.co (s.th t).coh).taken != .save

/-- Each thread once, in its first place. -/
def once (ts : List Nat) : List Nat := ts.foldl (fun l t => if l.contains t then l else l ++ [t]) []

/-- A thread that stands in issue where a list says. -/
def State.listedAs (s : State) (l : Listed) (t : Nat) : Bool := s.stands t && (s.th t).listed == l

/-- An entry without the threads that have left it: those not ready there, and those of an earlier entry. -/
def State.trimEntry (s : State) (had : List Nat) (e : RegEntry) : RegEntry :=
  { e with tids := once (e.tids.filter fun t => s.listedAs .registrar t && (s.co (s.th t).coh).core == e.core && (s.th t).coh == e.coh
      && (s.th t).pc == e.pc && !had.contains t) }

/-- The entries that still list a thread (R30). -/
def State.trimEntries (s : State) (had : List Nat) : List RegEntry → List RegEntry
  | [] => []
  | e :: es =>
    let e1 := s.trimEntry had e
    if e1.tids.isEmpty then s.trimEntries had es else e1 :: s.trimEntries (had ++ e1.tids) es

/-- A blocked, exited or stopped thread, and one of a cohort that does not run, is listed in no entry, and a ready one in one place (R30). -/
def State.tidy (s : State) : State :=
  let reg := s.trimEntries [] s.registrar
  let had := reg.flatMap (·.tids)
  let q := once (s.readyq.filter fun t => s.listedAs .registrar t && !had.contains t)
  let grp := s.group.map fun g => { g with left := once (g.left.filter (s.listedAs .issuing)) }
  let left := (grp.map (·.left)).getD []
  { s with registrar := reg, readyq := q, group := grp,
           threads := (s.threads.zip (List.range s.threads.length)).map fun x =>
             if x.1.listed != .no && !((had ++ q ++ left).contains x.2) then { x.1 with listed := .no } else x.1 }

/-- Threads of the ready queue are inserted oldest first, then threads that became ready (R30). -/
def State.relist (s : State) : State :=
  let s0 := s.tidy
  let s1 := s0.readyq.foldl (fun st t => st.enter t) { s0 with readyq := [] }
  ((List.range s1.threads.length).filter s1.listable).foldl State.enter s1

/-- Merge entries with equal cohort and PC; the merged entry keeps the older age (R30, R35). -/
def mergeEntries : List RegEntry → List RegEntry
  | [] => []
  | e :: es =>
    let r := mergeEntries es
    let same (x : RegEntry) : Bool := x.core == e.core && x.coh == e.coh && x.pc == e.pc
    match r.find? same with
    | some x => { e with tids := e.tids ++ x.tids, age := min e.age x.age } :: r.filter fun y => !same y
    | none => e :: r

/-- Of threads of one entry, the one of lowest slot in each lane, in ascending lane (R31). -/
def State.pickLanes (s : State) (ts : List Nat) : List Nat :=
  (List.range 32).filterMap fun l =>
    (ts.filter fun t => (s.th t).lane == l).foldl (fun (best : Option Nat) t => match best with
      | some b => if (s.th t).slot < (s.th b).slot then some t else some b
      | none => some t) none

/-- The oldest entry that satisfies a test (R31). -/
def State.oldest (s : State) (p : RegEntry → Bool) : Option RegEntry :=
  (s.registrar.filter p).foldl (fun best e => match best with
    | some b => if e.age < b.age ∨ (e.age = b.age ∧ e.core < b.core) then some e else some b
    | none => some e) none

/-- Form an issue group from an entry (R31). -/
def State.form (s : State) (e : RegEntry) : State :=
  let g := s.pickLanes e.tids
  let rest := e.tids.filter fun t => !g.contains t
  let s1 := g.foldl (fun st t => st.setTh t { st.th t with listed := .issuing }) s
  let others := s.registrar.filter fun x => !(x.core == e.core && x.coh == e.coh && x.pc == e.pc && x.age == e.age && x.tids == e.tids)
  let age := rest.foldl (fun a t => max a (s.th t).since) 0
  { s1 with registrar := if rest.isEmpty then others else others ++ [{ e with tids := rest, age := rest.foldl (fun a t => min a (s.th t).since) age }],
            group := some { core := e.core, coh := e.coh, pc := e.pc, left := g, members := g, taken := 0, missed := 0 } }

/-- One cycle passes (R61, R240, R272, R283): the cycle count, the time base at the clock's rate with its correction, fresh free choices. -/
def Services.tick (v : Services) : Services :=
  let f := max 1 v.clock
  let dn := (v.frac + 10) / f
  let v1 := { v with frac := (v.frac + 10) % f, cyc := v.cyc + 1 }
  if 0 < v.hold.toNat then { v1 with hold := BitVec.ofNat 64 (v.hold.toNat - dn) }
  else if dn = 0 then v1
  else if v.trim ≠ 0 ∧ 10000 ≤ v.trimDebt then
    if 0 < v.trim then { v1 with time := v.time + BitVec.ofNat 64 (dn + 1), trim := v.trim - 1, trimDebt := 0 }
    else { v1 with time := v.time + BitVec.ofNat 64 (dn - 1), trim := v.trim + 1, trimDebt := 0 }
  else { v1 with time := v.time + BitVec.ofNat 64 dn, trimDebt := if v.trim = 0 then 0 else v.trimDebt + dn }

/-- A group whose members have all executed ends; a vote that was split counts once (R33, R34). -/
def State.endGroup (s : State) : State :=
  match s.group with
  | none => s
  | some g =>
    if g.left.isEmpty then
      let c := s.co g.coh
      let s1 := if 0 < g.taken ∧ 0 < g.missed then
          s.setCo g.coh { c with divcnt := c.divcnt.write c.unext (g.members.map fun t => (s.th t).tid)
                                   (if c.divcnt.newest = 0xFFFFFFFF then 0xFFFFFFFF else c.divcnt.newest + 1), unext := c.unext + 1 }
        else s
      { s1 with group := none }
    else s

/-- What the next step does: an instruction runs, nothing does, or a load is predicted, one state for the case that the turns to come commit it and one for the other. -/
inductive Next where
  | run (i : Instr) (s : State)
  | quiet (s : State)
  | look (yes no : State)

/-- Thread `t` is issued: its word is fetched, and a mark or a wait takes effect at once (R85, R93). -/
def State.issue (s : State) (t : Nat) : Next :=
  if (s.th t).run != .ready || (s.th t).listed != .issuing then .quiet s
  else match s.fetch t with
  | .wait w r => .quiet (s.trap t (.wait w r))
  | .word (.ins i) _ s1 => .run i { s1 with cur := some t }
  | .word (.mark code detail guard always) len s1 =>
    if always || guard != 8 then .quiet (s1.takeFault t code detail) else .quiet (s1.goOn t len .fall)

/-- Issue the first member of the group. -/
def State.issueGroup (s : State) : Next :=
  match s.group with
  | some g =>
    match g.left with
    | t :: rest => ({ s with group := some { g with left := rest } } : State).issue t
    | [] => .quiet s
  | none => .quiet s

/-- Form a group of the oldest such entry and issue its first member. -/
def State.issueFrom (s : State) (p : RegEntry → Bool) : Next :=
  match s.oldest p with
  | some e => (s.form e).issueGroup
  | none => .quiet s

/-- The default of the step (assumption log 3): the oldest entry of the device; its own work when no thread can be issued, and in each 64th cycle. -/
def State.issueAny (s : State) : Next :=
  match (if s.registrar.isEmpty ∨ s.svc.cyc % 64 = 63 then s.nextEvent else none) with
  | some i => .run i { s with cur := none }
  | none => s.issueFrom fun _ => true

/-- A load is to be predicted, or one was and is not committed. -/
def State.predicting (s : State) : Bool := s.guess.isSome || !s.prov.guesses.isEmpty

/-- Who acts next: the open group, then the agenda, then the default. -/
def State.nextTurn (s : State) : Next :=
  match s.group with
  | some g => if g.left.isEmpty then .quiet s else s.issueGroup
  | none =>
    match s.agenda with
    | .core c :: rest => ({ s with agenda := rest } : State).issueFrom fun e => e.core == c
    | .event i :: rest =>
      if isEvent i then .run i { s with agenda := rest, cur := none } else .quiet { s with agenda := rest }
    | .predict t bytes :: rest =>
      let yes := { s with agenda := rest, guess := some (t, bytes) }
      if s.predicting then .quiet yes else .look yes { s with agenda := rest }
    | .commit id ws :: rest => .quiet (({ s with agenda := rest } : State).commitGuess id ws)
    | [] => s.issueAny

/-- The thread that the next step issues when the turn is its core's. -/
def State.nextThread (s : State) : Option Nat :=
  match s.group with
  | some g => g.left.head?
  | none => (s.oldest fun _ => true).bind fun e => (s.pickLanes e.tids).head?

end Sys2Proof.Machine
end

