-- ==== Sys2Proof/Machine/Load.lean ====
section
/-! DEFINITION. The start of a cohort (R29), and a program placed from outside so that the next step runs it (assumption log 10). -/

namespace Sys2Proof.Machine

/-- A thread at the start of its cohort (R29). -/
def Thread.start (coh tid gregs : Nat) (pc : DWord) (seen : List Nat) : Thread :=
  { coh := coh, tid := tid, pc := pc, g := List.replicate gregs 0, pend := 0, p := 1, fstat := 0, rmode := 0, fcode := 0, fpc := 0, fdetail := 0,
    region := none, run := .ready, listed := .no, since := 0, seen := seen, arrivals := [] }

/-- The span size of a launch (R26). -/
def LaunchRec.span (l : LaunchRec) : Nat := match bitsOf l.policy 5 4 with | 1 => 2 | 2 => 4 | _ => 0

/-- A cohort at its start (R29). -/
def Cohort.begin (uid lin core : Nat) (part seq : Nat) (r : LaunchRec) (views : List View) (args : List DWord) (cyc : Nat) : Cohort :=
  { uid := uid, part := part, seq := seq, lin := lin, core := core, place := .resident, taken := .no, placedAt := cyc, nthr := r.nthr, gregs := r.gregs,
    tilegr := r.tilegr, scrgr := r.scrgr, spanSize := r.span, kentry := r.kentry, handler := r.handler,
    k := (List.range 32).map fun i => UCell.start (nth 0 args i), vw := (List.range 16).map fun i => UCell.start (nth View.null views i),
    cv := List.replicate 8 (UCell.start ⟨0, 0, false⟩), ct := List.replicate 8 (UCell.start none), ftol := UCell.start 0, drain := UCell.start 0,
    divcnt := UCell.start 0, unext := 1, queues := List.replicate 16 none, points := List.replicate 8 none, regions := List.replicate 8 none,
    chains := List.replicate 8 none, holds := [], faults := 0, first := none, replaced := false, yieldsTo := none, leftAt := 0, opsKnown := [] }

/-- Put a new cohort with its threads into the state; its threads become ready. -/
def State.addCohort (s : State) (c : Cohort) (pc : DWord) (seen : List Nat) : State :=
  let i := s.cohorts.length
  { s with cohorts := s.cohorts ++ [c], threads := s.threads ++ (List.range c.nthr).map fun tid => Thread.start i tid c.gregs pc seen }

/-- The record of the placed program's launch: one cohort of 32 threads with 64 registers, 4 KiB of tile space and scratchpad. -/
def placedRec : LaunchRec :=
  { kentry := 0x8000, params := 0, compl := 0, gx := 1, gy := 1, gz := 1, nthr := 32, gregs := 64, nviews := 0, nargs := 0, policy := 1, ctrl := 0,
    tilegr := 1, scrgr := 1, handler := 0xFFFFFFFF, latbound := 0, ltag := 0, preq := [0, 0, 0, 0] }

/-- The placed program's launch. -/
def placedLaunch : Launch :=
  { part := 0, seq := 1, lr := placedRec, views := [], args := [], child := none, state := 1, accepted := 0, since := 0, nextLin := 1, completed := 0,
    doneLins := [], prefix_ := 0, faults := 0, first := none, known := [], entry := [], wrote := [], preqs := [], aborting := false, cancelled := false, kind5 := false, flushed := [] }

/-- The flat buffer's entry with every right (R177, R178). -/
def placedEntry : List Byte := List.replicate 16 0#8 ++ [7#8] ++ List.replicate 15 0#8

/-- The leaf that maps the placed program's page. -/
def placedLeaf : Leaf := { part := 0, va := 0, size := 2 ^ 30, frame := 0, res := false, mig := false, cache := true, mside := false, enc := false }

/-- A program placed from outside: partition 0 with one launch of one cohort on core 0, its buffer entry and translation cached. -/
def State.place (s : State) : State :=
  let s1 := { s with parts := s.parts.set 0 { s.pa 0 with present := true, nextSeq := 2 }, launches := s.launches ++ [placedLaunch],
                     bufc := (0, 0, 0, placedEntry) :: s.bufc, tlb1 := (0, placedLeaf) :: s.tlb1, group := none, registrar := [], readyq := [] }
  let s2 := s1.addCohort (Cohort.begin (s1.cohorts.length + 1) 0 0 0 1 placedRec [] [] s1.svc.cyc) 0x8000 []
  s2.relist

/-- Where thread `t` fetches its next bytes, when they lie on this device. -/
def State.fetchKeys (s : State) (t n : Nat) : Option (List Nat) :=
  let co := s.co (s.th t).coh
  match s.port { agent := .thread t, part := co.part, core := some co.core, quad := quadOf co.core, seq := some co.seq } .fetch (s.th t).pc n with
  | .ok (.here ls, _) => some (keysOf ls)
  | _ => none

/-- Store bytes where thread `t` fetches, as content that no write has changed, drop the words cached at its PC, and give its core the turn. -/
def State.storeCode (s : State) (t : Nat) (bytes : List Byte) : Option State :=
  (s.fetchKeys t bytes.length).map fun keys =>
    let co := s.co (s.th t).coh
    { s with mem := (keys.zip bytes).foldl (fun m kb => Memory.set m kb.1 kb.2) s.mem, agenda := [.core co.core],
             prov := { s.prov with hist := s.prov.hist.filter fun h => !keys.contains h.key },
             icache := s.icache.filter fun w => !(w.core == co.core && w.part == co.part && w.pc == (s.th t).pc) }

/-- Store code for the thread that the next step issues; place a program first when there is none whose code can be stored. -/
def State.withCode (s : State) (bytes : List Byte) : State :=
  match s.nextThread.bind fun t => s.storeCode t bytes with
  | some s1 => s1
  | none =>
    match s.place.nextThread.bind fun t => s.place.storeCode t bytes with
    | some s1 => s1
    | none => s

end Sys2Proof.Machine
end

