-- ==== Sys2Proof/Machine/Operands.lean ====
section
/-! DEFINITION. Operand forms: every selector as a source and as a destination (R54-R61, R87-R89, R285, R286). The thread is the one that executes. -/

namespace Sys2Proof.Machine

/-- The free-choice number of a uniform-register read by field `f` of this instruction. -/
def State.upick (s : State) (f : Nat) : Nat := s.prov.picks + 40 + f

/-- A k register as the thread sees it (R59). -/
def State.kval (s : State) (f i : Nat) : DWord := (s.cco.kc i).read s.cth.tid (s.upick f)

/-- A view register as the thread sees it. -/
def State.vval (s : State) (f i : Nat) : View := (s.cco.vc i).read s.cth.tid (s.upick f)

/-- A convergence register as the thread sees it. -/
def State.cval (s : State) (f i : Nat) : CvReg := (s.cco.cc i).read s.cth.tid (s.upick f)

/-- A code-table slot as the thread sees it. -/
def State.ctval (s : State) (f i : Nat) : Option CtImg := (s.cco.tc i).read s.cth.tid (s.upick f)

/-- Coordinates of the thread's cohort (R26, R61). -/
def State.cohXyz (s : State) : Nat × Nat × Nat :=
  match s.launch s.cco.part s.cco.seq with | some l => coords l.lr s.cco.lin | none => (0, 0, 0)

/-- A special register by selector (R61). -/
def State.special (s : State) (f sel : Nat) : DWord :=
  let t := s.cth
  let c := s.cco
  let n (v : Nat) : DWord := BitVec.ofNat 64 v
  match sel with
  | 0x80 => n t.tid
  | 0x81 => n t.lane
  | 0x82 => n t.slot
  | 0x83 => n c.nthr
  | 0x84 => n s.cohXyz.1
  | 0x85 => n s.cohXyz.2.1
  | 0x86 => n s.cohXyz.2.2
  | 0x87 => n c.lin
  | 0x88 => n c.spanPos
  | 0x89 => n c.core
  | 0x8A => n (quadOf c.core)
  | 0x8B => n (dieOf c.core)
  | 0x8C => n s.node
  | 0x8D => n c.part
  | 0x8E => (lo32 s.svc.time).setWidth 64
  | 0x8F => (hi32 s.svc.time).setWidth 64
  | 0x90 => n s.svc.cyc
  | 0x91 => t.fstat.setWidth 64
  | 0x92 => t.rmode.setWidth 64
  | 0x93 => (c.ftol.read t.tid (s.upick f)).setWidth 64
  | 0x94 => t.fcode.setWidth 64
  | 0x95 => t.fpc
  | 0x96 => t.fdetail
  | 0x97 => (c.drain.read t.tid (s.upick f)).setWidth 64
  | 0x98 => (c.divcnt.read t.tid (s.upick f)).setWidth 64
  | 0x99 => n c.gregs
  | 0x9A => n c.seq
  | _ => 0

/-- A 32-bit source operand (R57, R58, R61, R88, R89). `f` is the field: 1 d, 2 a, 3 b, 4 c. -/
def State.rd32 (s : State) (f : Nat) (sel : BitVec 8) (imm : Word) : Word :=
  let n := sel.toNat
  if isG n then s.cth.gv n
  else if isK n then lo32 (s.kval f (n - 0x40))
  else if isP n then (if s.cth.pv (n - 0x60) then 1#32 else 0#32)
  else if isSpec n then lo32 (s.special f n)
  else if n = 0xFF then imm
  else if isSmall n then BitVec.ofInt 32 (smallVal n)
  else 0#32

/-- A 64-bit source operand (R56, R88, R89); imm32 is sign-extended under `sg`. -/
def State.rd64 (s : State) (f : Nat) (sel : BitVec 8) (imm : Word) (sg : Bool) : DWord :=
  let n := sel.toNat
  if isG n then s.cth.pairv n
  else if isK n then s.kval f (n - 0x40)
  else if n = 0xFF then (if sg then imm.signExtend 64 else imm.setWidth 64)
  else if isSmall n then BitVec.ofInt 64 (smallVal n)
  else 0#64

/-- A floating-point source operand of a format: small immediates are converted exactly (R88). -/
def State.rdF (s : State) (fmt : FF) (f : Nat) (sel : BitVec 8) (imm : Word) : Nat :=
  if isSmall sel.toNat then (roundFin fmt .rne false (Ex.ofInt (smallVal sel.toNat))).1 else (s.rd32 f sel imm).toNat

/-- A predicate source operand: a p register, or a value that is true when nonzero (R57, R88). -/
def State.rdP (s : State) (f : Nat) (sel : BitVec 8) (imm : Word) : Bool :=
  if isP sel.toNat then s.cth.pv (sel.toNat - 0x60) else s.rd32 f sel imm != 0

/-- Field d as a source. -/
def State.d32 (s : State) (o : Canon) : Word := s.rd32 1 o.d o.imm
/-- Field a as a 32-bit source. -/
def State.a32 (s : State) (o : Canon) : Word := s.rd32 2 o.a o.imm
/-- Field b as a 32-bit source. -/
def State.b32 (s : State) (o : Canon) : Word := s.rd32 3 o.b o.imm
/-- Field c as a 32-bit source. -/
def State.c32 (s : State) (o : Canon) : Word := s.rd32 4 o.c o.imm
/-- Field a as a 64-bit source. -/
def State.a64 (s : State) (o : Canon) (sg : Bool := true) : DWord := s.rd64 2 o.a o.imm sg
/-- Field b as a 64-bit source. -/
def State.b64 (s : State) (o : Canon) (sg : Bool := true) : DWord := s.rd64 3 o.b o.imm sg
/-- Field c as a 64-bit source. -/
def State.c64 (s : State) (o : Canon) (sg : Bool := true) : DWord := s.rd64 4 o.c o.imm sg

/-- Write g register `n` of the thread (R75). -/
def State.putG (s : State) (n : Nat) (v : Word) : State := s.setCth (s.cth.setG n v)

/-- Write a k register (R59, R60). -/
def State.putK (s : State) (i : Nat) (v : DWord) : State := s.setCco (s.cco.setK [s.cth.tid] i v)

/-- Write a predicate (R57). -/
def State.putP (s : State) (i : Nat) (b : Bool) : State := s.setCth (s.cth.setP i b)

/-- Write a 32-bit result to a g, k or p register (R57, R58). -/
def State.put32 (s : State) (sel : BitVec 8) (v : Word) : State :=
  let n := sel.toNat
  if isG n then s.putG n v
  else if isK n then s.putK (n - 0x40) (v.setWidth 64)
  else if isP n then s.putP (n - 0x60) (v.getLsbD 0)
  else s

/-- Write a 64-bit result to a pair or a k register (R56). -/
def State.put64 (s : State) (sel : BitVec 8) (v : DWord) : State :=
  let n := sel.toNat
  if isG n then s.setCth (s.cth.setPair n v)
  else if isK n then s.putK (n - 0x40) v
  else s

/-- Write a truth value to a predicate, or 1 or 0 to a g or k register. -/
def State.putBool (s : State) (sel : BitVec 8) (b : Bool) : State := s.put32 sel (if b then 1#32 else 0#32)

/-- Write a future handle to a g register and set its tag (R74, R75). -/
def State.putFuture (s : State) (sel : BitVec 8) (h : Word) : State := s.setCth (s.cth.setFuture sel.toNat h)

/-- Write a view register. -/
def State.putV (s : State) (i : Nat) (v : View) : State := s.setCco (s.cco.setV [s.cth.tid] i v)

/-- Write a convergence register. -/
def State.putC (s : State) (i : Nat) (v : CvReg) : State := s.setCco (s.cco.setC [s.cth.tid] i v)

/-- Index of a view selector. -/
def vwIdx (sel : BitVec 8) : Nat := sel.toNat - 0x68
/-- Index of a convergence selector. -/
def cvIdx (sel : BitVec 8) : Nat := sel.toNat - 0x78
/-- Index of a k selector. -/
def kIdx (sel : BitVec 8) : Nat := sel.toNat - 0x40

/-- The context of the thread's accesses (R179, R181). -/
def State.tctx (s : State) : Ctx :=
  { agent := .thread s.me, part := s.cco.part, core := some s.cco.core, quad := quadOf s.cco.core, seq := some s.cco.seq }

end Sys2Proof.Machine
end

