-- ==== Sys2Proof/Machine/Flags.lean ====
section
/-! DEFINITION. Rounding mode, flushing and the sticky flags (R62, R115-R117, R288). -/

namespace Sys2Proof.Machine

/-- The rounding mode of an RM field: %rmode or the one it names (R115, R288). -/
def State.rm (s : State) (v : Nat) : Rm := if v = 0 then Rm.ofBits s.cth.rmode.toNat else Rm.ofBits (v - 1)

/-- RM of mod [2:0]. -/
def State.rmOf (s : State) (o : Canon) : Rm := s.rm (bitsOf o.mod.toNat 2 0)

/-- FTZ of mod [3] (R110, R288). -/
def ftzOf (o : Canon) : Bool := o.mod.getLsbD 3

/-- Raise flags: they are ORed into %fstat (R117). -/
def State.raise (s : State) (f : Flags) : State := s.setCth { s.cth with fstat := s.cth.fstat ||| f }

/-- Write a rounded 32-bit result and raise its flags. -/
def State.putF (s : State) (sel : BitVec 8) (r : Nat × Flags) : State := (s.put32 sel (BitVec.ofNat 32 r.1)).raise r.2

end Sys2Proof.Machine
end

