-- ==== Sys2Proof/Machine/Special.lean ====
section
/-! DEFINITION. The special functions of FSF: exact cases, error bounds, and the free value within them (R128). -/

namespace Sys2Proof.Machine

/-- pi * 2^384. -/
def piFx : Nat := 123785053203292407819553701039137184435442376711719744927844101526111311422332618694237111830548352286187237239491692
/-- ln 2 * 2^160. -/
def ln2Fx : Nat := 1013035739299659071135698605846798551586536899366

/-- exp of y / 2^128 as a multiple of 2^-128, for y below 2^128. -/
def expFx (y : Nat) : Nat :=
  ((List.range 44).foldl (fun (r : Nat × Nat) k => let t := r.2 * y / 2 ^ 128 / (k + 1); (r.1 + t, t)) (2 ^ 128, 2 ^ 128)).1

/-- Integer part and fraction (in 2^-128) of a finite value. -/
def splitFx (x : Ex) : Int × Nat :=
  let m : Nat := if 0 ≤ x.e + 128 then x.m * 2 ^ (x.e + 128).toNat else x.m / 2 ^ (-(x.e + 128)).toNat
  let v : Int := if x.neg then -(m : Int) else m
  let v' : Int := if x.neg && v == 0 && x.m != 0 then -1 else v
  (v' / 2 ^ 128, (v' % 2 ^ 128).toNat)

/-- A value above zero and below 2^k. -/
def Ex.below (x : Ex) (k : Int) : Bool := x.m != 0 && ({ x with neg := false } : Ex).cmp (Ex.pow2 k) == .lt

/-- A close rational approximation of 2^x, on the side of 1 where it lies. -/
def exp2Near (x : Ex) : Ex :=
  if !x.neg && x.below (-100) then (Ex.ofInt 1).add (Ex.pow2 (-110))
  else
    let (n, f) := splitFx x
    ⟨false, expFx (f * ln2Fx / 2 ^ 160), n - 128, 1⟩

/-- Binary digits of log2 of y / 2^256, for y in [2^256, 2^257). -/
def log2Digits : Nat → Nat → Nat → Nat
  | 0, _, acc => acc
  | k + 1, y, acc =>
    let z := y * y / 2 ^ 256
    if 2 ^ 257 ≤ z then log2Digits k (z / 2) (2 * acc + 1) else log2Digits k z (2 * acc)

/-- A close rational approximation of log2 of a positive value. -/
def log2Near (x : Ex) : Ex :=
  let l := Nat.log2 x.m
  let y := x.m * 2 ^ (256 - l)
  let v : Int := (x.e + l) * 2 ^ 100 + log2Digits 100 y 0
  ⟨decide (v < 0), v.natAbs, -100, 1⟩

/-- The value is a power of two. -/
def Ex.isPow2 (x : Ex) : Bool := x.d == 1 && x.m != 0 && 2 ^ Nat.log2 x.m == x.m

/-- Square root to 200 bits, exact when the root is. -/
def Ex.sqrtFine (x : Ex) : Ex :=
  let t : Int := x.e / 2 - 200
  let n := x.m * 2 ^ (x.e - 2 * t).toNat
  ⟨false, isqrt (Nat.log2 n / 2 + 1) n 0, t, 1⟩

/-- Terms of the sine or cosine series of r / 2^160: `t` the first term, `k` its degree. -/
def trigSeries (r : Nat) : Nat → Nat → Nat → Int → Int → Int
  | 0, _, _, _, acc => acc
  | fuel + 1, t, k, sg, acc => trigSeries r fuel (t * r / 2 ^ 160 * r / 2 ^ 160 / ((k + 1) * (k + 2))) (k + 2) (-sg) (acc + sg * t)

/-- A close rational approximation of the sine (or cosine) of a finite value in radians; near zero, below the value's magnitude (or below 1), as the function is. -/
def sinNear (cosine : Bool) (x : Ex) : Ex :=
  if cosine && x.below (-70) then (Ex.ofInt 1).add (Ex.pow2 (-160)).negate
  else if !cosine && x.below (-53) then
    let a := ({ x with neg := false } : Ex).add (Ex.pow2 (-200)).negate
    if x.neg then a.negate else a
  else
  let a : Nat := if 0 ≤ x.e + 384 then x.m * 2 ^ (x.e + 384).toNat else x.m / 2 ^ (-(x.e + 384)).toNat
  let q := 2 * a / piFx
  let r := (a - q * piFx / 2) / 2 ^ 224
  let s : Int := trigSeries r 40 r 1 1 0
  let c : Int := trigSeries r 40 (2 ^ 160) 0 1 0
  let v : Int := match (if cosine then q + 1 else q) % 4 with | 0 => s | 1 => c | 2 => -s | _ => -c
  let v' : Int := if x.neg && !cosine then -v else v
  ⟨decide (v' < 0), v'.natAbs, -160, 1⟩

/-- |x - y| ≤ b. -/
def Ex.within (x y b : Ex) : Bool := ({ x.add y.negate with neg := false } : Ex).cmp b != .gt

/-- `n` ulp of a value's binade; for subnormal results 2^-148 (R128). -/
def ulpBound (n : Nat) (a : Ex) : Ex :=
  let e := if a.m = 0 then -200 else log2Quot (a.m * 2 ^ a.e.toNat) (a.d * 2 ^ (-a.e).toNat)
  if e < -126 then Ex.pow2 (-148) else (Ex.ofInt n).mul (Ex.pow2 (e - 23))

/-- An absolute bound of 2^-22; for subnormal results 2^-148 (R128). -/
def absBound (a : Ex) : Ex := if ({ a with neg := false } : Ex).cmp (Ex.pow2 (-126)) == .lt then Ex.pow2 (-148) else Ex.pow2 (-22)

/-- A finite value is an integer. -/
def Ex.isInt (x : Ex) : Bool := decide (0 ≤ x.e) || x.m % 2 ^ (-x.e).toNat == 0

/-- Rounded to 24 bits with unbounded exponent range, the value is not 0 and below the minimum normal number (R117). -/
def Ex.tiny (a : Ex) : Bool := a.m != 0 && ({ a with neg := false } : Ex).cmp ((Ex.pow2 (-126)).add (Ex.pow2 (-151)).negate) == .lt

/-- A subnormal pattern of FP32 other than zero. -/
def isSub32 (v : Nat) : Bool := decide (0 < FF.fp32.mag v) && decide (FF.fp32.mag v < 2 ^ 23)

/-- The two-bit code of a mode (R62). -/
def Rm.code : Rm → Nat
  | .rne => 0
  | .rz => 1
  | .ru => 2
  | .rd => 3

/-- The value FSF returns near `a`: free within the bound; NX when it differs from the exact result, UF when it is tiny and inexact (R117, R128). -/
def fsfNear (mode : Rm) (fn bits : Nat) (a : Ex) (isExact mustExact : Bool) (bound : Ex) : Nat × Flags :=
  let r := roundFin .fp32 mode false a
  if r.2 &&& OF ≠ 0 then r
  else if mustExact && r.2 = 0 then r
  else
    let v := Config.fsf mode.code fn bits % 2 ^ 32
    let near : Nat := (roundFin .fp32 .rne false a).1
    let w := match FF.fp32.value v with | .fin y => if y.within a bound && (!isSub32 v || y.within a (Ex.pow2 (-148))) then v else near | _ => near
    let eq : Bool := isExact && (match FF.fp32.value w with | .fin y => y.cmp a == .eq | _ => false)
    (w, flagIf (!eq) NX ||| flagIf (!eq && (isSub32 w || a.tiny)) UF)

/-- FSF of a flushed operand pattern, by function: 0 rcp, 1 rsqrt, 2 sqrt, 3 exp2, 4 log2, 5 sin, 6 cos (R128, R327). -/
def fsfValue (mode : Rm) (fn v : Nat) : Nat × Flags :=
  let f := FF.fp32
  match f.value v with
  | .nan => (f.nanBits, f.snanFlag v)
  | .inf s =>
    match fn with
    | 0 => (f.sign s 0, 0)
    | 1 => if s then (f.nanBits, NV) else (0, 0)
    | 2 => if s then (f.nanBits, NV) else (f.infBits, 0)
    | 3 => if s then (0, 0) else (f.infBits, 0)
    | 4 => if s then (f.nanBits, NV) else (f.infBits, 0)
    | _ => (f.nanBits, NV)
  | .fin x =>
    match fn with
    | 0 => if x.m = 0 then (f.sign x.neg f.infBits, DZ) else
        let a := (Ex.ofInt 1).div x
        fsfNear mode 0 v a true true (ulpBound 1 a)
    | 1 => if x.m = 0 then (f.sign x.neg f.infBits, DZ) else if x.neg then (f.nanBits, NV) else
        let a := (Ex.ofInt 1).div x.sqrtFine
        fsfNear mode 1 v a true x.isPow2 (ulpBound 1 a)
    | 2 => fsqrt mode false v
    | 3 =>
      if (Ex.ofInt 128).cmp x != .gt then roundFin f mode false (Ex.pow2 128)
      else
        let a := exp2Near (if (Ex.ofInt (-300)).cmp x == .gt then Ex.ofInt (-300) else x)
        fsfNear mode 3 v a x.isInt false (ulpBound 2 a)
    | 4 => if x.m = 0 then (f.sign true f.infBits, DZ) else if x.neg then (f.nanBits, NV) else
        if v = 0x3F800000 then (0, 0) else
        let a := log2Near x
        let mid : Bool := x.cmp (Ex.pow2 (-1)) != .lt && x.cmp (Ex.pow2 1) != .gt
        fsfNear mode 4 v a x.isPow2 false (if mid then absBound a else ulpBound 2 a)
    | 5 => if x.m = 0 then (v, 0) else
        let a := sinNear false x
        fsfNear mode 5 v a false false (absBound a)
    | _ =>
      let a := sinNear true x
      fsfNear mode 6 v a (x.m == 0) false (absBound a)

/-- FSF with flushing (R110, R128). -/
def fsf (mode : Rm) (ftz : Bool) (fn v : Nat) : Nat × Flags :=
  FF.fp32.flushOut ftz (fsfValue mode fn (FF.fp32.flushIn ftz v))

end Sys2Proof.Machine
end

