-- ==== Sys2Proof/Machine/Float.lean ====
section
/-! DEFINITION. Vector floating point (R110-R121, R128, R307, R317, R319-R327, R336, R337, R381). -/

namespace Sys2Proof.Machine

/-- FP32 operand a. -/
def State.fA (s : State) (o : Canon) : Nat := s.rdF .fp32 2 o.a o.imm
/-- FP32 operand b. -/
def State.fB (s : State) (o : Canon) : Nat := s.rdF .fp32 3 o.b o.imm
/-- FP32 operand c. -/
def State.fC (s : State) (o : Canon) : Nat := s.rdF .fp32 4 o.c o.imm

/-- FADD body (R319). -/
def faddBody (o : Canon) : Body := plain fun s => s.putF o.d (FF.fp32.add2 (s.rmOf o) (ftzOf o) (s.fA o) (s.fB o))
/-- FSUB body (R319). -/
def fsubBody (o : Canon) : Body := plain fun s => s.putF o.d (FF.fp32.sub2 (s.rmOf o) (ftzOf o) (s.fA o) (s.fB o))
/-- FMUL body (R319). -/
def fmulBody (o : Canon) : Body := plain fun s => s.putF o.d (FF.fp32.mul2 (s.rmOf o) (ftzOf o) (s.fA o) (s.fB o))
/-- FFMA body (R319). -/
def ffmaBody (o : Canon) : Body := plain fun s => s.putF o.d (FF.fp32.fma (s.rmOf o) (ftzOf o) (s.fA o) (s.fB o) (s.fC o))
/-- FMIN and FMAX body (R120). -/
def fminmaxBody (isMax : Bool) (o : Canon) : Body := plain fun s => s.putF o.d (FF.fp32.minmax isMax (ftzOf o) (s.fA o) (s.fB o))

/-- FADD (R319). -/
def execFadd (o : Canon) (s : State) : Host.Outcome State Fault Refusal := run 0x20 o s (faddBody o)
/-- FADD, short form (R92). -/
def execFaddShort (g : BitVec 4) (d a : BitVec 6) (b : BitVec 8) (s : State) : Host.Outcome State Fault Refusal :=
  run 0x20 (Short.alu g d a b 0) s (faddBody (Short.alu g d a b 0))
/-- FSUB (R319). -/
def execFsub (o : Canon) (s : State) : Host.Outcome State Fault Refusal := run 0x21 o s (fsubBody o)
/-- FSUB, short form (R92). -/
def execFsubShort (g : BitVec 4) (d a : BitVec 6) (b : BitVec 8) (s : State) : Host.Outcome State Fault Refusal :=
  run 0x21 (Short.alu g d a b 0) s (fsubBody (Short.alu g d a b 0))
/-- FMUL (R319). -/
def execFmul (o : Canon) (s : State) : Host.Outcome State Fault Refusal := run 0x22 o s (fmulBody o)
/-- FMUL, short form (R92). -/
def execFmulShort (g : BitVec 4) (d a : BitVec 6) (b : BitVec 8) (s : State) : Host.Outcome State Fault Refusal :=
  run 0x22 (Short.alu g d a b 0) s (fmulBody (Short.alu g d a b 0))
/-- FFMA (R319). -/
def execFfma (o : Canon) (s : State) : Host.Outcome State Fault Refusal := run 0x23 o s (ffmaBody o)
/-- FFMA, short form: c := d (R92). -/
def execFfmaShort (g : BitVec 4) (d a : BitVec 6) (b : BitVec 8) (s : State) : Host.Outcome State Fault Refusal :=
  run 0x23 (Short.aluC g d a b 0) s (ffmaBody (Short.aluC g d a b 0))
/-- FMIN (R120). -/
def execFmin (o : Canon) (s : State) : Host.Outcome State Fault Refusal := run 0x24 o s (fminmaxBody false o)
/-- FMIN, short form (R92). -/
def execFminShort (g : BitVec 4) (d a : BitVec 6) (b : BitVec 8) (s : State) : Host.Outcome State Fault Refusal :=
  run 0x24 (Short.alu g d a b 0) s (fminmaxBody false (Short.alu g d a b 0))
/-- FMAX (R120). -/
def execFmax (o : Canon) (s : State) : Host.Outcome State Fault Refusal := run 0x25 o s (fminmaxBody true o)
/-- FMAX, short form (R92). -/
def execFmaxShort (g : BitVec 4) (d a : BitVec 6) (b : BitVec 8) (s : State) : Host.Outcome State Fault Refusal :=
  run 0x25 (Short.alu g d a b 0) s (fminmaxBody true (Short.alu g d a b 0))

/-- FSET body (R326). -/
def fsetBody (o : Canon) : Body := plain fun s =>
  let a := s.fA o; let b := s.fB o
  let f := FF.fp32
  (s.putBool o.d (f.compare (bitsOf o.mod.toNat 6 4) (f.flushIn (ftzOf o) a) (f.flushIn (ftzOf o) b))).raise (f.snanFlag a ||| f.snanFlag b)
/-- FSET (R326). -/
def execFset (o : Canon) (s : State) : Host.Outcome State Fault Refusal := run 0x26 o s (fsetBody o)
/-- FSET.lt, short form (R92). -/
def execFsetLtShort (g : BitVec 4) (p : BitVec 3) (a : BitVec 6) (b : BitVec 8) (s : State) : Host.Outcome State Fault Refusal :=
  run 0x26 (Short.set g p a b 0x20) s (fsetBody (Short.set g p a b 0x20))
/-- FSET.eq, short form (R92). -/
def execFsetEqShort (g : BitVec 4) (p : BitVec 3) (a : BitVec 6) (b : BitVec 8) (s : State) : Host.Outcome State Fault Refusal :=
  run 0x26 (Short.set g p a b 0x00) s (fsetBody (Short.set g p a b 0x00))

/-- FSF body (R128, R327). -/
def fsfBody (o : Canon) : Body := plain fun s => s.putF o.d (fsf (s.rmOf o) (ftzOf o) (bitsOf o.mod.toNat 6 4) (s.fB o))
/-- FSF (R327). -/
def execFsf (o : Canon) (s : State) : Host.Outcome State Fault Refusal := run 0x27 o s (fsfBody o)
/-- FSF.rcp, short form (R92). -/
def execFsfRcpShort (g : BitVec 4) (d : BitVec 6) (b : BitVec 8) (s : State) : Host.Outcome State Fault Refusal :=
  run 0x27 (Short.alu1 g d b 0x00) s (fsfBody (Short.alu1 g d b 0x00))
/-- FSF.rsqrt, short form (R92). -/
def execFsfRsqrtShort (g : BitVec 4) (d : BitVec 6) (b : BitVec 8) (s : State) : Host.Outcome State Fault Refusal :=
  run 0x27 (Short.alu1 g d b 0x10) s (fsfBody (Short.alu1 g d b 0x10))

/-- A conversion format code's format; codes without a format never pass fill. -/
def fmtOf (code : Nat) : FF := (FF.ofCode code).getD .fp32

/-- Element `e` of a register in a format of `w` bits. -/
def elem (w e : Nat) (v : Word) : Nat := v.toNat / 2 ^ (w * e) % 2 ^ w

/-- The conversion of R323: an equal format passes the value, with NaNs canonical. -/
def fcvtX (src dst : FF) (mode : Rm) (sat : Bool) (v : Nat) : Nat × Flags :=
  if src = dst then (if src.isNan v then src.nanBits else v, src.snanFlag v) else convert src dst mode sat v

/-- FCVT body (R323). -/
def fcvtBody (o : Canon) : Body := plain fun s =>
  let m := o.mod.toNat
  let src := fmtOf (bitsOf m 9 7); let dst := fmtOf (bitsOf m 6 4)
  let x := if src = .fp32 then s.fB o else elem src.width (bitsOf m 12 10) (s.b32 o)
  s.putF o.d (fcvtX src dst (s.rmOf o) (bitOf m 13) x)
/-- FCVT (R323). -/
def execFcvt (o : Canon) (s : State) : Host.Outcome State Fault Refusal := run 0x28 o s (fcvtBody o)
/-- FCVT.bf16.f32, short form (R92). -/
def execFcvtShort (g : BitVec 4) (d : BitVec 6) (b : BitVec 8) (s : State) : Host.Outcome State Fault Refusal :=
  run 0x28 (Short.alu1 g d b 0x10) s (fcvtBody (Short.alu1 g d b 0x10))

/-- FCVT (pack) (R323). -/
def execFcvtPack (o : Canon) (s : State) : Host.Outcome State Fault Refusal := run 0x29 o s (plain fun s =>
  let m := o.mod.toNat
  let dst := fmtOf (bitsOf m 6 4)
  let w := dst.width; let lo := 2 * w * bitsOf m 12 10
  let x := fcvtX .fp32 dst (s.rmOf o) (bitOf m 13) (s.fA o)
  let y := fcvtX .fp32 dst (s.rmOf o) (bitOf m 13) (s.fB o)
  let c := if w = 16 then 0 else (s.c32 o).toNat
  let kept := c - c / 2 ^ lo % 2 ^ (2 * w) * 2 ^ lo
  (s.put32 o.d (BitVec.ofNat 32 (kept + (x.1 + y.1 * 2 ^ w) * 2 ^ lo))).raise (x.2 ||| y.2))

/-- Signedness and width of an integer format code (R336). -/
def ifmtOf (code : Nat) : Bool × Nat :=
  match code with
  | 0 => (true, 32) | 1 => (false, 32) | 2 => (true, 16) | 3 => (false, 16) | 4 => (true, 8) | 5 => (false, 8) | 6 => (true, 64) | _ => (false, 64)

/-- ICVT body (R337). -/
def icvtBody (o : Canon) : Body := plain fun s =>
  let m := o.mod.toNat
  let (sg, w) := ifmtOf (bitsOf m 7 5)
  let f := fmtOf (bitsOf m 10 8)
  let mode := s.rmOf o
  if bitOf m 4 then
    let b := o.b.toNat
    let x : FNum := if isSmall b then .fin (Ex.ofInt (smallVal b)) else f.value ((s.b32 o).toNat % 2 ^ f.width)
    let (v, fl) := numToInt mode sg w x
    (if w = 64 then s.put64 o.d (BitVec.ofInt 64 v) else s.put32 o.d (BitVec.ofInt 32 v)).raise fl
  else
    let v := if w = 64 then (s.b64 o).toNat else (s.b32 o).toNat
    s.putF o.d (roundFin f mode false (Ex.ofInt (readInt sg w v)))
/-- ICVT (R337). -/
def execIcvt (o : Canon) (s : State) : Host.Outcome State Fault Refusal := run 0x2A o s (icvtBody o)
/-- ICVT.f32.s32, short form (R92). -/
def execIcvtShort (g : BitVec 4) (d : BitVec 6) (b : BitVec 8) (s : State) : Host.Outcome State Fault Refusal :=
  run 0x2A (Short.alu1 g d b 0) s (icvtBody (Short.alu1 g d b 0))

/-- The 16-bit format of PFMA and DP2: BF16, or FP16 with F16. -/
def halfFmt (o : Canon) : FF := if o.mod.getLsbD 4 then .fp16 else .bf16

/-- PFMA (R381). -/
def execPfma (o : Canon) (s : State) : Host.Outcome State Fault Refusal := run 0x2B o s (plain fun s =>
  let f := halfFmt o
  let r (e : Nat) := f.fma (s.rmOf o) (ftzOf o) (elem 16 e (s.a32 o)) (elem 16 e (s.b32 o)) (elem 16 e (s.c32 o))
  (s.put32 o.d (BitVec.ofNat 32 ((r 0).1 + (r 1).1 * 2 ^ 16))).raise ((r 0).2 ||| (r 1).2))

/-- round(exact(a*b + c*d + e), fp32, mode) over values already flushed, with the flags of an invalid operation (R307, R317). -/
def sum3 (mode : Rm) (ftz : Bool) (a b c d e : FNum) : Nat × Flags :=
  let p := a.mul b; let q := c.mul d
  let x := p.1.add q.1; let y := x.1.add e
  let r := FF.fp32.flushOut ftz (roundNum .fp32 mode false y.1)
  (r.1, r.2 ||| flagIf (p.2 || q.2 || x.2 || y.2) NV)

/-- CFMA (R307). -/
def execCfma (o : Canon) (s : State) : Host.Outcome State Fault Refusal := run 0x2C o s (plain fun s =>
  let f := FF.fp32
  let parts (v : DWord) : Nat × Nat := ((lo32 v).toNat, (hi32 v).toNat)
  let (ar, ai) := parts (s.a64 o); let (br, bi) := parts (s.b64 o); let (cr, ci) := parts (s.c64 o)
  let ftz := ftzOf o
  let val (v : Nat) : FNum := f.value (f.flushIn ftz v)
  let bv : FNum := if o.mod.getLsbD 4 then (val bi).negate else val bi
  let re := sum3 (s.rmOf o) ftz (val ar) (val br) (val ai).negate bv (val cr)
  let im := sum3 (s.rmOf o) ftz (val ar) bv (val ai) (val br) (val ci)
  let sn := f.snanFlag ar ||| f.snanFlag ai ||| f.snanFlag br ||| f.snanFlag bi ||| f.snanFlag cr ||| f.snanFlag ci
  (s.put64 o.d (pair (BitVec.ofNat 32 re.1) (BitVec.ofNat 32 im.1))).raise (re.2 ||| im.2 ||| sn))

/-- The class bit of R321. -/
def fclassBit (f : FF) (v : Nat) : Nat :=
  let neg := f.neg v
  if f.isNan v then (if f.isSNan v then 8 else 9)
  else if !(f.value v).isFin then (if neg then 0 else 7)
  else if f.mag v = 0 then (if neg then 3 else 4)
  else if f.isSub v then (if neg then 2 else 5)
  else (if neg then 1 else 6)

/-- FCLASS (R321). -/
def execFclass (o : Canon) (s : State) : Host.Outcome State Fault Refusal := run 0x2D o s (plain fun s =>
  let f := fmtOf (bitsOf o.mod.toNat 6 4)
  s.put32 o.d (BitVec.ofNat 32 (2 ^ fclassBit f (elem f.width (bitsOf o.mod.toNat 12 10) (s.b32 o)))))

/-- DP2 (R317). -/
def execDp2 (o : Canon) (s : State) : Host.Outcome State Fault Refusal := run 0x2E o s (plain fun s =>
  let f := halfFmt o; let ftz := ftzOf o
  let el (v : Word) (e : Nat) : Nat := elem 16 e v
  let val (v : Word) (e : Nat) : FNum := f.value (f.flushIn ftz (el v e))
  let a := s.a32 o; let b := s.b32 o; let c := s.fC o
  let r := sum3 (s.rmOf o) ftz (val a 0) (val b 0) (val a 1) (val b 1) (FF.fp32.value (FF.fp32.flushIn ftz c))
  s.putF o.d (r.1, r.2 ||| f.snanFlag (el a 0) ||| f.snanFlag (el a 1) ||| f.snanFlag (el b 0) ||| f.snanFlag (el b 1) ||| FF.fp32.snanFlag c))

/-- FRND of a pattern (R325). -/
def frndX (mode : Rm) (ftz : Bool) (v : Nat) : Nat × Flags :=
  let f := FF.fp32
  let v' := f.flushIn ftz v
  match f.value v' with
  | .nan => (f.nanBits, f.snanFlag v)
  | .inf _ => (v', 0)
  | .fin x =>
    let (n, ix) := roundToInt mode x
    ((roundFin f .rne false ⟨x.neg, n.natAbs, 0, 1⟩).1, flagIf ix NX)
/-- FRND (R325). -/
def execFrnd (o : Canon) (s : State) : Host.Outcome State Fault Refusal := run 0x2F o s (plain fun s => s.putF o.d (frndX (s.rmOf o) (ftzOf o) (s.fB o)))

/-- FSCL of a pattern; beyond 500 a larger shift rounds to the same value (R325). -/
def fsclX (mode : Rm) (ftz : Bool) (v : Nat) (k : Int) : Nat × Flags :=
  let f := FF.fp32
  match f.value (f.flushIn ftz v) with
  | .nan => (f.nanBits, f.snanFlag v)
  | .inf s => (f.sign s f.infBits, 0)
  | .fin x => f.flushOut ftz (roundFin f mode false (x.mul (Ex.pow2 (clampInt (-500) 500 k))))
/-- FSCL (R325). -/
def execFscl (o : Canon) (s : State) : Host.Outcome State Fault Refusal := run 0x30 o s (plain fun s =>
  s.putF o.d (fsclX (s.rmOf o) (ftzOf o) (s.fA o) (s.b32 o).toInt))

end Sys2Proof.Machine
end

