-- ==== Sys2Proof/Machine/TeamBase.lean ====
section
/-! DEFINITION. Teams: the register, its members, signing points, lane-serialised regions, barriers (R36-R43, R59, R294-R296, R356). -/

namespace Sys2Proof.Machine

/-- Act as thread `t`. -/
def State.as (s : State) (t : Nat) (f : State → State) : State := { f { s with cur := some t } with cur := s.cur }

/-- A team instruction that executes: cohort, register, its point, and the signed members still running, by ascending lane (R37). -/
structure TeamCtx where
  coh : Nat
  cv : Nat
  pt : SignPt
  ms : List Nat
  deriving DecidableEq, Repr

/-- What a team instruction leaves: its members go on, or it has placed them itself, or each of them takes a fault. -/
inductive TeamOut where
  | resume (s : State)
  | placed (s : State)
  | faults (s : State) (code : Nat) (detail : DWord)

/-- A fault that an instruction's checks raise leaves what it waited for before them: its uniform operands hold their statuses, and the engine's earlier work is done (R74,
R155, R172, R330). -/
def State.faulting (s : State) : Except Trap TeamOut → Except Trap TeamOut
  | .error (.fault code detail) => .ok (.faults s code detail)
  | x => x

/-- The value a member supplied when it signed. -/
def TeamCtx.val (c : TeamCtx) (tid : Nat) : Nat := (((c.pt.signed.find? fun x => x.1 == tid).map (·.2)).getD []).headD 0

/-- The newest value of a convergence register (R60). -/
def Cohort.cvNow (c : Cohort) (i : Nat) : CvReg := (c.cc i).newest

/-- The threads a convergence register names: slot and lanes (R36). -/
def State.teamOf (s : State) (coh i : Nat) : List Nat :=
  let r := (s.co coh).cvNow i
  if r.valid then (s.thsOf coh).filter fun t => (s.th t).slot == r.slot.toNat && r.mask.getLsbD (s.th t).lane else []

/-- %fdetail of TEAM (R258). -/
def teamDetail (cause cv : Nat) : DWord := BitVec.ofNat 64 (cause + cv * 16)

/-- Causes 1 and 2: the register names no team, or the thread is no member (R39). -/
def State.teamFail (s : State) (t : Nat) (r : CvReg) : Option Nat :=
  if !r.valid then some 1
  else if (s.th t).slot == r.slot.toNat && r.mask.getLsbD (s.th t).lane then none else some 2

/-- Set or clear the signing point of a register. -/
def Cohort.setPoint (c : Cohort) (i : Nat) (p : Option SignPt) : Cohort := { c with points := c.points.set i p }
/-- The signing point of a register. -/
def Cohort.point (c : Cohort) (i : Nat) : Option SignPt := nth none c.points i
/-- The region of a register. -/
def Cohort.region (c : Cohort) (i : Nat) : Option Region := nth none c.regions i
/-- The chain of a register. -/
def Cohort.chain (c : Cohort) (i : Nat) : Option (List Contrib) := nth none c.chains i

/-- Make a thread ready where its PC stands. -/
def State.ready (s : State) (t : Nat) : State := s.setTh t { s.th t with run := .ready, listed := .no }

/-- Members go on at the fall-through (R37). -/
def State.resumeAll (s : State) (ms : List Nat) (len : Nat) : State := ms.foldl (fun st t => st.goOn t len .fall) s

/-- A thread's release at a scope: what it makes known (R205). -/
def State.releaseBy (s : State) (t : Nat) (scope : Nat) : List Nat × State := s.release (.thread t) scope

/-- Threads release at a scope: what they make known together (R205). -/
def State.releaseAll (s : State) (ts : List Nat) (scope : Nat) : List Nat × State :=
  ts.foldl (fun (r : List Nat × State) t => let (k, st) := r.2.releaseBy t scope; (union r.1 k, st)) ([], s)

/-- Threads `rs` release at a scope, and threads `ms` acquire all the releases (R63, R199). -/
def State.syncFrom (s : State) (rs ms : List Nat) (scope : Nat) : State :=
  let (known, s1) := s.releaseAll rs scope
  ms.foldl (fun st t => st.see (.thread t) known) s1

/-- What happens before the next access of some thread of a list. -/
def State.passedByAll (s : State) (ts : List Nat) : List Nat := ts.foldl (fun k t => union k (s.passedBy (.thread t))) []

/-- An order that pins nothing: what threads `rs` did happens before what threads `ms` do (R311). -/
def State.joinAll (s : State) (rs ms : List Nat) : State :=
  let s0 := rs.foldl (fun st t => st.forceReds (.thread t) none) s
  let known := s0.passedByAll rs
  ms.foldl (fun st t => st.see (.thread t) known) s0

/-- The team's members that have exited: they count as signed (R38). -/
def State.exitedOf (s : State) (coh i : Nat) : List Nat := (s.teamOf coh i).filter fun t => (s.th t).run == .exited

/-- All that the signed members did, those that exited too, happens before the operation's reads (R38, R311). -/
def State.joinTeam (s : State) (c : TeamCtx) : State := s.joinAll (s.exitedOf c.coh c.cv ++ c.ms) c.ms

/-- The tids of a cohort's threads that have exited. -/
def State.exitedTids (s : State) (coh : Nat) : List Nat := ((s.thsOf coh).filter fun t => (s.th t).run == .exited).map fun t => (s.th t).tid

/-- Uniform writes become certain at a TSIGN of members `ms` (R38, R59). -/
def State.certainTeam (s : State) (coh i : Nat) (ms : List Nat) : State :=
  let c := s.co coh
  let ws := ((s.teamOf coh i).filter fun t => ms.contains t || (s.th t).run == .exited).map fun t => ((s.th t).tid, c.unext)
  s.setCo coh (c.certain ws (union (ms.map fun t => (s.th t).tid) (s.exitedTids coh)))

/-- Leave a lane-serialised region: the next member enters, or the region closes and members that wait for that replay (R41, R356). -/
def State.leaveRegion (s : State) (coh i t : Nat) : State :=
  match (s.co coh).region i with
  | none => s
  | some r =>
    let (known, s1) := s.releaseBy t scCore
    let set (st : State) (x : Option Region) : State := st.setCo coh { st.co coh with regions := (st.co coh).regions.set i x }
    match r.todo with
    | n :: rest => set ((s1.see (.thread n) known).ready n) (some { r with inside := some n, todo := rest, known := known })
    | [] => (set s1 none).wake fun _ th => th.coh == coh && th.run == .blocked (.region i)

/-- The instance a thread's BAR names (R42, R295). -/
def State.barKey (s : State) (t : Nat) (scope id : Nat) : BarKey :=
  let c := s.co (s.th t).coh
  match scope with
  | 0 => .core (s.th t).coh c.uid id
  | 1 => .span c.part c.seq (c.lin / c.spanSize) id
  | 2 => .die c.part c.seq (dieOf c.core) id
  | _ =>
    let tag := ((s.launch c.part c.seq).map (·.lr.ltag)).getD 0
    .pod c.part tag (if tag = 0 then c.seq else 0) id

/-- The memory scope of an instance (R296). -/
def BarKey.scope : BarKey → Nat
  | .core _ _ _ => scCore
  | .span _ _ _ _ => scQuad
  | .die _ _ _ _ => scDie
  | .pod _ _ _ _ => scPod

/-- The cohort's launch is one that an instance of BAR.pod joins: the one with the SEQ, or any open one with the tag (R271). -/
def State.podJoins (s : State) (c : Cohort) (tag seq : Nat) : Bool :=
  if tag = 0 then c.seq == seq else ((s.launch c.part c.seq).map fun l => l.open_ && l.lr.ltag == tag).getD false

/-- The cohort takes part in an instance (R42, R271); one that was flushed and has started again does not (R252). -/
def State.inBarrier (s : State) (i : Nat) (k : BarKey) : Bool :=
  let c := s.co i
  !c.replaced && match k with
  | .core coh uid _ => i == coh && c.uid == uid
  | .span part seq span _ => c.part == part && c.seq == seq && c.spanSize != 0 && c.lin / c.spanSize == span
  | .die part seq die _ => c.part == part && c.seq == seq && dieOf c.core == die
  | .pod part tag seq _ => c.part == part && s.podJoins c tag seq

/-- The participants on this device (R42). -/
def State.participants (s : State) (k : BarKey) : List Nat :=
  (List.range s.threads.length).filter fun t => s.inBarrier (s.th t).coh k

/-- The instance of a key. -/
def State.bar (s : State) (k : BarKey) : BarInst := (s.bars.find? fun b => b.key == k).getD { key := k, gen := 0, gens := [] }

/-- Replace an instance. -/
def State.setBar (s : State) (b : BarInst) : State := { s with bars := b :: s.bars.filter fun x => x.key != b.key }

/-- A generation's record. -/
def BarInst.at_ (b : BarInst) (g : Nat) : BarGen := (b.gens.find? fun x => x.gen == g).getD { gen := g, known := [], arrived := [], reported := false }

/-- Replace a generation's record. -/
def BarInst.put (b : BarInst) (g : BarGen) : BarInst := { b with gens := g :: b.gens.filter fun x => x.gen != g.gen }

/-- Record an arrival of thread `t` at the current generation: a release at the instance's scope (R295, R296). -/
def State.arriveAt (s : State) (t : Nat) (k : BarKey) : State :=
  let (known, s1) := s.releaseBy t k.scope
  let b := s1.bar k
  let g := b.at_ b.gen
  s1.setBar (b.put { g with known := union g.known known, arrived := (t, (s1.co (s1.th t).coh).unext) :: g.arrived })

/-- A return from BAR at a completed generation: an acquire, and uniform writes become certain (R59, R296). -/
def State.returnFrom (s : State) (t : Nat) (k : BarKey) (gen : Nat) : State :=
  let g := (s.bar k).at_ gen
  let coh := (s.th t).coh
  let s1 := s.see (.thread t) g.known
  let c := s1.co coh
  let ws := (g.arrived.filter fun x => (s1.th x.1).coh == coh).map fun x => ((s1.th x.1).tid, x.2)
  let ex := s1.exitedTids coh
  s1.setCo coh (c.certain (ws ++ ex.map fun x => (x, c.unext)) (union [(s1.th t).tid] ex))

/-- Every participant on this device has arrived at the current generation (R43). -/
def State.allArrived (s : State) (k : BarKey) : Bool :=
  let g := (s.bar k).at_ (s.bar k).gen
  (g.arrived.any fun x => s.inBarrier (s.th x.1).coh k) && (s.participants k).all fun t => (s.th t).run == .exited || g.arrived.any fun x => x.1 == t

/-- The generation completes: what participants that have exited did is released with the arrivals, the number advances and every thread blocked on it resumes (R43,
R199, R295, R296). -/
def State.completeBar (s : State) (k : BarKey) : State :=
  let (known, s0) := s.releaseAll ((s.participants k).filter fun t => (s.th t).run == .exited) k.scope
  let g := (s.bar k).at_ (s.bar k).gen
  let b := (s.bar k).put { g with known := union g.known known }
  let waiting := (s.participants k).filter fun t => (s.th t).run == .blocked (.bar k b.gen)
  let s1 := s0.setBar { b with gen := b.gen + 1 }
  let s2 := waiting.foldl (fun st t =>
    if (st.th t).arrivals.any fun a => a.key == k then st.ready t else (st.returnFrom t k b.gen).ready t) s1
  let needed (g : Nat) : Bool := g == b.gen + 1 || s2.threads.any fun th => th.arrivals.any fun a => a.key == k && a.gen == g
  s2.setBar { (s2.bar k) with gens := (s2.bar k).gens.filter fun x => needed x.gen }

/-- A BAR.pod of a tagged launch waits for the other devices when the pod is larger than this device (R269, R271). -/
def State.podWaits (s : State) (tag : Nat) : Bool := decide (tag ≠ 0) && decide (0 < s.podLog)

/-- The reports of the pod's other nodes for an instance that its lowest node has received (R271). -/
def State.podReports (s : State) (part tag id : Nat) : List PodReport :=
  s.fabric.reports.filter fun r => r.part == part && r.tag == tag && r.id == id && s.inPod r.node && r.node != s.node

/-- Barrier messages to send, which go out at the end of the step, or once a port takes them (R271, R281). -/
def State.podTell (s : State) (ds : List PodDue) : State := { s with fabric := { s.fabric with podDue := s.fabric.podDue ++ ds } }

/-- The barrier messages that ports take now leave (R268, R271, R281). -/
def State.podSend (s : State) : State :=
  let r := s.fabric.podDue.foldl (fun (r : State × List PodDue) d =>
    match r.1.sendMsg d.node s.node d.id 0 fun port => .barrier port s.node d.node d.part d.tag d.id d.release with
    | some s1 => (s1, r.2)
    | none => (r.1, r.2 ++ [d])) (s, [])
  { r.1 with fabric := { r.1.fabric with podDue := r.2 } }

/-- A release to the pod's other nodes. -/
def State.podRelease (s : State) (part tag id : Nat) : State :=
  s.podTell (((List.range (2 ^ s.podLog)).filter fun i => s.podBase + i != s.node).map fun i => ⟨s.podBase + i, part, tag, id, true⟩)

/-- Every participant that this device has had in a tag's instances has exited: the device counts as arrived (R43, R271). -/
def State.podGone (s : State) (part tag : Nat) : Bool :=
  let ts := s.participants (.pod part tag 0 0)
  if ts.isEmpty then s.fabric.left.contains (part, tag) else ts.all fun t => (s.th t).run == .exited

/-- The reported generation of a BAR.pod completes: its participants acquire what the pod's other devices released (R271). -/
def State.podComplete (s : State) (k : BarKey) (known : List Nat) : State :=
  let b := s.bar k
  let g := b.at_ b.gen
  if g.reported then (s.setBar (b.put { g with known := union g.known known })).completeBar k else s

/-- The pod's lowest node releases an instance when every device of the pod has reported (R271). -/
def State.podCollect (s : State) (k : BarKey) : State :=
  match k with
  | .pod part tag _ id =>
    let rs := s.podReports part tag id
    if s.node == s.podBase && (((s.bar k).at_ (s.bar k).gen).reported || s.podGone part tag) && rs.length + 1 == 2 ^ s.podLog then
      let s1 := { s with fabric := { s.fabric with reports := s.fabric.reports.filter fun r => !(r.part == part && r.tag == tag && r.id == id) } }
      (s1.podRelease part tag id).podComplete k (rs.foldl (fun l r => union l r.known) [])
    else s
  | _ => s

/-- This device's arrival at a BAR.pod is reported to the pod's lowest node, once for each generation (R271). -/
def State.podReport (s : State) (k : BarKey) : State :=
  let b := s.bar k
  let g := b.at_ b.gen
  let told (st : State) : State := st.setBar (b.put { g with reported := true })
  match k with
  | .pod part tag _ id =>
    if g.reported then s
    else if s.node = s.podBase then (told s).podCollect k
    else (told s).podTell [⟨s.podBase, part, tag, id, false⟩]
  | _ => s

/-- A device whose participants of a tag have all exited has arrived at every barrier of the tag (R43, R271). -/
def State.podExit (s : State) (part tag : Nat) : State :=
  if s.podWaits tag && s.podGone part tag then (List.range 16).foldl (fun st id => st.podReport (.pod part tag 0 id)) s else s

/-- BARRIER_COMPLETE when every participant has arrived; at .pod the arrival is reported and the pod's lowest node releases it (R271, R295). -/
def State.tryBar (s : State) (k : BarKey) : State :=
  if !s.allArrived k then s
  else match k with
  | .pod _ tag _ _ => if s.podWaits tag then s.podReport k else s.completeBar k
  | _ => s.completeBar k

/-- After a participant left, instances it may have held back are tried again (R43). -/
def State.tryBars (s : State) (coh : Nat) : State := (s.bars.map (·.key)).foldl (fun st k => if st.inBarrier coh k then st.tryBar k else st) s

/-- The number that a generation of a launch's instance on a die has after the launch has been resumed on other dies, where instances of both dies may meet. -/
def rekeyGen (die g : Nat) : Nat := 2 * g + die

/-- An instance of a launch on one die, by barrier id. -/
def BarKey.dieId (part seq die : Nat) : BarKey → Option Nat
  | .die p q d id => if p = part ∧ q = seq ∧ d = die then some id else none
  | _ => none

/-- A launch has been resumed with some cohort on another die: pending arrivals at the current generations stay pending at the die where each thread is now, and earlier
generations stay complete. DESIGN CHOICE (log 69): R42 and R295 do not say what becomes of them. -/
def State.rekeyDie (s : State) (part seq : Nat) : State :=
  let mine (b : BarInst) : Bool := match b.key with | .die p q _ _ => p == part && q == seq | _ => false
  let old := s.bars.filter mine
  let top := 2 * (old.foldl (fun m b => max m b.gen) 0) + 2
  let home (t : Nat) : Nat := dieOf (s.co (s.th t).coh).core
  let gens (b : BarInst) (die : Nat) : List BarGen := (b.gens.filter fun g => g.gen != b.gen).map fun g => { g with gen := rekeyGen die g.gen }
  let here (die id : Nat) : Option BarInst := old.find? fun b => b.key.dieId part seq die == some id
  let merged (die id : Nat) : BarInst :=
    let parts := (List.range 2).filterMap fun d => (here d id).map fun b => (d, b)
    let cur := parts.map fun x => x.2.at_ x.2.gen
    let now : BarGen := { gen := top, known := cur.foldl (fun l g => union l g.known) [], reported := false,
                          arrived := (cur.flatMap (·.arrived)).filter fun x => home x.1 == die }
    { key := .die part seq die id, gen := top, gens := now :: parts.flatMap fun x => gens x.2 x.1 }
  let ids := (List.range 16).filter fun id => (here 0 id).isSome || (here 1 id).isSome
  let move (t : Nat) (k : BarKey) (g : Nat) : BarKey × Nat := match k with
    | .die p q d id =>
      if p = part ∧ q = seq then (.die p q (home t) id, if ((here d id).map (·.gen)).getD 0 ≤ g then top else rekeyGen d g) else (k, g)
    | _ => (k, g)
  let thread (t : Nat) : Thread :=
    let th := s.th t
    { th with arrivals := th.arrivals.map fun a => let (k, g) := move t a.key a.gen; { key := k, gen := g },
              run := match th.run with | .blocked (.bar k g) => (let (k', g') := move t k g; .blocked (.bar k' g')) | r => r }
  { s with bars := ids.flatMap (fun id => [merged 0 id, merged 1 id]) ++ s.bars.filter (fun b => !mine b),
           threads := (List.range s.threads.length).map thread }

end Sys2Proof.Machine
end

