-- ==== Sys2Proof/Machine/Control.lean ====
section
/-! DEFINITION. Control flow, traps, idempotent regions, waiting for a time, team registers and barriers (R33, R34, R77, R241, R294-R302, R338, R340, R376, R394, R422, R425, R434). -/

namespace Sys2Proof.Machine

/-- Go to an offset, or fault with ALIGN when it is not a multiple of 4 (R77). -/
def jumpTo (s : State) (off : Nat) : Except Trap (Flow × State) :=
  if off % 4 = 0 then .ok (.jump off, s) else .error (.fault 0x06 (mkPtr (ptrBuf s.cth.pc) off))

/-- Target of a displacement (R298, R302). -/
def relTarget (pc : DWord) (imm : Word) : Nat := ((((ptrOff pc : Nat) : Int) + imm.toInt) % (2 ^ 48 : Int)).toNat

/-- The group's vote of a BRA.u counts one member (R33, R34). -/
def State.vote (s : State) (o : Canon) (taken : Bool) : State :=
  if o.mod.getLsbD 0 then
    { s with group := s.group.map fun g => if taken then { g with taken := g.taken + 1 } else { g with missed := g.missed + 1 } }
  else s

/-- BRA body (R298). -/
def braBody (o : Canon) : Body := fun s => jumpTo (s.vote o true) (relTarget s.cth.pc o.imm)

/-- BRA (R33, R34, R298): a false guard counts in the vote. -/
def braRun (o : Canon) (s : State) : Host.Outcome State Fault Refusal :=
  match s.cur with
  | none => .fault .noThread
  | some t => .next (if (s.th t).guard o.guard then s.perform t 0x40 o (braBody o) else (s.vote o false).goOn t o.len.toNat .fall)

/-- BRA (R298). -/
def execBra (o : Canon) (s : State) : Host.Outcome State Fault Refusal := braRun o s
/-- BRA, short form (R92). -/
def execBraShort (g : BitVec 4) (disp : BitVec 20) (s : State) : Host.Outcome State Fault Refusal := braRun (Short.bra g disp) s

/-- JMP (R340). -/
def execJmp (o : Canon) (s : State) : Host.Outcome State Fault Refusal := run 0x41 o s fun s => jumpTo s (ptrOff (s.a64 o))

/-- The return offset of a CALL (R302). -/
def retOff (s : State) (o : Canon) : DWord := BitVec.ofNat 64 (ptrOff (fallPc s.cth.pc o.len.toNat))

/-- CALL to an offset (R302): nothing is written when the target is misaligned. -/
def callTo (o : Canon) (s : State) (target : Nat) : Except Trap (Flow × State) :=
  match jumpTo s target with
  | .error t => .error t
  | .ok (fl, s1) => .ok (fl, s1.put64 o.d (retOff s o))

/-- CALL (relative) (R302). -/
def execCallRelative (o : Canon) (s : State) : Host.Outcome State Fault Refusal := run 0x42 o s fun s => callTo o s (relTarget s.cth.pc o.imm)
/-- CALL (register) (R302). -/
def execCallRegister (o : Canon) (s : State) : Host.Outcome State Fault Refusal := run 0x43 o s fun s => callTo o s (ptrOff (s.a64 o))

/-- RET body (R394). -/
def retBody (o : Canon) : Body := fun s => jumpTo s (ptrOff (s.a64 o))
/-- RET (R394). -/
def execRet (o : Canon) (s : State) : Host.Outcome State Fault Refusal := run 0x44 o s (retBody o)
/-- RET through g0, short form (R92). -/
def execRetShort (g : BitVec 4) (s : State) : Host.Outcome State Fault Refusal := run 0x44 (Short.none g) s (retBody (Short.none g))

/-- NOP (R376). -/
def execNop (o : Canon) (s : State) : Host.Outcome State Fault Refusal := run 0x46 o s (plain id)
/-- NOP, short form (R92). -/
def execNopShort (g : BitVec 4) (s : State) : Host.Outcome State Fault Refusal := run 0x46 (Short.none g) s (plain id)
/-- YIELD: the thread becomes ready again at the fall-through with the current cycle as its age (R376). -/
def execYield (o : Canon) (s : State) : Host.Outcome State Fault Refusal := run 0x47 o s (plain id)
/-- YIELD, short form (R92). -/
def execYieldShort (g : BitVec 4) (s : State) : Host.Outcome State Fault Refusal := run 0x47 (Short.none g) s (plain id)

/-- TRAP (R422). -/
def execTrap (o : Canon) (s : State) : Host.Outcome State Fault Refusal := run 0x48 o s fun s => .error (.fault 0x13 ((s.b32 o).setWidth 64))
/-- BRK (R300). -/
def execBrk (o : Canon) (s : State) : Host.Outcome State Fault Refusal := run 0x49 o s fun s => .error (.fault 0x14 ((s.b32 o).setWidth 64))

/-- IDEM (R338): the region entry is this PC. -/
def execIdem (o : Canon) (s : State) : Host.Outcome State Fault Refusal := run 0x4C o s (plain fun s =>
  s.setCth { s.cth with region := some (s.cth.pc, o.len.toNat) })
/-- IDEMEND (R338). -/
def execIdemend (o : Canon) (s : State) : Host.Outcome State Fault Refusal := run 0x4D o s (plain fun s => s.setCth { s.cth with region := none })

/-- WAITT (R241): blocks until the time base reaches the time. -/
def execWaitt (o : Canon) (s : State) : Host.Outcome State Fault Refusal := run 0x4E o s fun s =>
  let time := s.a64 o
  if time.toNat ≤ s.svc.time.toNat then .ok (.fall, s) else .ok (.sleep (.time time), s)

/-- TSET (R425). -/
def execTset (o : Canon) (s : State) : Host.Outcome State Fault Refusal := run 0x50 o s fun s =>
  let i := cvIdx o.d
  let c := s.cco
  if (c.point i).isSome || (c.region i).isSome || (c.chain i).isSome then .error (.fault 0x12 (teamDetail 6 i))
  else
    let v := s.a64 o
    .ok (.fall, s.putC i { mask := lo32 v, slot := (v >>> 32).setWidth 6, valid := v.getLsbD 63 })

/-- ID and SCOPE of a barrier (R294). -/
def barId (o : Canon) : Nat := bitsOf o.mod.toNat 3 0
/-- SCOPE field. -/
def barScope (o : Canon) : Nat := bitsOf o.mod.toNat 5 4

/-- Causes 8 and 9: no span, or a launch that is not CONCURRENT (R43). -/
def State.barFail (s : State) (scope : Nat) : Option Nat :=
  if scope = 0 then none
  else if scope = 1 then (if s.cco.spanSize = 0 then some 8 else none)
  else match s.launch s.cco.part s.cco.seq with
  | some l => if bitsOf l.lr.policy 1 0 = 2 then none else some 9
  | none => some 9

/-- The pending arrival of a thread at an instance (R295). -/
def Thread.pendingAt (t : Thread) (k : BarKey) : Option Nat := (t.arrivals.find? fun a => a.key == k).map (·.gen)

/-- Clear the pending arrival. -/
def State.clearArrival (s : State) (t : Nat) (k : BarKey) : State :=
  s.setTh t { s.th t with arrivals := (s.th t).arrivals.filter fun a => a.key != k }

/-- BAR for thread `t` (R295): it blocks until the generation of its arrival completes. -/
def State.barWait (s : State) (t : Nat) (k : BarKey) (len : Nat) : State :=
  match (s.th t).pendingAt k with
  | some g =>
    if g < (s.bar k).gen then ((s.returnFrom t k g).clearArrival t k).goOn t len .fall
    else ((s.clearArrival t k).goOn t len (.sleep (.bar k g))).tryBar k
  | none =>
    let g := (s.bar k).gen
    ((s.arriveAt t k).goOn t len (.sleep (.bar k g))).tryBar k

/-- BAR body (R295). -/
def barBody (o : Canon) : Body := fun s =>
  match s.barFail (barScope o) with
  | some c => .error (.fault 0x12 (teamDetail c 0))
  | none => .ok (.placed, s.barWait s.me (s.barKey s.me (barScope o) (barId o)) o.len.toNat)

/-- BAR (R294, R295). -/
def execBar (o : Canon) (s : State) : Host.Outcome State Fault Refusal := run 0x56 o s (barBody o)
/-- BAR.core, short form (R92). -/
def execBarCoreShort (never : Bool) (id : BitVec 4) (s : State) : Host.Outcome State Fault Refusal :=
  run 0x56 (Short.bar never id) s (barBody (Short.bar never id))
/-- BAR (arrive) (R295): a thread with a pending arrival waits for its generation first. -/
def execBarArrive (o : Canon) (s : State) : Host.Outcome State Fault Refusal := run 0x57 o s fun s =>
  match s.barFail (barScope o) with
  | some c => .error (.fault 0x12 (teamDetail c 0))
  | none =>
    let k := s.barKey s.me (barScope o) (barId o)
    match s.cth.pendingAt k with
    | some g =>
      if g < (s.bar k).gen then
        let s1 := (s.clearArrival s.me k).arriveAt s.me k
        .ok (.placed, ((s1.setTh s.me { s1.th s.me with arrivals := { key := k, gen := (s1.bar k).gen } :: (s1.th s.me).arrivals }).goOn s.me o.len.toNat .fall).tryBar k)
      else .ok (.hold (.bar k g), s)
    | none =>
      let s1 := s.arriveAt s.me k
      .ok (.placed, ((s1.setTh s.me { s1.th s.me with arrivals := { key := k, gen := (s1.bar k).gen } :: (s1.th s.me).arrivals }).goOn s.me o.len.toNat .fall).tryBar k)

end Sys2Proof.Machine
end

