-- ==== Sys2Proof/Machine/TeamOps.lean ====
section
/-! DEFINITION. Team instructions: signing, execution after the last member signs, and the effects that move register values or order members (R37-R41, R330, R342, R356, R424, R426, R431). -/

namespace Sys2Proof.Machine

/-- The effect of a team instruction on its signed members. -/
abbrev TeamEffect := TeamCtx → State → Except Trap TeamOut

/-- The signed members of a point that still run, by ascending tid (R37). -/
def State.signedOf (s : State) (coh i : Nat) (p : SignPt) : List Nat :=
  (s.thsOf coh).filter fun t => p.signed.any (fun x => x.1 == (s.th t).tid) && (s.th t).run == .blocked (.team i)

/-- Every member has signed or exited (R38). -/
def State.allSigned (s : State) (coh i : Nat) (p : SignPt) : Bool :=
  (s.teamOf coh i).all fun t => (s.th t).run == .exited || (p.signed.any fun x => x.1 == (s.th t).tid) && (s.th t).run == .blocked (.team i)

/-- Close the signing point of a register. -/
def State.closePoint (s : State) (coh i : Nat) : State := s.setCo coh ((s.co coh).setPoint i none)

/-- TEAM_EXECUTE (R37): the instruction executes once when its last member has signed. A fault is each member's own; an operand that is not
ready yet takes the member that supplies it back to its instruction (R330). -/
def State.teamExecute (s : State) (eff : TeamEffect) (coh i : Nat) : State :=
  match (s.co coh).point i with
  | none => s
  | some p =>
    if !s.allSigned coh i p then s
    else match s.signedOf coh i p with
    | [] => s.closePoint coh i
    | t0 :: ts =>
      let ms := t0 :: ts
      let c : TeamCtx := { coh := coh, cv := i, pt := p, ms := ms }
      match eff c { s with cur := some t0 } with
      | .ok (.resume s1) => (((s1.dropAnswers (.thread t0)).closePoint coh i).resumeAll ms p.word.len.toNat)
      | .ok (.placed s1) => (s1.dropAnswers (.thread t0)).closePoint coh i
      | .ok (.faults s1 code detail) => (({ s1 with cur := s.cur }.dropAnswers (.thread t0)).closePoint coh i).takeFaults ms code detail
      | .error (.fault code detail) => ((s.dropAnswers (.thread t0)).closePoint coh i).takeFaults ms code detail
      | .error (.wait w r) =>
        let p' : SignPt := { p with signed := p.signed.filter fun x => x.1 != (s.th t0).tid }
        (s.setCo coh ((s.co coh).setPoint i (if ts.isEmpty then none else some p'))).trap t0 (.wait w r)

/-- Why a member cannot sign: the cause of TEAM, or a wait for the region to close (R39, R356). -/
def State.signFail (s : State) (t op i : Nat) (r : CvReg) (needAll : Bool) : Option Trap :=
  let team (c : Nat) : Option Trap := some (.fault 0x12 (teamDetail c i))
  let co := s.co (s.th t).coh
  match s.teamFail t r with
  | some c => team c
  | none =>
    match co.region i with
    | some g => if op = 0x4A then team 5 else if g.inside = some t then team 3 else some (.wait (.region i) .none)
    | none =>
      match co.point i with
      | some p => if p.pc ≠ (s.th t).pc.toNat ∨ p.op ≠ op then team 3 else if needAll && r.mask != 0xFFFFFFFF then team 4 else none
      | none => if needAll && r.mask != 0xFFFFFFFF then team 4 else none

/-- A member signs with the values it supplies (R37): it blocks, and the instruction executes when it was the last. -/
def signBody (op : Nat) (o : Canon) (cvf : Nat) (needAll : Bool) (vals : State → List Nat) (eff : TeamEffect) : Body := fun s =>
  let i := cvIdx (if cvf = 3 then o.b else o.c)
  let t := s.me
  let coh := s.cci
  match s.signFail t op i (s.cval cvf i) needAll with
  | some tr => .error tr
  | none =>
    let p := ((s.co coh).point i).getD { pc := s.cth.pc.toNat, op := op, word := o, signed := [] }
    let s1 := s.setCo coh ((s.co coh).setPoint i (some { p with signed := (s.cth.tid, vals s) :: p.signed.filter fun x => x.1 != s.cth.tid }))
    .ok (.placed, (s1.block t (.team i)).teamExecute eff coh i)

/-- Each member receives a 32-bit result in d. -/
def TeamCtx.give (c : TeamCtx) (s : State) (v : Nat → Word) : State :=
  c.ms.foldl (fun st t => st.as t fun x => x.put32 c.pt.word.d (v (st.th t).tid)) s

/-- VOTE (R431). -/
def voteResult (mode : Nat) (xs : List (Nat × Nat)) : Word :=
  let b (c : Bool) : Word := if c then 1#32 else 0#32
  match mode with
  | 0 => b (xs.all fun x => x.2 != 0)
  | 1 => b (xs.any fun x => x.2 != 0)
  | 2 => b (xs.all fun x => xs.all fun y => x.2 == y.2)
  | _ => BitVec.ofNat 32 ((xs.filter fun x => x.2 != 0).foldl (fun m x => m + 2 ^ (x.1 % 32)) 0)

/-- The members' tids with the values they supplied. -/
def TeamCtx.vals (c : TeamCtx) (s : State) : List (Nat × Nat) := c.ms.map fun t => ((s.th t).tid, c.val (s.th t).tid)

/-- VOTE's effect (R431). -/
def teamVote : TeamEffect := fun c s => .ok (.resume (c.give s fun _ => voteResult (bitsOf c.pt.word.mod.toNat 1 0) (c.vals s)))

/-- src(i) of R40. -/
def laneSrc (perm par i : Nat) : Nat :=
  match perm with
  | 0 => Nat.xor i par
  | 1 => i / 8 * 8 + (i + par) % 8
  | 2 => 31 - i
  | _ => par

/-- LANEX's parameter. -/
def lanePar (o : Canon) : Nat := if o.b = 0xFF then o.imm.toNat else (smallVal o.b.toNat).toNat

/-- LANEX's effect (R342). -/
def teamLanex : TeamEffect := fun c s =>
  let o := c.pt.word
  let v (i : Nat) : Nat := (((c.vals s).find? fun x => x.1 % 32 == i).map (·.2)).getD 0
  let src (t : Nat) : Nat := v (laneSrc (bitsOf o.mod.toNat 1 0) (lanePar o) ((s.th t).lane))
  .ok (.resume (c.ms.foldl (fun st t => st.as t fun x =>
    if o.mod.getLsbD 2 then x.put64 o.d (BitVec.ofNat 64 (src t)) else x.put32 o.d (BitVec.ofNat 32 (src t))) s))

/-- op(r, v) of R424, with its flags. -/
def redOp (op : Nat) (sg : Bool) (r v : Nat) : Nat × Flags :=
  match op with
  | 0 => ((r + v) % 2 ^ 32, 0#5)
  | 1 => (if readInt sg 32 v < readInt sg 32 r then v else r, 0#5)
  | 2 => (if readInt sg 32 r < readInt sg 32 v then v else r, 0#5)
  | 3 => (Nat.land r v, 0#5)
  | 4 => (Nat.lor r v, 0#5)
  | 5 => (Nat.xor r v, 0#5)
  | 6 => FF.fp32.add2 .rne false r v
  | 7 => FF.fp32.minmax false false r v
  | _ => FF.fp32.minmax true false r v

/-- The identity of a scan (R424). -/
def redIdentity (op : Nat) (sg : Bool) : Nat :=
  match op with
  | 3 => 0xFFFFFFFF
  | 1 => if sg then 0x7FFFFFFF else 0xFFFFFFFF
  | 2 => if sg then 0x80000000 else 0
  | 7 => 0x7F800000
  | 8 => 0xFF800000
  | _ => 0

/-- The scan over values in ascending lane: each lane's result, the last reduction and the flags (R424). -/
def scanVals (op : Nat) (sg excl : Bool) (xs : List (Nat × Nat)) : List (Nat × Nat) × Nat × Flags :=
  (xs.foldl (fun (acc : List (Nat × Nat) × Nat × Flags × Bool) x =>
    let (out, r, fl, first) := acc
    let (r', f') := if first then (x.2, 0#5) else redOp op sg r x.2
    let d := if excl then (if first then redIdentity op sg else r) else r'
    (out ++ [(x.1, d)], r', fl ||| f', false)) ([], 0, 0#5, true)) |> fun a => (a.1, a.2.1, a.2.2.1)

/-- Raise flags in every member (R117). -/
def TeamCtx.raise (c : TeamCtx) (s : State) (f : Flags) : State := c.ms.foldl (fun st t => st.as t fun x => x.raise f) s

/-- TRED's effect (R424). -/
def teamTred : TeamEffect := fun c s =>
  let m := c.pt.word.mod.toNat
  let (_, r, fl) := scanVals (bitsOf m 3 0) (bitOf m 4) false (c.vals s)
  .ok (.resume (c.raise (c.give s fun _ => BitVec.ofNat 32 r) fl))

/-- TSCAN's effect (R424). -/
def teamTscan : TeamEffect := fun c s =>
  let m := c.pt.word.mod.toNat
  let (ds, _, fl) := scanVals (bitsOf m 3 0) (bitOf m 4) (bitOf m 5) (c.vals s)
  .ok (.resume (c.raise (c.give s fun tid => BitVec.ofNat 32 (((ds.find? fun x => x.1 == tid).map (·.2)).getD 0)) fl))

/-- TSIGN's effect (R59, R63, R426): every member's earlier accesses, those of exited members too, happen before the members' later ones. -/
def teamTsign : TeamEffect := fun c s =>
  .ok (.resume ((s.syncFrom (s.exitedOf c.coh c.cv ++ c.ms) c.ms scCore).certainTeam c.coh c.cv c.ms))

/-- LSER's effect (R41, R356): the lowest lane enters, the others stay blocked. -/
def teamLser : TeamEffect := fun c s =>
  match c.ms with
  | [] => .ok (.placed s)
  | t :: rest =>
    let co := s.co c.coh
    let s1 := s.setCo c.coh { co with regions := co.regions.set c.cv (some { pc := c.pt.pc, inside := some t, todo := rest, known := [] }) }
    let len := c.pt.word.len.toNat
    .ok (.placed (rest.foldl (fun st u => st.goOn u len (.sleep .entry)) (s1.goOn t len .fall)))

/-- The value a member supplies to a reduction: a small immediate of a floating-point OP is converted exactly (R88, R423). -/
def redVal (o : Canon) (s : State) : List Nat :=
  [if 6 ≤ bitsOf o.mod.toNat 3 0 then s.rdF .fp32 2 o.a o.imm else (s.a32 o).toNat]

/-- VOTE (R430). -/
def execVote (o : Canon) (s : State) : Host.Outcome State Fault Refusal := run 0x52 o s (signBody 0x52 o 4 false (fun s => [(s.a32 o).toNat]) teamVote)
/-- LANEX (R341). -/
def execLanex (o : Canon) (s : State) : Host.Outcome State Fault Refusal := run 0x53 o s (signBody 0x53 o 4 true
  (fun s => [if o.mod.getLsbD 2 then (s.a64 o).toNat else (s.a32 o).toNat]) teamLanex)
/-- TRED (R423). -/
def execTred (o : Canon) (s : State) : Host.Outcome State Fault Refusal := run 0x54 o s (signBody 0x54 o 4 false (redVal o) teamTred)
/-- TSCAN (R423). -/
def execTscan (o : Canon) (s : State) : Host.Outcome State Fault Refusal := run 0x55 o s (signBody 0x55 o 4 false (redVal o) teamTscan)
/-- TSIGN's body (R426). -/
def tsignBody (o : Canon) : Body := signBody 0x51 o 3 false (fun _ => []) teamTsign
/-- TSIGN (R426). -/
def execTsign (o : Canon) (s : State) : Host.Outcome State Fault Refusal := run 0x51 o s (tsignBody o)
/-- LSER (R355). -/
def execLser (o : Canon) (s : State) : Host.Outcome State Fault Refusal := run 0x4A o s (signBody 0x4A o 4 false (fun _ => []) teamLser)

/-- LSEND (R356). -/
def execLsend (o : Canon) (s : State) : Host.Outcome State Fault Refusal := run 0x4B o s fun s =>
  let i := cvIdx o.c
  match s.teamFail s.me (s.cval 4 i) with
  | some c => .error (.fault 0x12 (teamDetail c i))
  | none =>
    match s.cco.region i with
    | some r => if r.inside = some s.me then .ok (.fall, s.leaveRegion s.cci i s.me) else .error (.fault 0x12 (teamDetail 7 i))
    | none => .error (.fault 0x12 (teamDetail 7 i))

end Sys2Proof.Machine
end

