-- ==== Sys2Proof/Machine/Views.lean ====
section
/-! DEFINITION. Views: records and their checks, extents, elements, scales and factor pools in tile space (R63-R72, R112-R114, R456). -/

namespace Sys2Proof.Machine

/-- Bits of an element of a format code; 0 for a reserved code (R65). -/
def fmtBits (f : Nat) : Nat :=
  match f with
  | 1 => 4 | 2 => 8 | 3 => 16 | 4 => 32 | 8 => 4 | 9 => 8 | 10 => 8 | 11 => 16 | 12 => 16 | 13 => 32 | 14 => 4 | 15 => 64 | _ => 0

/-- The format is an integer format. -/
def fmtInt (f : Nat) : Bool := decide (1 ≤ f) && decide (f ≤ 4)

/-- The floating format of a code; none for integers, CB4 and CF32. -/
def fmtFF (f : Nat) : Option FF :=
  match f with
  | 8 => some .e2m1 | 9 => some .e4m3 | 10 => some .e5m2 | 11 => some .fp16 | 12 => some .bf16 | 13 => some .fp32 | _ => none

/-- CF32. -/
def fCF32 : Nat := 15
/-- CB4. -/
def fCB4 : Nat := 14

/-- Element bits of a view. -/
def View.bits (v : View) : Nat := fmtBits v.fmt
/-- Row bytes (R66). -/
def View.rowBytes (v : View) : Nat := ceilDiv (v.cols * v.bits) 8
/-- Element bytes of a format of whole bytes. -/
def View.size (v : View) : Nat := v.bits / 8
/-- Scale layout (R64). -/
def View.layout (v : View) : Nat := v.scl % 4
/-- BL (R64). -/
def View.bl (v : View) : Nat := if bitOf v.scl 2 then 128 else 32
/-- Bytes of a scale. -/
def View.scaleSize (v : View) : Nat := if bitOf v.scl 3 then 4 else 1
/-- Number of scales (R67). -/
def View.scaleCount (v : View) : Nat :=
  match v.layout with
  | 1 => v.rows * ceilDiv v.cols v.bl
  | 2 => ceilDiv v.rows v.bl * ceilDiv v.cols v.bl
  | _ => 0
/-- Number of a scale in its area (R67). -/
def View.scaleIdx (v : View) (i j : Nat) : Nat := (if v.layout = 1 then i else i / v.bl) * ceilDiv v.cols v.bl + j / v.bl
/-- End of the data extent (R67). -/
def View.extentEnd (v : View) : Nat :=
  match v.kind with
  | 0 => v.base
  | 4 => v.base + 2 * v.rows * v.pitch
  | 6 => v.base + v.poolsz
  | _ => v.base + (v.rows - 1) * v.pitch + v.rowBytes

/-- VEC, TILE or OPND. -/
def View.isPlain (v : View) : Bool := v.kind == 1 || v.kind == 2 || v.kind == 5
/-- ACC, CACC or FACT. -/
def View.isMatrix (v : View) : Bool := v.kind == 3 || v.kind == 4 || v.kind == 6

/-- A record's fields (R64). -/
def View.parse (b : List Byte) : View :=
  { kind := field b 0 1, fmt := field b 1 1, scl := field b 2 1, signed := bitOf (field b 3 1) 0, dense := bitOf (field b 3 1) 1, base := field b 4 4,
    rows := field b 8 2, cols := field b 10 2, pitch := field b 12 4, soff := field b 0x10 4, maxrank := field b 0x14 1, rank := field b 0x15 1,
    poolsz := field b 0x18 4 }

/-- A record's bytes (R64). -/
def View.pack (v : View) : List Byte :=
  toLE 1 v.kind ++ toLE 1 v.fmt ++ toLE 1 v.scl ++ toLE 1 ((if v.signed then 1 else 0) + (if v.dense then 2 else 0)) ++ toLE 4 v.base ++ toLE 2 v.rows
    ++ toLE 2 v.cols ++ toLE 4 v.pitch ++ toLE 4 v.soff ++ toLE 1 v.maxrank ++ toLE 1 v.rank ++ toLE 2 0 ++ toLE 4 v.poolsz ++ toLE 4 0

/-- A multiple of 16 from 16 to 128. -/
def by16 (n : Nat) : Bool := n % 16 == 0 && decide (16 ≤ n) && decide (n ≤ 128)

/-- The shape and format that R66 admits for the kind. -/
def View.shapeOk (v : View) : Bool :=
  let within (n hi : Nat) : Bool := decide (1 ≤ n) && decide (n ≤ hi)
  match v.kind with
  | 1 => v.fmt != fCF32 && within v.rows 2048 && within v.cols 4096 && decide (v.rowBytes ≤ v.pitch) && v.pitch % 4 == 0 && v.layout == 0
  | 2 => within v.rows 256 && within v.cols 256 && decide (v.rowBytes ≤ v.pitch) && v.pitch % 32 == 0
  | 3 => (v.fmt == 4 || v.fmt == 13) && by16 v.rows && by16 v.cols && v.pitch == v.cols * 4 && v.layout == 0
  | 4 => v.fmt == fCF32 && by16 v.rows && by16 v.cols && v.pitch == v.cols * 8 && v.layout == 0
  | 5 => by16 v.rows && by16 v.cols && v.pitch == roundUp v.rowBytes 32
  | 6 => (v.fmt == 12 || v.fmt == 13) && within v.rows 128 && within v.cols 128 && v.pitch == 0 && v.layout == 0 && within v.maxrank 64
          && decide (256 ≤ v.poolsz) && v.poolsz % 256 == 0
  | _ => false

/-- The first check of R68: reserved values, reserved fields, R66. DESIGN CHOICE (log 97): a nonzero SCALEOFF without scales, and MAXRANK or POOLSZ that R64's table does not
allow, fail it too; BL and the scale format without scales are free (R64). -/
def viewKindOk (b : List Byte) : Bool :=
  let v := View.parse b
  if v.kind = 0 then b.take 32 |>.all (· == 0#8)
  else decide (v.kind ≤ 6) && v.bits != 0 && decide (v.scl < 16) && v.layout != 3 && decide (field b 3 1 < 2) && v.rank == 0 && field b 0x16 2 == 0
    && field b 0x1C 4 == 0 && (!v.signed || fmtInt v.fmt) && (v.layout != 0 || v.soff == 0) && (v.kind == 6 || (v.maxrank == 0 && v.poolsz == 0)) && v.shapeOk

/-- VSET's checks in order (R68): fault code and detail without the view's number. DESIGN CHOICE (log 98): the OFFSET of VIEW_BOUND is the first byte of the extent or of the
scales that lies outside the allocation (R258). -/
def viewCheck (b : List Byte) (alloc : Nat) : Option (Nat × DWord) :=
  let v := View.parse b
  if !viewKindOk b then some (0x05, 0)
  else if v.base % 256 ≠ 0 then some (0x06, BitVec.ofNat 64 v.base)
  else if v.soff % 4 ≠ 0 then some (0x06, BitVec.ofNat 64 v.soff)
  else if alloc < v.extentEnd then some (0x04, BitVec.ofNat 64 (max v.base alloc))
  else if v.layout ≠ 0 ∧ alloc < v.soff + v.scaleCount * v.scaleSize then some (0x04, BitVec.ofNat 64 (max v.soff alloc))
  else none

/-- VIEW_KIND naming a view register (R258, R456). -/
def vkFault (vw : Nat) : Trap := .fault 0x05 (BitVec.ofNat 64 vw)
/-- VIEW_BOUND for a row or column (R258). -/
def vbFault (vw row col : Nat) : Trap := .fault 0x04 (BitVec.ofNat 64 (0xFFFFFFFF + vw * 2 ^ 32 + min row 4095 * 2 ^ 36 + min col 4095 * 2 ^ 48))

/-- The view a pending MCHE.async or low-rank ASYNC operation names makes an instruction wait (R159, R172). -/
def State.viewHeld (s : State) (coh vw : Nat) : Option Trap :=
  (s.co coh).holds.findSome? fun h =>
    if h.1 = vw then (match s.findOp h.2.1 h.2.2 with
      | some o => if o.phase = .done then none else some (.wait (.future h.2.1 h.2.2) .none)
      | none => none)
    else none

/-- A view register as an instruction of the executing thread names it. -/
def State.viewOf (s : State) (f : Nat) (sel : BitVec 8) : Except Trap View :=
  match s.viewHeld s.cci (vwIdx sel) with
  | some t => .error t
  | none => .ok (s.vval f (vwIdx sel))

/-- Consecutive keys of tile space. -/
def tileKeys (uid off n : Nat) : List Nat := (List.range n).map fun i => tileKey uid (off + i)

/-- Read tile space by an agent in pieces (R63). -/
def State.tileRead (s : State) (a : Agent) (uid off n piece : Nat) : List Byte × State :=
  let r := s.loadBytes a (tileKeys uid off n) (max 1 piece)
  (r.1, r.2.2)

/-- Write tile space by an agent in pieces (R63). -/
def State.tileWrite (s : State) (a : Agent) (uid off : Nat) (bytes : List Byte) (piece : Nat) : State :=
  s.storeBytes a 0 off false (tileKeys uid off bytes.length) bytes (max 1 piece)

/-- The bytes of a view's rows and of its scales. -/
structure VData where
  rows : List (List Byte)
  scales : List Byte
  deriving DecidableEq, Repr

/-- Rows of a view in memory: a CACC view has two planes (R66). -/
def View.allRows (v : View) : Nat := if v.kind = 4 then 2 * v.rows else v.rows

/-- Read a list of rows, in pieces of an element, or of the 4 B of an engine transfer (R198). -/
def State.readRows (s : State) (a : Agent) (uid : Nat) (v : View) (is : List Nat) (piece : Nat := v.size) : List (List Byte) × State :=
  is.foldl (fun (r : List (List Byte) × State) i =>
    let (b, s1) := r.2.tileRead a uid (v.base + i * v.pitch) v.rowBytes piece
    (r.1 ++ [b], s1)) ([], s)

/-- Read a view's scales. -/
def State.readScales (s : State) (a : Agent) (uid : Nat) (v : View) : List Byte × State :=
  if v.layout = 0 then ([], s) else s.tileRead a uid v.soff (v.scaleCount * v.scaleSize) v.scaleSize

/-- Read a whole view. -/
def State.readView (s : State) (a : Agent) (uid : Nat) (v : View) : VData × State :=
  let (rows, s1) := s.readRows a uid v (List.range v.allRows)
  let (sc, s2) := s1.readScales a uid v
  ({ rows := rows, scales := sc }, s2)

/-- The element of `bits` bits at index `j` of packed bytes (R65). -/
def unpack (bits : Nat) (row : List Byte) (j : Nat) : Nat :=
  if bits = 4 then (nth 0#8 row (j / 2)).toNat / 16 ^ (j % 2) % 16 else field row (j * (bits / 8)) (bits / 8)

/-- Pack elements into bytes; an odd last nibble keeps the other nibble of `old` (R65, R70). -/
def packBytes (bits : Nat) (old : Byte) : List Nat → List Byte
  | [] => []
  | [x] => if bits = 4 then [BitVec.ofNat 8 (x % 16 + old.toNat / 16 * 16)] else toLE (bits / 8) x
  | x :: y :: r => if bits = 4 then BitVec.ofNat 8 (x % 16 + y % 16 * 16) :: packBytes bits old r else toLE (bits / 8) x ++ packBytes bits old (y :: r)

/-- Element (i, j) as bits. -/
def VData.elem (d : VData) (v : View) (i j : Nat) : Nat := unpack v.bits (nth [] d.rows i) j

/-- The bits of the scale of element (i, j). -/
def VData.scaleBits (d : VData) (v : View) (i j : Nat) : Nat := field d.scales (v.scaleIdx i j * v.scaleSize) v.scaleSize

/-- A scale's value and the flag of a signalling NaN (R112). -/
def scaleVal (v : View) (bits : Nat) : FNum × Flags := if v.scaleSize = 4 then (FF.fp32.value bits, FF.fp32.snanFlag bits) else (e8m0 bits, 0#5)

/-- The scale of element (i, j), 1 without scales. -/
def VData.scale (d : VData) (v : View) (i j : Nat) : FNum × Flags :=
  if v.layout = 0 then (.fin (Ex.pow2 0), 0#5) else scaleVal v (d.scaleBits v i j)

/-- Write whole rows of elements, in pieces of an element, or of the 4 B of an engine transfer (R70, R198). -/
def State.writeRow (s : State) (a : Agent) (uid : Nat) (v : View) (i : Nat) (vals : List Nat) (piece : Nat := v.size) : State :=
  let off := v.base + i * v.pitch
  let (old, s1) := if v.bits = 4 ∧ v.cols % 2 = 1 then s.tileRead a uid (off + v.rowBytes - 1) 1 1 else ([], s)
  s1.tileWrite a uid off (packBytes v.bits (old.headD 0#8) vals) piece

/-- Write rows from `first` on. -/
def State.writeRows (s : State) (a : Agent) (uid : Nat) (v : View) (first : Nat) (rows : List (List Nat)) (piece : Nat := v.size) : State :=
  (rows.foldl (fun (r : State × Nat) vals => (r.1.writeRow a uid v r.2 vals piece, r.2 + 1)) (s, first)).1

/-- Byte offset of element (i, j). -/
def View.elemOff (v : View) (i j : Nat) : Nat := v.base + i * v.pitch + j * v.bits / 8

/-- An element's exact value with the flag of a signalling NaN: a floating format, or an integer of the view's signedness. -/
def elemNum (fmt : Nat) (sg : Bool) (bits : Nat) : FNum × Flags :=
  match fmtFF fmt with
  | some f => (f.value bits, f.snanFlag bits)
  | none => (.fin (Ex.ofInt (readInt sg (fmtBits fmt) bits)), 0#5)

/-- A quotient by a scale: NaN with NV for a zero, infinite or NaN scale (R127, R161, R429). -/
def byScale (x s : FNum) : FNum × Bool :=
  match s with
  | .nan | .inf _ => (.nan, true)
  | .fin y => if y.m = 0 then (.nan, true) else ((x.quot s).1, false)

/-- round(exact(x / s), fmt): a refused scale raises NV and no other flag (R161, R429). -/
def divScale (f : FF) (mode : Rm) (sat : Bool) (x s : FNum × Flags) : Nat × Flags :=
  let q := byScale x.1 s.1
  if q.2 then (f.nanBits, NV)
  else
    let r := roundNum f mode sat q.1
    (r.1, r.2 ||| x.2)

/-- round(exact(x * s), fmt) (R112, R161, R429). -/
def mulScale (f : FF) (mode : Rm) (x s : FNum × Flags) (sat : Bool := false) : Nat × Flags :=
  let p := x.1.mul s.1
  let r := roundNum f mode sat p.1
  (r.1, r.2 ||| x.2 ||| s.2 ||| flagIf p.2 NV)

/-- Occupied pool bytes (R71). -/
def View.occupied (v : View) : Nat := if v.dense then v.rows * v.cols * v.size else (v.rows + v.cols) * v.rank * v.size
/-- Occupancy of a pool (R71). -/
def View.occupancy (v : View) : Nat := roundUp v.occupied 256
/-- Index of U[i][k] in a pool of rank `r` (R71). -/
def View.uIdx (v : View) (i k : Nat) : Nat := k * v.rows + i
/-- Index of V[j][k] in a pool of rank `r` (R71). -/
def View.vIdx (v : View) (r j k : Nat) : Nat := v.rows * r + k * v.cols + j

/-- The elements of a pool that are in use. -/
def State.readPool (s : State) (a : Agent) (uid : Nat) (v : View) : List Nat × State :=
  let (b, s1) := s.tileRead a uid v.base v.occupied v.size
  ((List.range (v.occupied / v.size)).map fun i => unpack v.bits b i, s1)

/-- The bytes of a matrix of numbers. -/
def elemsBytes (bits : Nat) (xs : List Nat) : List Byte := packBytes bits 0#8 xs

end Sys2Proof.Machine
end

