-- ==== Sys2Proof/Machine/ViewOps.lean ====
section
/-! DEFINITION. Instructions that read and write views: VSET, VGET, VLD, VST, VZERO, MCOPY, MTRANS, REQNT (R68, R69, R127, R160-R163, R361, R362, R372, R392, R393, R427-R433). -/

namespace Sys2Proof.Machine

/-- Four consecutive g registers as bytes. -/
def State.quadBytes (s : State) (r : Nat) : List Byte := (List.range 4).flatMap fun i => toLE 4 (s.cth.gv (r + i)).toNat

/-- VSET (R68, R432). -/
def execVset (o : Canon) (s : State) : Host.Outcome State Fault Refusal := run 0x80 o s fun s =>
  let i := vwIdx o.d
  match s.viewHeld s.cci i with
  | some t => .error t
  | none =>
    let b := s.quadBytes o.a.toNat ++ s.quadBytes o.b.toNat
    match viewCheck b s.cco.tileBytes with
    | some (0x05, _) => .error (vkFault i)
    | some (0x04, d) => .error (.fault 0x04 (d ||| BitVec.ofNat 64 (i * 2 ^ 32)))
    | some (c, d) => .error (.fault c d)
    | none => .ok (.fall, s.putV i (View.parse b))

/-- VGET (R427). -/
def execVget (o : Canon) (s : State) : Host.Outcome State Fault Refusal := run 0x81 o s fun s =>
  match s.viewOf 2 o.a with
  | .error t => .error t
  | .ok v =>
    let b := v.pack.drop (if o.mod.getLsbD 0 then 16 else 0)
    .ok (.fall, (List.range 4).foldl (fun st i => st.putG (o.d.toNat + i) (BitVec.ofNat 32 (field b (4 * i) 4))) s)

/-- Row and column of VLD and VST (R429). -/
def State.vRow (s : State) (o : Canon) : Nat := if o.mod.getLsbD 0 then (s.c32 o).toNat else 0
/-- Element count of VLD and VST. -/
def vCount (o : Canon) : Nat := 2 ^ bitsOf o.mod.toNat 2 1
/-- CVT of VLD and VST. -/
def vCvt (o : Canon) : Bool := o.mod.getLsbD 3

/-- The checks of VLD and VST in order (R429). DESIGN CHOICE (log 71): of several elements, COL of VIEW_BOUND is the last column, also when only the row fails, unless the first
column is itself beyond COLS. -/
def State.vCheck (s : State) (o : Canon) (v : View) : Option Trap :=
  let i := vwIdx o.b
  let n := vCount o
  let row := s.vRow o
  let col := (s.a32 o).toNat
  let cf := v.fmt == fCF32
  if !v.isPlain || (vCvt o && (fmtFF v.fmt).isNone) || (decide (32 < n * v.bits) && !(cf && n == 1)) || (cf && o.d.toNat % 2 == 1) then some (vkFault i)
  else if cf ∧ s.cco.gregs ≤ o.d.toNat + 1 then some (.fault 0x03 (BitVec.ofNat 64 ((o.d.toNat + 1) % 64 + 64)))
  else if v.rows ≤ row ∨ v.cols ≤ col + n - 1 then some (vbFault i row (if col < v.cols then col + n - 1 else col))
  else if col % n ≠ 0 then some (.fault 0x06 (BitVec.ofNat 64 (v.elemOff row col)))
  else none

/-- Read the scale of one element of a view. -/
def State.readScale (s : State) (a : Agent) (uid : Nat) (v : View) (i j : Nat) : (FNum × Flags) × State :=
  if v.layout = 0 then ((.fin (Ex.pow2 0), 0#5), s)
  else
    let (b, s1) := s.tileRead a uid (v.soff + v.scaleIdx i j * v.scaleSize) v.scaleSize v.scaleSize
    (scaleVal v (leNat b), s1)

/-- Read `n` consecutive elements as one number. -/
def State.readElems (s : State) (a : Agent) (uid : Nat) (v : View) (i j n : Nat) : Nat × State :=
  let len := ceilDiv (n * v.bits) 8
  let (b, s1) := s.tileRead a uid (v.elemOff i j) len len
  (leNat b / (if v.bits = 4 ∧ j % 2 = 1 then 16 else 1) % 2 ^ (n * v.bits), s1)

/-- Write `n` consecutive elements from one number; one 4-bit element writes its whole byte (R70). -/
def State.writeElems (s : State) (a : Agent) (uid : Nat) (v : View) (i j n x : Nat) : State :=
  let off := v.elemOff i j
  if v.bits = 4 ∧ n = 1 then
    let (b, s1) := s.tileRead a uid off 1 1
    let old := leNat b
    s1.tileWrite a uid off [BitVec.ofNat 8 (if j % 2 = 1 then old % 16 + x % 16 * 16 else old / 16 * 16 + x % 16)] 1
  else s.tileWrite a uid off (toLE (n * v.bits / 8) x) (n * v.bits / 8)

/-- VLD body (R429). -/
def vldBody (o : Canon) : Body := fun s =>
  match s.viewOf 3 o.b with
  | .error t => .error t
  | .ok v =>
    match s.vCheck o v with
    | some t => .error t
    | none =>
      let a : Agent := .thread s.me
      let uid := s.cco.uid
      let row := s.vRow o
      let col := (s.a32 o).toNat
      let n := vCount o
      let (x, s1) := s.readElems a uid v row col n
      if vCvt o then
        let (sc, s2) := s1.readScale a uid v row col
        .ok (.fall, s2.putF o.d (mulScale .fp32 (s.rm (bitsOf o.mod.toNat 7 5)) (elemNum v.fmt v.signed x) sc))
      else if v.fmt = fCF32 then .ok (.fall, s1.put64 o.d (BitVec.ofNat 64 x))
      else .ok (.fall, s1.put32 o.d (if n = 1 ∧ v.signed then BitVec.ofInt 32 (readInt true v.bits x) else BitVec.ofNat 32 x))

/-- VST body (R429). -/
def vstBody (o : Canon) : Body := fun s =>
  match s.viewOf 3 o.b with
  | .error t => .error t
  | .ok v =>
    match s.vCheck o v with
    | some t => .error t
    | none =>
      let a : Agent := .thread s.me
      let uid := s.cco.uid
      let row := s.vRow o
      let col := (s.a32 o).toNat
      let n := vCount o
      if v.fmt = fCF32 then
        match s.unsettled s.me (o.d.toNat + 1) with
        | some w => .error (.wait (.future w.core w.serial) .none)
        | none =>
          let s1 := s.settle s.me (o.d.toNat + 1)
          .ok (.fall, s1.writeElems a uid v row col 1 (s1.cth.pairv o.d.toNat).toNat)
      else if vCvt o then
        match fmtFF v.fmt with
        | some f =>
          let (sc, s1) := s.readScale a uid v row col
          let r := divScale f (s.rm (bitsOf o.mod.toNat 7 5)) (o.mod.getLsbD 4) (elemNum 13 false (s.d32 o).toNat) sc
          .ok (.fall, (s1.writeElems a uid v row col 1 r.1).raise r.2)
        | none => .error (vkFault (vwIdx o.b))
      else .ok (.fall, s.writeElems a uid v row col n ((s.d32 o).toNat % 2 ^ (n * v.bits)))

/-- VLD (R428). -/
def execVld (o : Canon) (s : State) : Host.Outcome State Fault Refusal := run 0x82 o s (vldBody o)
/-- VLD of row 0, short form (R92). -/
def execVldShort (g : BitVec 4) (d a : BitVec 6) (vw : BitVec 4) (s : State) : Host.Outcome State Fault Refusal :=
  run 0x82 (Short.view g d a vw) s (vldBody (Short.view g d a vw))
/-- VST (R428). -/
def execVst (o : Canon) (s : State) : Host.Outcome State Fault Refusal := run 0x83 o s (vstBody o)
/-- VST of row 0, short form (R92). -/
def execVstShort (g : BitVec 4) (d a : BitVec 6) (vw : BitVec 4) (s : State) : Host.Outcome State Fault Refusal :=
  run 0x83 (Short.view g d a vw) s (vstBody (Short.view g d a vw))

/-- VZERO (R433). -/
def execVzero (o : Canon) (s : State) : Host.Outcome State Fault Refusal := run 0x84 o s fun s =>
  match s.viewOf 1 o.d with
  | .error t => .error t
  | .ok v =>
    if !v.isPlain then .error (vkFault (vwIdx o.d))
    else .ok (.fall, (List.range v.rows).foldl (fun st i =>
      st.tileWrite (.thread s.me) s.cco.uid (v.base + i * v.pitch) (List.replicate v.rowBytes 0#8) v.size) s)

/-- A scratchpad access by the cohort's own thread: the fault of R176, R180. -/
def Cohort.scrFail (c : Cohort) (off n : Nat) : Option Trap :=
  if n = 0 ∨ off + n ≤ c.scrBytes then none else some (.fault 0x07 (scrDetail c.spanPos (max off c.scrBytes)))

/-- Consecutive keys of a scratchpad. -/
def scrKeys (uid off n : Nat) : List Nat := (List.range n).map fun i => scrKey uid (off + i)

/-- Read a scratchpad by an agent in pieces. -/
def State.scrRead (s : State) (a : Agent) (uid off n piece : Nat) : List Byte × State :=
  let r := s.loadBytes a (scrKeys uid off n) (max 1 piece)
  (r.1, r.2.2)

/-- Write a scratchpad by an agent in pieces. -/
def State.scrWrite (s : State) (a : Agent) (uid off : Nat) (bytes : List Byte) (piece : Nat) : State :=
  s.storeBytes a 0 off false (scrKeys uid off bytes.length) bytes (max 1 piece)

/-- How MCOPY converts an element (R161). -/
inductive CopyConv where
  | int
  | real
  | cplx
  | cplxReal
  deriving DecidableEq, Repr

/-- What MCOPY copies: the matrix view and its register, the plain view (of the scratchpad's format when `scr`), direction, PART, conversion,
columns and rows (R160-R162). -/
structure CopyPlan where
  mv : View
  mi : Nat
  pv : View
  pi : Nat
  scr : Bool
  toMat : Bool
  part : Nat
  conv : CopyConv
  cols : Nat
  first : Nat
  count : Nat
  deriving DecidableEq, Repr

/-- The pairing of R161; none when the formats do not pair. -/
def copyConv (mv pv : View) (toMat : Bool) : Option CopyConv :=
  if mv.kind = 4 then
    if pv.fmt = fCF32 then some .cplx else if !toMat && (fmtFF pv.fmt).isSome then some .cplxReal else none
  else if mv.kind = 3 ∧ mv.fmt = 4 then (if fmtInt pv.fmt then some .int else none)
  else if (mv.kind = 3 ∨ mv.kind = 6) ∧ (fmtFF pv.fmt).isSome then some .real
  else none

/-- Columns of a copy on the matrix side (R162). -/
def copyCols (mv pv : View) (scr toMat : Bool) (part : Nat) : Nat :=
  if mv.kind = 6 then (if toMat && part == 1 then (if scr then mv.maxrank else pv.cols) else mv.rank) else mv.cols

/-- The rules of R160 to R162 that VIEW_KIND guards. -/
def copyKindOk (mv pv : View) (scr toMat : Bool) (part : Nat) : Bool :=
  mv.isMatrix && (scr || pv.isPlain) && (copyConv mv pv toMat).isSome && (mv.kind == 6) == (part != 0)
    && (mv.kind != 6 || (if toMat then part == 1 || (decide (1 ≤ mv.rank) && !mv.dense) else !mv.dense))
    && (scr || pv.cols == copyCols mv pv scr toMat part)

/-- MCOPY's d view breaks a rule by itself (R456). -/
def copyOwnFail (dv : View) (toMat : Bool) (part : Nat) : Bool :=
  if toMat && dv.isMatrix then (dv.kind == 6) != (part != 0) || (dv.kind == 6 && part == 2 && (decide (dv.rank < 1) || dv.dense))
  else !(dv.isPlain || dv.isMatrix) || (dv.isPlain && dv.fmt == fCB4)

/-- Rows of the matrix side: m for U, n for V (R160, R162). -/
def CopyPlan.mrows (p : CopyPlan) : Nat := if p.mv.kind = 6 ∧ p.part = 2 then p.mv.cols else p.mv.rows

/-- MCOPY's plan, or VIEW_KIND or VIEW_BOUND (R160-R162, R362). -/
def State.copyPlan (s : State) (o : Canon) : Except Trap CopyPlan := do
  let m := o.mod.toNat
  let dir := m % 4
  let part := bitsOf m 7 6
  let dv ← if dir = 1 then pure View.null else s.viewOf 1 o.d
  let av ← if dir = 2 then pure View.null else s.viewOf 2 o.a
  let toMat : Bool := dir == 2 || (dir == 0 && !av.isMatrix)
  let area : View := { View.null with fmt := bitsOf m 5 2, signed := true }
  let mv := if toMat then dv else av
  let pv := if dir = 0 then (if toMat then av else dv) else area
  let scr : Bool := dir != 0
  let mi := if toMat then vwIdx o.d else vwIdx o.a
  let pi := if toMat then vwIdx o.a else vwIdx o.d
  if !copyKindOk mv pv scr toMat part then
    .error (vkFault (if dir == 2 || (dir == 0 && copyOwnFail dv toMat part) then vwIdx o.d else vwIdx o.a))
  else
    let first := (s.b32 o).toNat
    let given := (s.c32 o).toNat
    let p : CopyPlan := { mv := mv, mi := mi, pv := pv, pi := pi, scr := scr, toMat := toMat, part := part, conv := (copyConv mv pv toMat).getD .real,
                          cols := copyCols mv pv scr toMat part, first := first, count := given }
    let count := if given = 0 then (if toMat && !scr then pv.rows else p.mrows) - first else given
    let sides := if scr then [(mi, p.mrows)] else if toMat then [(mi, p.mrows), (pi, pv.rows)] else [(pi, pv.rows), (mi, p.mrows)]
    match sides.find? fun x => decide (x.2 < first + max count 1) with
    | some x => .error (vbFault x.1 (max first x.2) 0)
    | none => .ok { p with count := count }

/-- Row bytes of a scratchpad area (R160). -/
def CopyPlan.areaRow (p : CopyPlan) : Nat := roundUp (ceilDiv (p.cols * p.pv.bits) 8) 4

/-- Rows that a copy names. -/
def CopyPlan.rowList (p : CopyPlan) : List Nat := (List.range p.count).map (p.first + ·)

/-- Pool index of element (i, k) of the part (R71). -/
def CopyPlan.poolIdx (p : CopyPlan) (i k : Nat) : Nat := if p.part = 1 then p.mv.uIdx i k else p.mv.vIdx p.cols i k

/-- Read the elements of one row of the matrix side; a CACC row gives hi and lo bits. -/
def State.copyReadMat (s : State) (a : Agent) (uid : Nat) (p : CopyPlan) (i : Nat) : List (Nat × Nat) × State :=
  if p.mv.kind = 6 then
    (List.range p.cols).foldl (fun (r : List (Nat × Nat) × State) k =>
      let (b, s1) := r.2.tileRead a uid (p.mv.base + p.poolIdx i k * p.mv.size) p.mv.size p.mv.size
      (r.1 ++ [(leNat b, 0)], s1)) ([], s)
  else
    let (hi, s1) := s.tileRead a uid (p.mv.base + i * p.mv.pitch) p.mv.rowBytes p.mv.size
    let (lo, s2) := if p.mv.kind = 4 then s1.tileRead a uid (p.mv.base + (p.mv.rows + i) * p.mv.pitch) p.mv.rowBytes p.mv.size else ([], s1)
    ((List.range p.cols).map fun j => (unpack p.mv.bits hi j, if p.mv.kind = 4 then unpack p.mv.bits lo j else 0), s2)

/-- Read the scales of one row of a view, in ascending block. -/
def State.readRowScales (s : State) (a : Agent) (uid : Nat) (v : View) (i : Nat) : List (FNum × Flags) × State :=
  if v.layout = 0 then ([], s)
  else (List.range (ceilDiv v.cols v.bl)).foldl (fun (r : List (FNum × Flags) × State) q =>
    let (x, s1) := r.2.readScale a uid v i (q * v.bl)
    (r.1 ++ [x], s1)) ([], s)

/-- The scale of column `j` among a row's scales. -/
def rowScale (v : View) (xs : List (FNum × Flags)) (j : Nat) : FNum × Flags := if v.layout = 0 then (.fin (Ex.pow2 0), 0#5) else nth (.nan, 0#5) xs (j / v.bl)

/-- The value MCOPY writes to a plain element (R161); .sat holds for every floating-point destination (R116, log 78). DESIGN CHOICE (log 77): a scale of a CF32 or an integer
destination view is ignored. -/
def copyOut (p : CopyPlan) (mode : Rm) (sat : Bool) (x : Nat × Nat) (sc : FNum × Flags) : Nat × Flags :=
  let sum (a b : Nat) : FNum × Flags :=
    let q := (FF.fp32.value (a % 2 ^ 32)).add (FF.fp32.value (b % 2 ^ 32))
    (q.1, flagIf q.2 NV ||| FF.fp32.snanFlag (a % 2 ^ 32) ||| FF.fp32.snanFlag (b % 2 ^ 32))
  let f := (fmtFF p.pv.fmt).getD .fp32
  match p.conv with
  | .int =>
    let v := readInt true 32 x.1
    (wrapInt p.pv.bits (if sat then satInt p.pv.signed p.pv.bits v else v), 0#5)
  | .real => divScale f mode sat (elemNum p.mv.fmt false x.1) sc
  | .cplx =>
    let part (a b : Nat) : Nat × Flags := let q := sum a b; let r := roundNum .fp32 mode sat q.1; (r.1, r.2 ||| q.2)
    let re := part x.1 x.2
    let im := part (x.1 / 2 ^ 32) (x.2 / 2 ^ 32)
    (re.1 + im.1 * 2 ^ 32, re.2 ||| im.2)
  | .cplxReal => divScale f mode sat (sum x.1 x.2) sc

/-- The value MCOPY writes to a matrix element: hi and lo of a CACC element (R161); .sat holds for every floating-point destination (R116, log 78). -/
def copyIn (p : CopyPlan) (mode : Rm) (sat : Bool) (x : Nat) (sc : FNum × Flags) : Nat × Flags :=
  match p.conv with
  | .int => (wrapInt 32 (readInt p.pv.signed p.pv.bits x), 0#5)
  | .real => mulScale ((fmtFF p.mv.fmt).getD .fp32) mode (elemNum p.pv.fmt false x) sc sat
  | _ => (x, 0#5)

/-- Read one row of the plain side with its scales. DESIGN CHOICE (log 99): a scratchpad area begins with the first row that is copied (R160). -/
def State.copyReadPlain (s : State) (a : Agent) (uid : Nat) (p : CopyPlan) (area i : Nat) : List Nat × List (FNum × Flags) × State :=
  if p.scr then
    let (b, s1) := s.scrRead a uid (area + (i - p.first) * p.areaRow) (ceilDiv (p.cols * p.pv.bits) 8) p.pv.size
    ((List.range p.cols).map (unpack p.pv.bits b), [], s1)
  else
    let (b, s1) := s.tileRead a uid (p.pv.base + i * p.pv.pitch) p.pv.rowBytes p.pv.size
    let (sc, s2) := s1.readRowScales a uid p.pv i
    ((List.range p.cols).map (unpack p.pv.bits b), sc, s2)

/-- Write one row of the plain side. -/
def State.copyWritePlain (s : State) (a : Agent) (uid : Nat) (p : CopyPlan) (area i : Nat) (vals : List Nat) : State :=
  if p.scr then
    let off := area + (i - p.first) * p.areaRow
    let len := ceilDiv (p.cols * p.pv.bits) 8
    let (old, s1) := if p.pv.bits = 4 ∧ p.cols % 2 = 1 then s.scrRead a uid (off + len - 1) 1 1 else ([], s)
    s1.scrWrite a uid off (packBytes p.pv.bits (old.headD 0#8) vals) p.pv.size
  else s.writeRow a uid p.pv i vals

/-- Write rows of a factor part: a new rank or a dense pool clears what is not written (R162). -/
def State.copyWriteFact (s : State) (a : Agent) (uid : Nat) (p : CopyPlan) (rows : List (Nat × List Nat)) : State :=
  let put (st : State) (idx v : Nat) : State := st.tileWrite a uid (p.mv.base + idx * p.mv.size) (toLE p.mv.size v) p.mv.size
  let s1 := if p.part = 1 ∧ (p.cols ≠ p.mv.rank ∨ p.mv.dense) then
      ((List.range ((p.mv.rows + p.mv.cols) * p.cols)).foldl (fun st k => put st k 0) s).putV p.mi { p.mv with rank := p.cols, dense := false }
    else s
  rows.foldl (fun st r => (r.2.zip (List.range r.2.length)).foldl (fun st x => put st (p.poolIdx r.1 x.2) x.1) st) s1

/-- MCOPY's effect once its checks have passed (R70, R161, R162). -/
def State.copyRows (s : State) (p : CopyPlan) (mode : Rm) (sat : Bool) (area : Nat) : State :=
  let a : Agent := .thread s.me
  let uid := s.cco.uid
  if p.toMat then
    let (rows, fl, s1) := p.rowList.foldl (fun (r : List (Nat × List Nat) × Flags × State) i =>
      let (xs, sc, st) := r.2.2.copyReadPlain a uid p area i
      let ys := (xs.zip (List.range xs.length)).map fun x => copyIn p mode sat x.1 (rowScale p.pv sc x.2)
      (r.1 ++ [(i, ys.map (·.1))], ys.foldl (fun f y => f ||| y.2) r.2.1, st)) ([], 0#5, s)
    let s2 := if p.mv.kind = 6 then s1.copyWriteFact a uid p rows
      else rows.foldl (fun st r =>
        let st1 := st.writeRow a uid p.mv r.1 r.2
        if p.mv.kind = 4 then st1.writeRow a uid p.mv (p.mv.rows + r.1) (List.replicate p.mv.cols 0) else st1) s1
    s2.raise fl
  else
    let (rows, fl, s1) := p.rowList.foldl (fun (r : List (Nat × List Nat) × Flags × State) i =>
      let (xs, st) := r.2.2.copyReadMat a uid p i
      let (sc, st1) := if p.scr then ([], st) else st.readRowScales a uid p.pv i
      let ys := (xs.zip (List.range xs.length)).map fun x => copyOut p mode sat x.1 (rowScale p.pv sc x.2)
      (r.1 ++ [(i, ys.map (·.1))], ys.foldl (fun f y => f ||| y.2) r.2.1, st1)) ([], 0#5, s)
    (rows.foldl (fun st r => st.copyWritePlain a uid p area r.1 r.2) s1).raise fl

/-- RANK_OVERFLOW (R171). DEDUCED (log 35): NEED is the low 8 bits of the rank that is needed. -/
def rankFault (need maxrank vw : Nat) : Nat × DWord := (0x0F, BitVec.ofNat 64 (need % 256 + maxrank % 128 * 2 ^ 8 + vw * 2 ^ 16))
/-- FACTOR_SPACE (R171). -/
def spaceFault (need vw : Nat) : Nat × DWord := (0x10, BitVec.ofNat 64 (need % 2 ^ 20 + vw * 2 ^ 20))

/-- RANK_OVERFLOW and FACTOR_SPACE of a write of U (R162). -/
def CopyPlan.spaceFail (p : CopyPlan) : Option Trap :=
  if p.toMat ∧ p.mv.kind = 6 ∧ p.part = 1 then
    if p.mv.maxrank < p.cols then some (.fault (rankFault p.cols p.mv.maxrank p.mi).1 (rankFault p.cols p.mv.maxrank p.mi).2)
    else
      let need := roundUp ((p.mv.rows + p.mv.cols) * p.cols * p.mv.size) 256
      if p.mv.poolsz < need then some (.fault (spaceFault need p.mi).1 (spaceFault need p.mi).2) else none
  else none

/-- MCOPY (R160-R162, R361, R362). -/
def execMcopy (o : Canon) (s : State) : Host.Outcome State Fault Refusal := run 0x95 o s fun s => do
  let p ← s.copyPlan o
  let m := o.mod.toNat
  let area := ((if m % 4 = 1 then s.d32 o else s.a32 o) + o.imm).toNat
  if p.scr && area % 4 != 0 then .error (.fault 0x06 (BitVec.ofNat 64 area))
  else match (if p.scr then s.cco.scrFail area (p.count * p.areaRow) else none) with
  | some t => .error t
  | none =>
    match p.spaceFail with
    | some t => .error t
    | none => .ok (.fall, s.copyRows p (s.rm (bitsOf m 11 9)) (bitOf m 8) area)

/-- Transpose of a table. -/
def transpose (rows cols : Nat) (e : Nat → Nat → Nat) : List (List Nat) := (List.range cols).map fun j => (List.range rows).map fun i => e i j

/-- MTRANS (R163, R372). -/
def execMtrans (o : Canon) (s : State) : Host.Outcome State Fault Refusal := run 0x96 o s fun s => do
  let d ← s.viewOf 1 o.d
  let v ← s.viewOf 2 o.a
  let shape (x : View) : Bool := x.kind == 2 || x.kind == 5
  if !shape d || d.layout == 1 then .error (vkFault (vwIdx o.d))
  else if !shape v || d.fmt != v.fmt || d.signed != v.signed || d.scl != v.scl || d.rows != v.cols || d.cols != v.rows then .error (vkFault (vwIdx o.a))
  else
    let a : Agent := .thread s.me
    let uid := s.cco.uid
    let (x, s1) := s.readView a uid v
    let s2 := s1.writeRows a uid d 0 (transpose v.rows v.cols (x.elem v))
    let nr := ceilDiv v.rows v.bl
    let nc := ceilDiv v.cols v.bl
    let sc := (transpose nr nc fun p q => field x.scales ((p * nc + q) * v.scaleSize) v.scaleSize).flatMap fun r => r.flatMap (toLE v.scaleSize)
    .ok (.fall, if v.layout = 0 then s2 else s2.tileWrite a uid d.soff sc d.scaleSize)

/-- An element moved to a new scale (R127). -/
def requant (f : FF) (mode : Rm) (sat : Bool) (x sOld sNew : FNum × Flags) : Nat × Flags :=
  let p := x.1.mul sOld.1
  let bad := sOld.1.isNan || (byScale p.1 sNew.1).2
  let r := roundNum f mode (sat && f == .e5m2) (if bad then .nan else (byScale p.1 sNew.1).1)
  (r.1, r.2 ||| flagIf (bad || p.2) NV ||| x.2 ||| sOld.2 ||| sNew.2)

/-- REQNT's views: VEC, TILE or OPND, a floating format, equal shapes (R393). -/
def reqntFail (d a : View) (di ai : Nat) : Option Trap :=
  if !d.isPlain || (fmtFF d.fmt).isNone then some (vkFault di)
  else if !a.isPlain || (fmtFF a.fmt).isNone || d.rows != a.rows || d.cols != a.cols then some (vkFault ai)
  else none

/-- REQNT's effect (R393). -/
def teamReqnt : TeamEffect := fun c s => do
  let o := c.pt.word
  let d ← s.viewOf 1 o.d
  let v ← s.viewOf 2 o.a
  match reqntFail d v (vwIdx o.d) (vwIdx o.a) with
  | some t => .error t
  | none =>
    let ag : Agent := .thread s.me
    let uid := s.cco.uid
    let mode := s.rm (bitsOf o.mod.toNat 2 0)
    let f := (fmtFF d.fmt).getD .fp32
    let s0 := s.joinTeam c
    let (x, s1) := s0.readView ag uid v
    let (sc, s2) := s1.readScales ag uid d
    let dd : VData := { rows := [], scales := sc }
    let ys := (List.range d.rows).map fun i => (List.range d.cols).map fun j =>
      requant f mode (o.mod.getLsbD 4) (elemNum v.fmt false (x.elem v i j)) (x.scale v i j) (dd.scale d i j)
    let fl := ys.foldl (fun f r => r.foldl (fun f y => f ||| y.2) f) 0#5
    .ok (.resume (c.raise ((s2.writeRows ag uid d 0 (ys.map fun r => r.map (·.1))).joinAll [s.me] c.ms) fl))

/-- REQNT (R392). -/
def execReqnt (o : Canon) (s : State) : Host.Outcome State Fault Refusal := run 0x85 o s (signBody 0x85 o 4 false (fun _ => []) teamReqnt)

end Sys2Proof.Machine
end

