-- ==== Sys2Proof/Machine/Mem.lean ====
section
/-! DEFINITION. Loads, stores, acquire and release, atomics, RED, fences, scratchpad access and PREF (R290-R293, R324, R346-R351, R384, R389-R391, R404-R407). -/

namespace Sys2Proof.Machine

/-- W of mod [2:0] (R347). -/
def wOf (o : Canon) : Nat := bitsOf o.mod.toNat 2 0

/-- The address of a load or a store (R348, R405). -/
def State.memAddr (s : State) (o : Canon) (indexed : Bool) : DWord :=
  let ix : Int := if indexed then (s.b32 o).toInt * 2 ^ bitsOf o.mod.toNat 8 7 else 0
  ea (s.a64 o) (ix + o.imm.toInt)

/-- The address of an atomic: displacement only (R291). -/
def State.dispAddr (s : State) (o : Canon) : DWord := ea (s.a64 o) o.imm.toInt

/-- ALIGN of a global access (R258). -/
def alignFault (ptr : DWord) : Trap := .fault 0x06 ptr

/-- Write a loaded value of 2^W bytes to d (R348). -/
def State.deliver (s : State) (d : BitVec 8) (w : Nat) (sg : Bool) (bytes : List Byte) : State :=
  let v := leNat bytes
  if w = 4 then (List.range 4).foldl (fun st i => st.putG (d.toNat + i) (BitVec.ofNat 32 (v / 2 ^ (32 * i)))) s
  else if w = 3 then s.put64 d (BitVec.ofNat 64 v)
  else s.put32 d (if sg then BitVec.ofInt 32 (readInt true (8 * 2 ^ w) v) else BitVec.ofNat 32 v)

/-- The bytes a store writes (R405). -/
def State.storeData (s : State) (d : BitVec 8) (w : Nat) : List Byte := (toLE 16 (leNat (s.quadBytes d.toNat))).take (2 ^ w)

/-- A load (R348). -/
def loadBody (o : Canon) (indexed : Bool) : Body := fun s => do
  let n := 2 ^ wOf o
  let ptr := s.memAddr o indexed
  if ptrOff ptr % n ≠ 0 then .error (alignFault ptr)
  else
    let (bytes, _, s1) ← s.readMem s.tctx ptr n (min n 8)
    .ok (.fall, s1.deliver o.d (wOf o) (o.mod.getLsbD 3) bytes)

/-- An acquire load of placed bytes: it is never predicted, and takes in what has become visible at its scope (R203, R205, R349). -/
def State.acquireHere (s : State) (c : Ctx) (scope : Nat) (ls : List Loc) : List Byte × State :=
  let s1 := (s.forceReds c.agent (some (keysOf ls))).promise c.agent c.part scope (keysOf ls)
  let (bytes, ws, s2) := ({ s1 with guess := none } : State).loadPiece c.agent (keysOf ls) true (vaOf ls)
  (s.unmask c.part ls bytes, ({ s2 with guess := s.guess } : State).see c.agent (s2.learn c.agent c.part scope ws))

/-- LDACQ's read (R349). -/
def State.acquireRead (s : State) (c : Ctx) (ptr : DWord) (n scope : Nat) : Except Trap (List Byte × State) := do
  let (tg, s1) ← s.port c .read ptr n
  match tg with
  | .away node part va off =>
    let bytes ← s1.remote c.agent node part va off 0 n (ordMod true false scope) []
    .ok (bytes, s1.remoteLearn c.agent node part va 0 n)
  | .here ls =>
    s1.guardLocs c .read ptr ls
    .ok (s1.acquireHere c scope ls)

/-- LD, k base (R346). -/
def execLdKBase (o : Canon) (s : State) : Host.Outcome State Fault Refusal := run 0x60 o s (loadBody o false)
/-- LD.w32, short form (R92). -/
def execLdW32Short (g : BitVec 4) (d : BitVec 6) (k : BitVec 5) (n : BitVec 8) (s : State) : Host.Outcome State Fault Refusal :=
  run 0x60 (Short.memk g d k n 2 4) s (loadBody (Short.memk g d k n 2 4) false)
/-- LD.w64, short form (R92). -/
def execLdW64Short (g : BitVec 4) (d : BitVec 6) (k : BitVec 5) (n : BitVec 8) (s : State) : Host.Outcome State Fault Refusal :=
  run 0x60 (Short.memk g d k n 3 8) s (loadBody (Short.memk g d k n 3 8) false)
/-- LD, g base indexed (R346). -/
def execLdGBaseIndexed (o : Canon) (s : State) : Host.Outcome State Fault Refusal := run 0x61 o s (loadBody o true)
/-- LDACQ (R349). -/
def execLdacq (o : Canon) (s : State) : Host.Outcome State Fault Refusal := run 0x64 o s fun s => do
  let n := 2 ^ wOf o
  let ptr := s.memAddr o true
  if ptrOff ptr % n ≠ 0 then .error (alignFault ptr)
  else
    let (bytes, s1) ← s.acquireRead s.tctx ptr n (bitsOf o.mod.toNat 11 9)
    .ok (.fall, s1.deliver o.d (wOf o) (o.mod.getLsbD 3) bytes)

/-- A store (R405). -/
def storeBody (o : Canon) (indexed : Bool) : Body := fun s => do
  let n := 2 ^ wOf o
  let ptr := s.memAddr o indexed
  if ptrOff ptr % n ≠ 0 then .error (alignFault ptr)
  else
    let s1 ← s.writeMem s.tctx ptr (s.storeData o.d (wOf o)) (min n 8)
    .ok (.fall, s1)

/-- ST, k base (R404). -/
def execStKBase (o : Canon) (s : State) : Host.Outcome State Fault Refusal := run 0x62 o s (storeBody o false)
/-- ST.w32, short form (R92). -/
def execStW32Short (g : BitVec 4) (d : BitVec 6) (k : BitVec 5) (n : BitVec 8) (s : State) : Host.Outcome State Fault Refusal :=
  run 0x62 (Short.memk g d k n 2 4) s (storeBody (Short.memk g d k n 2 4) false)
/-- ST.w64, short form (R92). -/
def execStW64Short (g : BitVec 4) (d : BitVec 6) (k : BitVec 5) (n : BitVec 8) (s : State) : Host.Outcome State Fault Refusal :=
  run 0x62 (Short.memk g d k n 3 8) s (storeBody (Short.memk g d k n 3 8) false)
/-- ST, g base indexed (R404). -/
def execStGBaseIndexed (o : Canon) (s : State) : Host.Outcome State Fault Refusal := run 0x63 o s (storeBody o true)

/-- The release's own write counts among what it makes visible (R205, R210). -/
def State.ownWrite (s : State) (scope w : Nat) : State := s.pinSide (.thread s.me) scope [w]

/-- A plain write of placed bytes that is a release at a scope (R205, R210, R406). -/
def State.releaseWrite (s : State) (c : Ctx) (scope : Nat) (ls : List Loc) (bytes : List Byte) : State :=
  let (known, s1) := s.releaseBy s.me scope
  let w := s1.prov.next
  let s2 := s1.encWrite c.part ls
  (s2.storePiece c.agent c.part (vaOf ls) (sideOf ls) (keysOf ls) (s2.unmask c.part ls bytes) false
    [{ agent := c.agent, part := c.part, scope := scope, known := known }] []).ownWrite scope w

/-- STREL (R406): the write is a release at SCOPE. -/
def execStrel (o : Canon) (s : State) : Host.Outcome State Fault Refusal := run 0x65 o s fun s => do
  let n := 2 ^ wOf o
  let ptr := s.memAddr o true
  let scope := bitsOf o.mod.toNat 11 9
  if ptrOff ptr % n ≠ 0 then .error (alignFault ptr)
  else
    let bytes := s.storeData o.d (wOf o)
    let c := s.tctx
    let (tg, s1) ← s.port c .write ptr n
    match tg with
    | .away node part va off =>
      let _ ← s1.remote c.agent node part va off 1 n (ordMod false true scope) bytes
      .ok (.fall, (s1.releaseBy s.me scope).2)
    | .here ls =>
      s1.guardLocs c .write ptr ls
      .ok (.fall, s1.releaseWrite c scope ls bytes)

/-- The cohort of a launch with a linear index; one that was flushed and has started again as another one is no longer it (R252). -/
def State.cohortAt (s : State) (part seq lin : Nat) : Option Cohort :=
  s.cohorts.find? fun x => x.part == part && x.seq == seq && x.lin == lin && !x.replaced

/-- The fault of LDS in the form that names a span member (R351). -/
def State.peer (s : State) (member : Nat) (off : Nat) : Except Trap Cohort :=
  let c := s.cco
  if c.spanSize ≤ member then .error (.fault 0x09 (scrDetail member off))
  else if member = c.spanPos then .ok c
  else .ok ((s.cohortAt c.part c.seq (c.lin / c.spanSize * c.spanSize + member)).getD Cohort.none_)

/-- Bytes that the spec leaves open. -/
def State.freeBytes (s : State) (n : Nat) : List Byte × State := ((List.range n).map fun i => Config.freeByte (s.count + i), { s with count := s.count + n })

/-- A scratchpad load (R351). -/
def ldsBody (o : Canon) (member : Option Nat) : Body := fun s => do
  let n := 2 ^ wOf o
  let off := (s.a32 o + o.imm).toNat
  if off % n ≠ 0 then .error (.fault 0x06 (BitVec.ofNat 64 off))
  else
    let c ← match member with | some m => s.peer m off | none => .ok s.cco
    match c.scrFail off n with
    | some (.fault code _) => .error (.fault code (scrDetail (member.getD c.spanPos) (max off c.scrBytes)))
    | some t => .error t
    | none =>
      let (bytes, s1) := if c.place = .gone then s.freeBytes n else s.scrRead (.thread s.me) c.uid off n (min n 8)
      .ok (.fall, s1.deliver o.d (wOf o) (o.mod.getLsbD 3) bytes)

/-- LDS (R350). -/
def execLds (o : Canon) (s : State) : Host.Outcome State Fault Refusal := run 0x66 o s (ldsBody o none)
/-- LDS.w32, short form (R92). -/
def execLdsShort (g : BitVec 4) (d a : BitVec 6) (n : BitVec 8) (s : State) : Host.Outcome State Fault Refusal :=
  run 0x66 (Short.mems g d a n) s (ldsBody (Short.mems g d a n) none)
/-- LDS of a span member's scratchpad (R350). -/
def execLdsQuadPeer (o : Canon) (s : State) : Host.Outcome State Fault Refusal := run 0x67 o s (ldsBody o (some (bitsOf o.mod.toNat 13 12)))

/-- A scratchpad store (R407). -/
def stsBody (o : Canon) : Body := fun s =>
  let n := 2 ^ wOf o
  let off := (s.a32 o + o.imm).toNat
  if off % n ≠ 0 then .error (.fault 0x06 (BitVec.ofNat 64 off))
  else match s.cco.scrFail off n with
  | some t => .error t
  | none => .ok (.fall, s.scrWrite (.thread s.me) s.cco.uid off (s.storeData o.d (wOf o)) (min n 8))

/-- STS (R407). -/
def execSts (o : Canon) (s : State) : Host.Outcome State Fault Refusal := run 0x68 o s (stsBody o)
/-- STS.w32, short form (R92). -/
def execStsShort (g : BitVec 4) (d a : BitVec 6) (n : BitVec 8) (s : State) : Host.Outcome State Fault Refusal :=
  run 0x68 (Short.mems g d a n) s (stsBody (Short.mems g d a n))

/-- TYPE of an atomic (R290). -/
def atomType (o : Canon) : Nat := bitsOf o.mod.toNat 5 4
/-- Bytes of an atomic. -/
def atomBytes (o : Canon) : Nat := if 2 ≤ atomType o then 8 else 4

/-- The operand v of an atomic (R291): a small immediate of a floating-point OP is converted exactly (R88). -/
def State.atomV (s : State) (o : Canon) (op : Nat) : Nat :=
  if 9 ≤ op ∧ op ≤ 11 then s.rdF .fp32 3 o.b o.imm else if 2 ≤ atomType o then (s.b64 o).toNat else (s.b32 o).toNat

/-- The new value of a compare-and-swap. -/
def State.atomC (s : State) (o : Canon) : Nat := if 2 ≤ atomType o then (s.c64 o).toNat else (s.c32 o).toNat

/-- ORD is an acquire. -/
def ordAcq (o : Canon) : Bool := o.mod.getLsbD 6
/-- ORD is a release. -/
def ordRel (o : Canon) : Bool := o.mod.getLsbD 7
/-- SCOPE of an atomic. -/
def atomScope (o : Canon) : Nat := bitsOf o.mod.toNat 10 8

/-- What another device is told about an atomic: OP, TYPE, ORD and SCOPE as in R290, and in bit 17 whether only memory-side lines are accepted. -/
def remoteMod (o : Canon) (op : Nat) (side : Bool) : BitVec 18 :=
  BitVec.ofNat 18 (op + bitsOf o.mod.toNat 10 4 * 16 + if side then 2 ^ 17 else 0)

/-- What an atomic that is a release makes known (R205). -/
def State.atomRelease (s : State) (o : Canon) (c : Ctx) : Option Release :=
  if ordRel o then some { agent := c.agent, part := c.part, scope := atomScope o, known := s.knownBy c.agent } else none

/-- An atomic at its home on this device, by the executing thread: the old bytes; one that writes nothing releases nothing (R291, R293). -/
def State.atomHere (s : State) (o : Canon) (op : Nat) (c : Ctx) (ls : List Loc) (v new : Nat) : List Byte × State :=
  let n := ls.length
  let s1 := s.forceReds c.agent (if ordRel o then none else some (keysOf ls))
  let rel := s1.atomRelease o c
  let w := s1.prov.next
  let (old, ws, s2) := s1.rmw c.agent c.part ls rel fun b => (atomNew op (atomType o) (leNat b) v new).map (toLE n)
  let s3 := if ordRel o && decide (w < s2.prov.next) then s2.pinSide c.agent (atomScope o) (w :: (rel.map (·.known)).getD []) else s2
  (old, if ordAcq o then s3.see c.agent (s3.learn c.agent c.part (atomScope o) ws) else s3)

/-- An atomic at its home (R291-R293). -/
def atomBody (o : Canon) (op : Nat) (side : Bool) : Body := fun s => do
  let n := atomBytes o
  let ptr := s.dispAddr o
  if ptrOff ptr % n ≠ 0 then .error (alignFault ptr)
  else
    let c := s.tctx
    let v := s.atomV o op
    let new := s.atomC o
    let done (st : State) (old : List Byte) : State :=
      if n = 8 then st.put64 o.d (BitVec.ofNat 64 (leNat old)) else st.put32 o.d (BitVec.ofNat 32 (leNat old))
    let (tg, s1) ← s.port c .atomic ptr n
    match tg with
    | .away node part va off =>
      let old ← s1.remote c.agent node part va off 2 n (remoteMod o op side) (toLE n v ++ toLE n new)
      let s2 := s1.remoteLearn c.agent node part va 2 n
      let wrote : Bool := op != 12 || leNat old == v
      .ok (.fall, done (if ordRel o && wrote then (s2.releaseBy s.me (atomScope o)).2 else s2) old)
    | .here ls =>
      if side && ls.any (fun l => !l.mside) then .error (.fault 0x08 ptr)
      else
        s1.guardLocs c .atomic ptr ls
        if s1.homeRefused (s1.knownBy c.agent) then .error (.wait .retry .none)
        else
          let (old, s2) := s1.atomHere o op c ls v new
          .ok (.fall, done s2 old)

/-- ATOM at its home (R290). -/
def execAtomHome (o : Canon) (s : State) : Host.Outcome State Fault Refusal := run 0x69 o s (atomBody o (bitsOf o.mod.toNat 3 0) false)
/-- ATOM.cas (R290). -/
def execAtomCompareSwap (o : Canon) (s : State) : Host.Outcome State Fault Refusal := run 0x6A o s (atomBody o 12 false)
/-- ATOM on memory-side lines (R290). -/
def execAtomMemorySide (o : Canon) (s : State) : Host.Outcome State Fault Refusal := run 0x6B o s (atomBody o (bitsOf o.mod.toNat 3 0) true)

/-- The failure record of a RED (R391). -/
def State.redFailure (s : State) (coh : Nat) (code : Nat) (detail : DWord) : State :=
  let c := s.co coh
  let st := faultStatus code detail
  let f := s.firstFault c 0xFFFF 0 2 (0xFFFFFFFF + st.toNat * 2 ^ 32) detail
  if c.place ≠ .gone then s.setCo coh (c.fault f)
  else match s.launch c.part c.seq with
  | some l =>
    if l.state < 2 then s.faultLaunch c.part c.seq 1 (some f)
    else s.fqEnter c.part 1 (reasonOf st) c.seq c.lin 0xFFFFFFFF st.toNat detail
  | none => s.fqEnter c.part 1 (reasonOf st) c.seq c.lin 0xFFFFFFFF st.toNat detail

/-- One pending RED executes at its home, or fails there (R390, R391). -/
def State.redNow (s : State) (r : PendingRed) : State :=
  match (List.range r.keys.length).find? fun i => s.isPoison (r.key + i) with
  | some i =>
    ({ s with prov := { s.prov with reds := s.prov.reds.filter fun x => x.id != r.id } } : State).redFailure r.coh 0x17
      (bufDetail (ptrBuf r.ptr) (ptrOff r.ptr + i))
  | none => s.doRed r

/-- REDs at bytes that cannot be read fail (R391). -/
def State.failReds (s : State) : State := (s.prov.reds.filter fun r => r.keys.any s.isPoison).foldl State.redNow s

/-- RED (R389-R391): it is on its way to its home when the thread goes on, whatever the home answers; one to another device leaves at the end of the step, or when a port takes it. -/
def execRed (o : Canon) (s : State) : Host.Outcome State Fault Refusal := run 0x6C o s fun s => do
  let n := atomBytes o
  let op := bitsOf o.mod.toNat 3 0
  let ptr := s.dispAddr o
  if ptrOff ptr % n ≠ 0 then .error (alignFault ptr)
  else
    let c := s.tctx
    let t := s.me
    let v := s.atomV o op
    let (tg, s1) ← s.port c .atomic ptr n
    match tg with
    | .away node part va off =>
      if !s1.hasRoute node then .ok (.fall, s1.redFailure s.cci 0x0A (remoteLost off 3))
      else
        let s2 := if ordRel o then (s1.releaseBy t (atomScope o)).2 else s1
        let r : FarRed := { id := s2.count, req := none, thread := t, node := node, part := part, va := va, off := off, len := n, mod := remoteMod o op false,
                            data := toLE n v, release := s2.atomRelease o c }
        .ok (.fall, { s2 with count := s2.count + 1, fabric := { s2.fabric with reds := s2.fabric.reds ++ [r] } })
    | .here ls =>
      let s2 := if ordRel o then (s1.releaseBy t (atomScope o)).2 else s1
      let r : PendingRed := { id := s2.count, ptr := ptr, thread := t, coh := s.cci, part := c.part, key := (keysOf ls).headD 0, va := vaOf ls, side := sideOf ls,
                              enc := ls.any (·.enc), op := op, typ := atomType o, operand := v, release := s2.atomRelease o c }
      .ok (.fall, { s2 with count := s2.count + 1, prov := { s2.prov with reds := s2.prov.reds ++ [r] } })

/-- A fence waits while what it brings home is refused there; `s1` is the state after it (R206, R210). -/
def fenced (scope : Nat) (s1 : State) : Except Trap (Flow × State) :=
  if scope ≠ scLane ∧ scope ≠ scCore ∧ scope ≠ scQuad ∧ s1.homeRefused ((s1.prov.fences.getLast?.map (·.known)).getD []) then .error (.wait .retry .none)
  else .ok (.fall, s1)

/-- FENCE (R206, R324). -/
def execFence (o : Canon) (s : State) : Host.Outcome State Fault Refusal := run 0x6D o s fun s =>
  fenced (bitsOf o.mod.toNat 2 0) (s.fence (.thread s.me) s.cco.part (bitsOf o.mod.toNat 2 0))

/-- The pages of a range translate, in ascending order; a migratable page that is not resident is passed over, and so is one whose entry cannot be read: FENCER never
meets POISON (R207). -/
def State.rangeOk (s : State) (c : Ctx) (e : BufEntry) (dom : Option Nat) (va0 off0 : Nat) : Nat → Nat → Nat → Except Trap Unit
  | 0, _, _ => .ok ()
  | fuel + 1, va, last =>
    if last < va then .ok ()
    else
      match s.translate c va with
      | .error (16, _) => s.rangeOk c e dom va0 off0 fuel (va / 2 ^ 16 * 2 ^ 16 + 2 ^ 16) last
      | .error (cause, level) => .error (walkTrap 0 (pageDetail (off0 + (va - va0)) cause 0 level false) cause)
      | .ok (l, s1) =>
        let lvl := if l.size = 2 ^ 30 then 1 else 0
        match l.use e.kind dom with
        | .wrong => .error (.fault 0x0A (pageDetail (off0 + (va - va0)) 3 0 lvl false))
        | .cap =>
          if Config.companionHas ((l.frame + (va - l.va)) / 64) then s1.rangeOk c e dom va0 off0 fuel (va / 64 * 64 + 64) last
          else .error (.fault 0x0A (pageDetail (off0 + (va - va0)) 3 0 lvl false))
        | _ => s1.rangeOk c e dom va0 off0 fuel (l.va + l.size) last

/-- A part of a fenced range: its offset, where its bytes lie (the node and its partition, none for this device), its address and length (R184, R207). -/
structure FencePart where
  off : Nat
  away : Option (Nat × Nat)
  va : Nat
  len : Nat
  deriving DecidableEq, Repr

/-- The virtual ranges that a fenced range covers (R184, R207, R268). -/
def State.fenceParts (s : State) (e : BufEntry) (off len : Nat) : List FencePart :=
  match e.kind with
  | 2 => [⟨off, if e.node = s.node then none else some (e.node, e.rpart), e.base + off, len⟩]
  | 3 =>
    (podCuts e (len + 1) off len).foldl (fun (r : List FencePart × Nat) m =>
      let (node, loc) := podPlace e (off + r.2)
      (r.1 ++ [⟨off + r.2, if node = s.node then none else some (node, e.rpart), e.base + loc, m⟩], r.2 + m)) ([], 0) |>.1
  | _ => [⟨off, none, e.base + off, len⟩]

/-- The steps of R179 up to translation for one part of a fenced range; another device makes them for its own (request kind 5). -/
def State.fencePart (s : State) (c : Ctx) (e : BufEntry) (idx : Nat) (p : FencePart) : Except Trap Unit :=
  match p.away with
  | some (node, part) => (s.remote c.agent node part p.va (mkPtr idx p.off).toNat 5 p.len 0 []).map fun _ => ()
  | none =>
    if e.kind = 2 then
      match s.rangeOk { c with part := e.rpart, core := none, quad := 48 } { e with kind := 0 } none p.va p.off (p.len + 1) p.va (p.va + p.len - 1) with
      | .error (.fault _ d) => .error (.fault 0x0A (pageDetail (bitsOf d.toNat 47 0) 6 0 0 false))
      | r => r
    else s.rangeOk c e (if e.kind = 3 then none else some e.domain) p.va p.off (p.len + 1) p.va (p.va + p.len - 1)

/-- FENCER (R207, R324). It never meets POISON: DESIGN CHOICE (log 79), a buffer-table entry that cannot be read gives the range no address, so that it orders nothing. -/
def execFencer (o : Canon) (s : State) : Host.Outcome State Fault Refusal := run 0x6E o s fun s => do
  let ptr := s.a64 o
  let len := if isG o.b.toNat then (s.b32 o).toNat else (s.b64 o).toNat
  let c := s.tctx
  if len = 0 then .ok (.fall, s)
  else match s.portEntry c .read ptr len with
  | .error (.fault 0x17 _) => .ok (.fall, s)
  | .error t => .error t
  | .ok (e, s1) =>
    let parts := s1.fenceParts e (ptrOff ptr) len
    match parts.findSome? fun p => match s1.fencePart c e (ptrBuf ptr) p with | .error (.fault 0x17 _) | .ok () => none | .error t => some t with
    | some t => .error t
    | none =>
      let scope := bitsOf o.mod.toNat 2 0
      fenced scope (s1.fenceRange c.agent c.part scope ((parts.filter fun p => p.away.isNone).map fun p => (p.va, p.len)))

/-- PREF (R384): it moves lines between caches, which no program can see. -/
def execPref (o : Canon) (s : State) : Host.Outcome State Fault Refusal := run 0x6F o s (plain id)

end Sys2Proof.Machine
end

