-- ==== Sys2Proof/Machine/Codec.lean ====
section
/-! DEFINITION. Code tables, canonical codes, tile streams: decoding and encoding as functions of bytes (R122, R130-R137, R142-R147). -/

namespace Sys2Proof.Machine

/-- COUNT1 to COUNT15 (R130). -/
def ctCounts (img : List Byte) : List Nat := (List.range 15).map fun i => field img (2 + 2 * i) 2
/-- MAXLEN. -/
def ctMaxlen (img : List Byte) : Nat := field img 1 1
/-- KIND. -/
def ctKind (img : List Byte) : Nat := field img 0 1
/-- The used symbols in canonical order. -/
def ctSyms (img : List Byte) : List Nat := (List.range (ctCounts img).sum).map fun i => field img (0x20 + i) 1
/-- Level `i` as BF16 bits (R113). -/
def ctLevel (img : List Byte) (i : Nat) : Nat := field img (0x120 + 2 * (i % 16)) 2

/-- No element occurs twice. -/
def noDups : List Nat → Bool
  | [] => true
  | x :: xs => !xs.contains x && noDups xs

/-- The first check of R131 that fails: its number. -/
def ctCheck (img : List Byte) : Option Nat :=
  let cs := ctCounts img
  let n := cs.sum
  let alpha := if ctKind img = 1 then 256 else 16
  if 2 < ctKind img then some 1
  else if ctMaxlen img = 0 ∨ 15 < ctMaxlen img then some 2
  else if (cs.drop (ctMaxlen img)).any (· != 0) || nth 0 cs (ctMaxlen img - 1) == 0 then some 3
  else if n = 0 ∨ alpha < n then some 4
  else if (ctSyms img).any fun x => decide (alpha ≤ x) then some 5
  else if !noDups (ctSyms img) then some 6
  else if 2 ^ 15 < ((cs.zip (List.range 15)).map fun x => x.1 * 2 ^ (14 - x.2)).sum then some 7
  else if (slice img (0x20 + n) (256 - n)).any (· != 0#8) || (ctKind img != 2 && (slice img 0x120 32).any (· != 0#8)) then some 8
  else none

/-- The bits of bytes, most significant first (R136, R142). -/
def bitsOfBytes (bs : List Byte) : List Bool := bs.flatMap fun b => (List.range 8).map fun i => b.getLsbD (7 - i)

/-- The bytes of bits, zero bits appended to a multiple of 32 (R136). -/
def bytesOfBits : Nat → List Bool → List Byte
  | 0, _ => []
  | fuel + 1, bs =>
    if bs.isEmpty then []
    else BitVec.ofNat 8 ((List.range 8).foldl (fun v i => 2 * v + if nth false bs i then 1 else 0) 0) :: bytesOfBits fuel (bs.drop 8)

/-- Bits padded with zeros to a multiple of 32. -/
def pad32 (bs : List Bool) : List Bool := bs ++ List.replicate (roundUp bs.length 32 - bs.length) false

/-- decode_symbol (R122): index of the symbol, bits taken and the bits that remain; true for OVERRUN, false for INVALID_CODE. -/
def decodeSym : List Nat → Nat → Nat → Nat → Nat → List Bool → Except Bool (Nat × Nat × List Bool)
  | [], _, _, _, _, _ => .error false
  | _ :: _, _, _, _, _, [] => .error true
  | c :: cs, code, first, index, used, b :: bs =>
    let code' := 2 * code + if b then 1 else 0
    if first ≤ code' ∧ code' - first < c then .ok (index + (code' - first), used + 1, bs)
    else decodeSym cs code' ((first + c) * 2) (index + c) (used + 1) bs

/-- Decode `n` symbols from bit position `pos`: the symbols, the next position and the bits that remain, or the position of the failing code. -/
def decodeSyms (counts syms : List Nat) : Nat → Nat → List Bool → Except (Nat × Bool) (List Nat × Nat × List Bool)
  | 0, pos, bs => .ok ([], pos, bs)
  | n + 1, pos, bs =>
    match decodeSym counts 0 0 0 0 bs with
    | .error past => .error (pos, past)
    | .ok (i, used, rest) =>
      match decodeSyms counts syms n (pos + used) rest with
      | .error e => .error e
      | .ok (xs, p, r) => .ok (nth 0 syms i :: xs, p, r)

/-- A tensor record (R137), with its bytes. -/
structure TileRec where
  bytes : List Byte
  fmt : Nat
  scl : Nat
  valid : Bool
  app : Bool
  signed : Bool
  trows : Nat
  tcols : Nat
  gridr : Nat
  gridc : Nat
  data : DWord
  index : DWord
  ctoff : List Nat
  bad : Bool
  deriving DecidableEq, Repr

/-- Read a record and test it for malformation (R137, R139). -/
def TileRec.parse (b : List Byte) : TileRec :=
  let fmt := field b 0 1; let scl := field b 1 1; let fl := field b 2 1
  let tr := field b 4 2; let tc := field b 6 2; let gr := field b 8 2; let gc := field b 10 2
  let data := BitVec.ofNat 64 (field b 0x10 8); let index := BitVec.ofNat 64 (field b 0x18 8)
  let bad := !([1, 2, 8, 9, 10, 14].contains fmt) || decide (16 ≤ scl) || scl % 4 == 3 || (bitOf fl 1 && scl % 4 == 2) || decide (8 ≤ fl)
    || (bitOf fl 2 && !fmtInt fmt) || field b 3 1 != 0 || field b 12 4 != 0 || !([16, 32, 64, 128].contains tr) || !([16, 32, 64, 128, 256].contains tc)
    || gr == 0 || gc == 0 || decide (2 ^ 22 < gr * gc) || ptrOff data % 32 != 0 || ptrOff index % 16 != 0
  { bytes := b, fmt := fmt, scl := scl, valid := bitOf fl 0, app := bitOf fl 1, signed := bitOf fl 2, trows := tr, tcols := tc, gridr := gr, gridc := gc, data := data,
    index := index, ctoff := (List.range 8).map fun t => field b (0x20 + 4 * t) 4, bad := bad }

/-- A view of the tile's shape, for scale counts and places (R137). -/
def TileRec.shape (r : TileRec) : View := { View.null with fmt := r.fmt, scl := r.scl, signed := r.signed, rows := r.trows, cols := r.tcols }
/-- Scales of every tile (R137). -/
def TileRec.scaleCount (r : TileRec) : Nat := r.shape.scaleCount
/-- Bytes of a scale. -/
def TileRec.scaleSize (r : TileRec) : Nat := r.shape.scaleSize
/-- Element bits. -/
def TileRec.bits (r : TileRec) : Nat := fmtBits r.fmt
/-- The alphabet kind (R137). -/
def TileRec.kind (r : TileRec) : Nat := if r.fmt = fCB4 then 2 else if r.bits = 4 then 0 else 1
/-- The pointer of a code table of the record, if it names one (R137). -/
def TileRec.tablePtr (r : TileRec) (t : Nat) : Option DWord := let o := nth 0xFFFFFFFF r.ctoff t; if o = 0xFFFFFFFF then none else some (ea r.data (64 * o : Nat))

/-- An index entry (R138). -/
structure TileEnt where
  offset : Nat
  length : Nat
  capacity : Nat
  valid : Bool
  raw : Bool
  bad : Bool
  deriving DecidableEq, Repr

/-- Read an entry and test it for malformation (R138, R139). -/
def TileEnt.parse (app : Bool) (b : List Byte) : TileEnt :=
  let len := field b 4 4; let cap := field b 8 4; let fl := field b 12 1
  { offset := field b 0 4, length := len, capacity := cap, valid := bitOf fl 0, raw := bitOf fl 1,
    bad := decide (4 ≤ fl) || field b 13 3 != 0 || cap % 32 != 0 || decide (65536 < cap) || decide (cap < len) || (len == 0 && !app) }

/-- An entry's bytes. -/
def TileEnt.pack (e : TileEnt) : List Byte :=
  toLE 4 e.offset ++ toLE 4 e.length ++ toLE 4 e.capacity ++ toLE 1 ((if e.valid then 1 else 0) + if e.raw then 2 else 0) ++ toLE 3 0

/-- Why a stream does not decode: a decode fault, or no slot that holds its table (R133, R143). -/
inductive DecFail where
  | decode (sub reason bitoff : Nat)
  | noTable (table : Nat)
  deriving DecidableEq, Repr

/-- A decoded tile: element codes in row-major order, scale bytes, the table used, whether the stream is raw (R142). -/
structure Decoded where
  codes : List Nat
  scales : List Byte
  table : Option CtImg
  raw : Bool
  deriving DecidableEq, Repr

/-- The header of a stream (R135). -/
structure Hdr where
  rows : Nat
  subs : Nat
  table : Nat
  raw : Bool
  start : List Nat
  p : Nat
  deriving DecidableEq, Repr

/-- Read a header (R135). -/
def Hdr.parse (r : TileRec) (s : List Byte) : Hdr :=
  { rows := field s 2 2, subs := field s 6 1, table := field s 1 1, raw := bitOf (field s 7 1) 0, start := (List.range 16).map fun i => field s (0x10 + 2 * i) 2,
    p := 64 + roundUp (field s 8 2 * r.scaleSize) 4 }

/-- The first loaded slot whose source is a pointer (R141). -/
def pickSlot (cts : List (Option CtImg)) (p : DWord) : Option CtImg := (cts.find? fun c => (c.map fun x => x.source == p).getD false).getD none

/-- The offsets of the failing fields of a header whose stream has at least 64 bytes (R142). DESIGN CHOICE (log 73): a nonzero byte of the reserved fields at 0x0A and 0x30
is reported at its own offset. -/
def Hdr.bad (h : Hdr) (r : TileRec) (e : TileEnt) (s : List Byte) : List Nat :=
  let len := s.length
  let subsOk : Bool := decide (1 ≤ h.subs) && decide (h.subs ≤ 16)
  let last := nth 0 h.start (h.subs - 1)
  let scnt := field s 8 2
  let rawLen := roundUp (ceilDiv (h.rows * r.tcols * r.bits) 8) 4
  let at_ (c : Bool) (o : Nat) : List Nat := if c then [o] else []
  let sOk : Bool := if h.raw then h.subs == 1 else if r.app then subsOk && h.subs == ceilDiv h.rows 16 else subsOk && h.rows % h.subs == 0
  at_ (field s 0 1 != r.fmt) 0 ++ at_ (decide (8 ≤ h.table) || (h.raw && h.table != 0)) 1
    ++ at_ (if r.app then h.rows == 0 || decide (r.trows < h.rows) else h.rows != r.trows) 2 ++ at_ (field s 4 2 != r.tcols) 4 ++ at_ (!sOk) 6
    ++ at_ (decide (4 ≤ field s 7 1) || h.raw != e.raw || bitOf (field s 7 1) 1 != r.app) 7 ++ at_ (scnt != r.scaleCount) 8
    ++ at_ (nth 0 h.start 0 != 0) 0x10
    ++ at_ (decide (len < h.p) || decide (len ≤ h.p + 4 * (if subsOk then last else 0)) || (len - h.p) % 4 != 0 || (h.raw && len - h.p != rawLen))
        (if !subsOk then 6 else if h.raw then 2 else 0x0E + 2 * h.subs)
    ++ ((List.range 6).map (0x0A + ·)).filter (fun o => field s o 1 != 0) ++ ((List.range 16).map (0x30 + ·)).filter (fun o => field s o 1 != 0)
    ++ ((List.range 16).filter fun i => decide (h.subs ≤ i) && nth 0 h.start i != 0).map (fun i => 0x10 + 2 * i)
    ++ ((List.range 16).filter fun i => decide (1 ≤ i) && decide (i < h.subs) && decide (nth 0 h.start i ≤ nth 0 h.start (i - 1))).map (fun i => 0x10 + 2 * i)
    ++ ((List.range (min h.p len - min len (64 + scnt * r.scaleSize))).map (64 + scnt * r.scaleSize + ·)).filter fun o => field s o 1 != 0

/-- Lowest of a list. -/
def lowest : List Nat → Option Nat
  | [] => none
  | x :: xs => match lowest xs with | some y => some (min x y) | none => some x

/-- The header checks of R142, joined at offset 1 by the choice of table when the stream is read by a decode (R141). -/
def checkHdr (r : TileRec) (e : TileEnt) (s : List Byte) (pick : Option (List (Option CtImg))) : Except DecFail (Hdr × Option CtImg) :=
  if s.length < 64 then .error (.decode 0 4 0)
  else
    let h := Hdr.parse r s
    let ptr := r.tablePtr h.table
    let slot := match pick, ptr with | some cts, some p => pickSlot cts p | _, _ => none
    let wrong : Bool := pick.isSome && !h.raw && decide (h.table < 8) && (ptr.isNone || (slot.map fun c => ctKind c.bytes != r.kind).getD false)
    match lowest (h.bad r e s ++ if wrong then [1] else []) with
    | some o => .error (.decode 0 4 (8 * o))
    | none => if pick.isSome && !h.raw && slot.isNone then .error (.noTable h.table) else .ok (h, if h.raw then none else slot)

/-- A scale is NaN (R142, R145). -/
def scaleNan (size v : Nat) : Bool := if size = 4 then FF.fp32.isNan v else v == 0xFF

/-- The first NaN scale among scale bytes. -/
def nanScale (size : Nat) (bs : List Byte) : Option Nat := (List.range (bs.length / size)).find? fun i => scaleNan size (field bs (i * size) size)

/-- Rows of sub-stream `i` (R136). -/
def subRows (app : Bool) (rows subs i : Nat) : Nat := if app then min 16 (rows - 16 * i) else rows / subs

/-- Decode sub-stream `i` (R142). -/
def decodeSub (r : TileRec) (h : Hdr) (s : List Byte) (img : List Byte) (i : Nat) : Except DecFail (List Nat) :=
  let lo := h.p + 4 * nth 0 h.start i
  let hi := if i + 1 < h.subs then h.p + 4 * nth 0 h.start (i + 1) else s.length
  let bs := bitsOfBytes ((s.drop lo).take (hi - lo))
  match decodeSyms ((ctCounts img).take (ctMaxlen img)) (ctSyms img) (subRows r.app h.rows h.subs i * r.tcols) (8 * lo) bs with
  | .error (pos, past) => .error (.decode i (if past then (if i + 1 < h.subs then 1 else 2) else 0) pos)
  | .ok (xs, pos, rest) =>
    if 32 ≤ rest.length ∨ rest.any id then .error (.decode i 3 (pos + (rest.findIdx? id).getD 0)) else .ok xs

/-- Decode sub-streams in ascending order, so the failure with the lowest bit offset is the one reported (R143). DESIGN CHOICE (log 74): of two failures at the same bit
offset, the lower sub-stream's. -/
def decodeSubs (r : TileRec) (h : Hdr) (s : List Byte) (img : List Byte) : List Nat → Except DecFail (List Nat)
  | [] => .ok []
  | i :: is =>
    match decodeSub r h s img i with
    | .error e => .error e
    | .ok xs =>
      match decodeSubs r h s img is with
      | .error e => .error e
      | .ok ys => .ok (xs ++ ys)

/-- The table of a CB4 tile that holds no code, where its levels are used: the search with index 0 (R141). -/
def levelTable (r : TileRec) (lvl : Bool) (cts : List (Option CtImg)) : Except DecFail (Option CtImg) :=
  if !lvl || r.fmt != fCB4 then .ok none
  else match (r.tablePtr 0).bind (pickSlot cts) with
  | some c => if ctKind c.bytes = r.kind then .ok (some c) else .error (.noTable 0)
  | none => .error (.noTable 0)

/-- Decode a stream of LENGTH bytes (R141, R142); `lvl` says that the levels of a CB4 tile are used. The choice of a code table comes before the scales (R410). -/
def decodeStream (r : TileRec) (e : TileEnt) (s : List Byte) (cts : List (Option CtImg)) (lvl : Bool) : Except DecFail Decoded :=
  if r.app ∧ e.length = 0 then
    (levelTable r lvl cts).map fun t =>
      { codes := List.replicate (r.trows * r.tcols) 0, scales := List.replicate (r.scaleCount * r.scaleSize) 0#8, table := t, raw := false }
  else match checkHdr r e s (some cts) with
  | .error f => .error f
  | .ok (h, slot) =>
    match (if slot.isNone then levelTable r lvl cts else .ok none) with
    | .error f => .error f
    | .ok level =>
    let sc := (s.drop 64).take (r.scaleCount * r.scaleSize)
    match nanScale r.scaleSize sc with
    | some i => .error (.decode 0 5 (8 * (64 + i * r.scaleSize)))
    | none =>
      let pad := List.replicate ((r.trows - h.rows) * r.tcols) 0
      match slot with
      | none =>
        let pay := s.drop h.p
        .ok { codes := (List.range (h.rows * r.tcols)).map (unpack r.bits pay) ++ pad, scales := sc, table := level, raw := true }
      | some c =>
        match decodeSubs r h s c.bytes (List.range h.subs) with
        | .error f => .error f
        | .ok xs => .ok { codes := xs ++ pad, scales := sc, table := some c, raw := false }

/-- Canonical codes: symbol, code and length (R134). -/
def codewords (img : List Byte) : List (Nat × Nat × Nat) :=
  let syms := ctSyms img
  let r := ((ctCounts img).take (ctMaxlen img)).foldl (fun (acc : List (Nat × Nat × Nat) × Nat × Nat × Nat) n =>
    let (out, code, index, len) := acc
    (out ++ (List.range n).map (fun j => (nth 0 syms (index + j), code + j, len)), (code + n) * 2, index + n, len + 1)) ([], 0, 0, 1)
  r.1

/-- The bits of a code, most significant first. -/
def codeBits (code len : Nat) : List Bool := (List.range len).map fun i => bitOf code (len - 1 - i)

/-- Code one sub-stream, or the index of the first symbol without a code (R136, R145). -/
def encodeSub (cw : List (Nat × Nat × Nat)) (xs : List Nat) : Except Nat (List Byte) :=
  let parts := xs.map fun x => (cw.find? fun c => c.1 == x).map fun c => codeBits c.2.1 c.2.2
  match parts.findIdx? Option.isNone with
  | some i => .error i
  | none => let bs := pad32 (parts.flatMap fun p => p.getD []); .ok (bytesOfBits (bs.length / 8 + 1) bs)

/-- Code consecutive groups of elements; an error counts elements from the first group. -/
def encodeGroups (cw : List (Nat × Nat × Nat)) (base : Nat) : List (List Nat) → Except Nat (List (List Byte))
  | [] => .ok []
  | g :: gs =>
    match encodeSub cw g with
    | .error i => .error (base + i)
    | .ok b =>
      match encodeGroups cw (base + g.length) gs with
      | .error i => .error i
      | .ok bs => .ok (b :: bs)

/-- A stream from its parts: header, scales, payload (R135). -/
def mkStream (r : TileRec) (table rows : Nat) (raw : Bool) (scales : List Byte) (parts : List (List Byte)) : List Byte :=
  let starts := (parts.foldl (fun (a : List Nat × Nat) p => (a.1 ++ [a.2 / 4], a.2 + p.length)) ([], 0)).1
  toLE 1 r.fmt ++ toLE 1 table ++ toLE 2 rows ++ toLE 2 r.tcols ++ toLE 1 parts.length ++ toLE 1 ((if raw then 1 else 0) + if r.app then 2 else 0)
    ++ toLE 2 (scales.length / r.scaleSize) ++ toLE 6 0 ++ ((List.range 16).flatMap fun i => toLE 2 (nth 0 starts i)) ++ toLE 16 0
    ++ scales ++ List.replicate (roundUp scales.length 4 - scales.length) 0#8 ++ parts.flatMap id

/-- A raw stream (R136). -/
def rawStream (r : TileRec) (rows : Nat) (scales : List Byte) (codes : List Nat) : List Byte :=
  let pay := packBytes r.bits 0#8 codes
  mkStream r 0 rows true scales [pay ++ List.replicate (roundUp pay.length 4 - pay.length) 0#8]

/-- What an encode comes to (R145). -/
inductive EncOut where
  | uncodable (detail : Nat)
  | ok (stream : List Byte) (raw : Bool)
  | grow (need : Nat)
  deriving DecidableEq, Repr

/-- The table of R145 after its NaN row: the coded stream or the element without a code, and the raw stream when it may be used. -/
def encOutcome (coded : Except Nat (List Byte)) (raw : Option (List Byte)) (capacity : Nat) : EncOut :=
  let byRaw (need : Option Nat) (uncodable : Nat) : EncOut := match raw with
    | none => match need with | some n => .grow n | none => .uncodable uncodable
    | some x => if x.length ≤ capacity then .ok x true else .grow (match need with | some n => min n x.length | none => x.length)
  match coded with
  | .error i => byRaw none (i % 2 ^ 16)
  | .ok s =>
    if 65536 < s.length then byRaw none (2 ^ 22)
    else if s.length ≤ capacity then .ok s false
    else byRaw (some s.length) 0

/-- Cut a list into groups of `n`. -/
def groupsOf {α : Type} (n : Nat) : Nat → List α → List (List α)
  | 0, _ => []
  | fuel + 1, xs => if xs.isEmpty then [] else xs.take n :: groupsOf n fuel (xs.drop n)

/-- Encode a whole tile (R145). -/
def encodeTile (r : TileRec) (codes : List Nat) (scales : List Byte) (img : List Byte) (table subs : Nat) (rawfb : Bool) (capacity : Nat) : EncOut :=
  match nanScale r.scaleSize scales with
  | some i => .uncodable (2 ^ 23 + i % 2 ^ 16)
  | none =>
    let groups := groupsOf (r.trows / subs * r.tcols) subs codes
    let coded : Except Nat (List Byte) := match encodeGroups (codewords img) 0 groups with
      | .error i => .error i
      | .ok ps => .ok (mkStream r table r.trows false scales ps)
    encOutcome coded (if rawfb then some (rawStream r r.trows scales codes) else none) capacity

/-- What an append comes to: FULL, a decode failure of the existing stream, or an outcome with the new ROWS (R147). -/
inductive AppOut where
  | full (rows : Nat)
  | fail (f : DecFail)
  | out (o : EncOut) (rows : Nat) (raw : Bool)
  deriving DecidableEq, Repr

/-- Append rows to a tile (R147). `old` is the existing stream, empty when the tile holds no rows; `img` the table of the search, empty for a raw tile. -/
def appendTile (r : TileRec) (e : TileEnt) (old : List Byte) (codes : List Nat) (scales : List Byte) (img : List Byte) (table : Nat) (rawfb : Bool) : AppOut :=
  let n := codes.length / r.tcols
  let size := r.scaleSize
  let area0 (rows : Nat) (prev : List Byte) : List Byte :=
    let per := r.scaleCount / r.trows * size
    prev.take (rows * per) ++ scales ++ prev.drop (rows * per + scales.length)
  if old.isEmpty then
    if r.trows < n then .full 0
    else
      let area := area0 0 (List.replicate (r.scaleCount * size) 0#8)
      match nanScale size area with
      | some i => .out (.uncodable (2 ^ 23 + i % 2 ^ 16)) n false
      | none =>
        let coded : Except Nat (List Byte) := match encodeGroups (codewords img) 0 (groupsOf (16 * r.tcols) 16 codes) with
          | .error i => .error i
          | .ok ps => .ok (mkStream r table n false area ps)
        .out (encOutcome coded (if rawfb then some (rawStream r n area codes) else none) e.capacity) n false
  else if r.trows < field old 2 2 + n then .full (field old 2 2 % 256)
  else match checkHdr r e old none with
  | .error f => .fail f
  | .ok (h, _) =>
    let total := h.rows + n
    let area := area0 h.rows ((old.drop 64).take (r.scaleCount * size))
    if h.raw then
      match nanScale size area with
      | some i => .out (.uncodable (2 ^ 23 + i % 2 ^ 16)) total true
      | none =>
        let all := (List.range (h.rows * r.tcols)).map (unpack r.bits (old.drop h.p)) ++ codes
        let x := rawStream r total area all
        .out (if x.length ≤ e.capacity then .ok x true else .grow x.length) total true
    else
      let g := h.rows / 16
      let part : Except DecFail (List Nat) := if h.rows % 16 = 0 then .ok [] else decodeSub r h old img g
      match part with
      | .error f => .fail f
      | .ok last =>
        match nanScale size area with
        | some i => .out (.uncodable (2 ^ 23 + i % 2 ^ 16)) total false
        | none =>
          let kept := (List.range g).map fun i =>
            let lo := h.p + 4 * nth 0 h.start i
            let hi := if i + 1 < h.subs then h.p + 4 * nth 0 h.start (i + 1) else old.length
            (old.drop lo).take (hi - lo)
          let coded : Except Nat (List Byte) := match encodeGroups (codewords img) (16 * g * r.tcols) (groupsOf (16 * r.tcols) 16 (last ++ codes)) with
            | .error i => .error i
            | .ok ps => .ok (mkStream r h.table total false area (kept ++ ps))
          let fits : Bool := match coded with | .ok s => decide (s.length ≤ e.capacity) && decide (s.length ≤ 65536) | .error _ => false
          if rawfb && !fits then
            match decodeSubs r h old img (List.range g) with
            | .error f => .fail f
            | .ok before => .out (encOutcome coded (some (rawStream r total area (before ++ last ++ codes))) e.capacity) total false
          else .out (encOutcome coded none e.capacity) total false

end Sys2Proof.Machine
end

