-- ==== Sys2Proof/Machine/Catalogue.lean ====
section
/-! DEFINITION. The Catalogue: records and entries with their copies in each quad, decoding of a tile, code-table slots, and CTLOAD, CTSTORE, CATLOOK, CATSET, CATINV (R131-R133, R137-R143, R303-R306, R316). -/

namespace Sys2Proof.Machine

/-- %fdetail of CATALOGUE (R139). -/
def catDetail (tensor tile cause : Nat) : DWord := BitVec.ofNat 64 (tensor % 2 ^ 16 + tile % 2 ^ 22 * 2 ^ 16 + cause * 2 ^ 38)
/-- CATALOGUE (R139). -/
def catFault (tensor tile cause : Nat) : Trap := .fault 0x0E (catDetail tensor tile cause)
/-- CODE_TABLE, cause 9 (R133). -/
def tableFault (tensor table : Nat) : Trap := .fault 0x0D (BitVec.ofNat 64 (9 + tensor % 2 ^ 16 * 2 ^ 8 + table % 8 * 2 ^ 24))
/-- A decode failure as a fault (R133, R143). -/
def DecFail.trap (f : DecFail) (tensor tile : Nat) : Trap :=
  match f with
  | .decode sub reason bitoff => .fault 0x0C (BitVec.ofNat 64 (tensor % 2 ^ 16 + tile % 2 ^ 22 * 2 ^ 16 + sub % 16 * 2 ^ 38 + reason * 2 ^ 42 + bitoff * 2 ^ 45))
  | .noTable table => tableFault tensor table

/-- Order bits of a request for the most recent value at a home (R140, R146). -/
def homeMod : BitVec 18 := 0x8000
/-- Order bits of a request that reads or writes an index entry, which is one piece of 16 B (R138, R198). -/
def entryMod : BitVec 18 := 0x18000

/-- The parts of a read at their homes: the most recent values that have reached them, where those of this device lie, and the writes that gave them (R140, R146). -/
def State.homeParts (s : State) (c : Ctx) (mod : BitVec 18) (ptr : DWord) (n : Nat) : Except Trap (List Byte × List Loc × List Nat × State) :=
  s.checked c .read ptr n (fun st _ tg m => match tg with
    | .away node part va off => (st.remote c.agent node part va off 0 m mod []).map fun _ => ()
    | .here _ => .ok ()) <|
  match s.portPlan c .read ptr n with
  | .error t => .error t
  | .ok (ps, stop, s1) =>
    match s1.partsStop c .read ptr 0 mod ps stop with
    | .error t => .error t
    | .ok () =>
      let ls := partLocs ps
      let ws := ls.foldl (fun l x => union l ((((s1.histAt x.key).writes.filter (·.home)).map (·.wid)).take 1)) []
      let rec go : List AccPart → Except Trap (List Byte)
        | [] => .ok []
        | (.here xs, _, _) :: rest => (go rest).map fun bs => s1.unmask c.part xs (xs.map fun x => (s1.histAt x.key).homeNewest) ++ bs
        | (.away node part va off, _, m) :: rest =>
          match s1.remote c.agent node part va off 0 m mod [] with
          | .error t => .error t
          | .ok b => (go rest).map fun bs => b ++ bs
      match go ps with
      | .error t => .error t
      | .ok bs => .ok (bs, ls, ws, s1)

/-- Keep the newest 1,024 copies of a quad (R140). -/
def State.catKeep (s : State) (quad part tensor key : Nat) (b : List Byte) : State :=
  let mine := s.catc.filter fun x => x.1 == quad
  { s with catc := (quad, part, tensor, key, b) :: (mine.take 1023 ++ s.catc.filter fun x => x.1 != quad) }

/-- A lookup through the quad's Catalogue cache (R140). `key` is 0 for the record and the linear index plus 1 for an entry. Eviction is unpredictable: a free choice says
whether a copy has been evicted before the lookup, which then reads at the home. -/
def State.catGet (s : State) (c : Ctx) (tensor key : Nat) (ptr : DWord) (n : Nat) : Except Trap (List Byte × State) :=
  let mine (x : Nat × Nat × Nat × Nat × List Byte) : Bool := x.1 == c.quad && x.2.1 == c.part && x.2.2.1 == tensor && x.2.2.2.1 == key
  let home (s : State) : Except Trap (List Byte × State) := match s.homeParts c (if key = 0 then homeMod else entryMod) ptr n with
    | .error t => .error t
    | .ok (b, _, _, s1) => .ok (b, s1.catKeep c.quad c.part tensor key b)
  match s.catc.find? mine with
  | none => home s
  | some x => if Config.pick s.prov.picks % 2 = 1 then home { s.usePick with catc := s.catc.filter fun y => !mine y } else .ok (x.2.2.2.2, s.usePick)

/-- Drop copies. -/
def State.catDrop (s : State) (p : Nat → Nat → Nat → Nat → Bool) : State :=
  { s with catc := s.catc.filter fun x => !p x.1 x.2.1 x.2.2.1 x.2.2.2.1 }

/-- TENSOR of a tile name (R153). -/
def nameTensor (n : DWord) : Nat := bitsOf n.toNat 15 0

/-- The record of a tile name and its linear index: causes 1 to 3 of R139. DESIGN CHOICE (log 76): TILE of causes 1 and 2 is computed with GRIDC of the record that fails,
modulo 2²². -/
def State.catRecord (s : State) (c : Ctx) (name : DWord) : Except Trap (TileRec × Nat × State) := do
  let n := name.toNat
  let tensor := nameTensor name
  let (b, s1) ← s.catGet c tensor 0 (ea (s.pa c.part).ttbase (64 * tensor : Nat)) 64
  let r := TileRec.parse b
  let row := bitsOf n 31 16
  let col := bitsOf n 47 32
  let i := row * r.gridc + col
  if !r.valid then .error (catFault tensor i 1)
  else if r.bad then .error (catFault tensor i 2)
  else if bitsOf n 63 48 ≠ 0 ∨ r.gridr ≤ row ∨ r.gridc ≤ col then .error (catFault tensor (2 ^ 22 - 1) 3)
  else .ok (r, i, s1)

/-- Pointer of an entry (R137). -/
def TileRec.entryPtr (r : TileRec) (i : Nat) : DWord := ea r.index (16 * i : Nat)
/-- Pointer of a stream (R138). -/
def TileRec.streamPtr (r : TileRec) (e : TileEnt) : DWord := ea r.data (32 * e.offset : Nat)

/-- An entry by the lookup of R140. -/
def State.catEntry (s : State) (c : Ctx) (r : TileRec) (tensor i : Nat) : Except Trap (List Byte × State) := s.catGet c tensor (i + 1) (r.entryPtr i) 16

/-- An encode holds the entry at this key (R146). -/
def State.entryHeld (s : State) (ls : List Loc) : Bool := match ls with | l :: _ => s.held.any fun h => h.2.2 == l.key | [] => false

/-- An encode on this device or from another one holds the entry of a tile (R146). Of an entry whose home is another device, an encode of another device may hold it there,
which nothing here shows: the opaque constant `Config.farHeld` says so (log 6). -/
def State.encodeOverlaps (s : State) (c : Ctx) (r : TileRec) (i : Nat) : Bool :=
  match s.port c .read (r.entryPtr i) 16 with
  | .ok (.here ls, _) => s.entryHeld ls
  | .ok (.away node part va _, _) =>
    (s.fabric.reqs.any fun q => q.granted && q.node == node && q.part == part && q.va == va) || Config.farHeld node part va s.svc.cyc
  | .error _ => false

/-- What a decode that overlaps an encode of its tile delivers: unspecified elements and scales, or a DECODE failure for any reason (R148). -/
def State.freeTile (s : State) (r : TileRec) (cts : List (Option CtImg)) (raw lvl : Bool) : Except DecFail Decoded :=
  let free (i m : Nat) : Nat := Config.pick (s.prov.picks + i) % m
  let table := (cts.find? fun c => (c.map fun x => ctKind x.bytes == r.kind).getD false).getD none
  if free 0 2 = 1 || (lvl && r.fmt == fCB4 && table.isNone) then .error (.decode (free 1 16) (free 2 6) (free 3 (2 ^ 19)))
  else
    let byte (i : Nat) : Byte := Config.freeByte (s.count + i)
    let n := r.trows * r.tcols
    .ok { codes := (List.range n).map fun i => (byte i).toNat % 2 ^ r.bits, scales := (List.range (r.scaleCount * r.scaleSize)).map fun i => byte (n + i),
          table := table, raw := raw }

/-- The state after the free values of `freeTile` have been used. -/
def State.useFree (s : State) (r : TileRec) : State :=
  { s with count := s.count + r.trows * r.tcols + r.scaleCount * r.scaleSize, prov := { s.prov with picks := s.prov.picks + 4 } }

/-- What a decode whose stream cannot be read reports: the failure of its first step that meets one, in the order of the header with its pad bytes, the choice of code table,
the scales, and then the stream's own (R141, R142, R410). -/
def State.streamStop (s : State) (c : Ctx) (r : TileRec) (tensor i : Nat) (e : TileEnt) (cts : List (Option CtImg)) (lvl : Bool) (t : Trap) : Trap :=
  let bytes (at_ n : Nat) : Except Trap (List Byte) := if n = 0 then .ok [] else (s.readMem c (ea (r.streamPtr e) at_) n 4).map (·.1)
  let zeros (n : Nat) : List Byte := List.replicate n 0#8
  let sc := r.scaleCount * r.scaleSize
  let steps : Except Trap Unit := do
    let hd ← bytes 0 (min 64 e.length)
    let check (pad : List Byte) : Except DecFail (Hdr × Option CtImg) :=
      let known := hd ++ zeros (64 + sc - hd.length) ++ pad
      checkHdr r e (known.take e.length ++ zeros (e.length - known.length)) (some cts)
    match check [] with
    | .error (.decode sub reason bit) => .error ((DecFail.decode sub reason bit).trap tensor i)
    | _ => .ok ()
    let pad ← bytes (64 + sc) (roundUp sc 4 - sc)
    let level ← match check pad with
      | .error f => .error (f.trap tensor i)
      | .ok (_, slot) => .ok slot.isNone
    match (if level then levelTable r lvl cts else .ok none) with
    | .error f => .error (f.trap tensor i)
    | .ok _ => .ok ()
    let scales ← bytes 64 sc
    match nanScale r.scaleSize scales with
    | some k => .error ((DecFail.decode 0 5 (8 * (64 + k * r.scaleSize))).trap tensor i)
    | none => .ok ()
  match steps with
  | .error t' => t'
  | .ok () => t

/-- Decode tile `i` of a record (R139 causes 4 and 5, R141, R142, R148); `lvl` says that the levels of a CB4 tile are used. -/
def State.decodeAt (s : State) (c : Ctx) (r : TileRec) (tensor i : Nat) (cts : List (Option CtImg)) (lvl : Bool) : Except Trap (Decoded × State) := do
  let (eb, s1) ← s.catEntry c r tensor i
  let e := TileEnt.parse r.app eb
  let deliver (st : State) (d : Except DecFail Decoded) : Except Trap (Decoded × State) := match d with
    | .error f => .error (f.trap tensor i)
    | .ok d => .ok (d, st)
  if !e.valid then .error (catFault tensor i 4)
  else if e.bad then .error (catFault tensor i 5)
  else
    let (bs, _, s2) ← match (if e.length = 0 then .ok ([], [], s1) else s1.readMem c (r.streamPtr e) e.length 4) with
      | .ok x => .ok x
      | .error t => .error (s1.streamStop c r tensor i e cts lvl t)
    if s1.encodeOverlaps c r i then deliver (s2.useFree r) (s2.freeTile r cts e.raw lvl) else deliver s2 (decodeStream r e bs cts lvl)

/-- The slots as the executing thread sees them (R132). -/
def State.slots (s : State) : List (Option CtImg) := (List.range 8).map fun i => s.ctval (5 + i) i

/-- CODE_TABLE naming a slot (R133). -/
def slotFault (cause slot : Nat) : Trap := .fault 0x0D (BitVec.ofNat 64 (cause + slot * 16))

/-- CTLOAD (R131, R316). -/
def execCtload (o : Canon) (s : State) : Host.Outcome State Fault Refusal := run 0xB0 o s fun s => do
  let p := s.dispAddr o
  let slot := bitsOf o.mod.toNat 2 0
  if ptrOff p % 64 ≠ 0 then .error (alignFault p)
  else
    let (img, _, s1) ← s.readMem s.tctx p 320 1
    match ctCheck img with
    | some cause => .error (slotFault cause slot)
    | none => .ok (.fall, s1.setCco (s1.cco.setT [s1.cth.tid] slot (some { bytes := img, source := p })))

/-- CTSTORE (R132, R316). -/
def execCtstore (o : Canon) (s : State) : Host.Outcome State Fault Refusal := run 0xB1 o s fun s => do
  let p := s.dispAddr o
  let slot := bitsOf o.mod.toNat 2 0
  if ptrOff p % 64 ≠ 0 then .error (alignFault p)
  else match s.ctval 1 slot with
  | none => .error (slotFault 10 slot)
  | some img =>
    let s1 ← s.writeMem s.tctx p img.bytes 1
    .ok (.fall, s1)

/-- CATLOOK (R304). -/
def execCatlook (o : Canon) (s : State) : Host.Outcome State Fault Refusal := run 0xB2 o s fun s => do
  let name := s.a64 o
  let (r, i, s1) ← s.catRecord s.tctx name
  let (b, s2) ← s1.catEntry s.tctx r (nameTensor name) i
  let e := TileEnt.parse r.app b
  if e.valid && e.bad then .error (catFault (nameTensor name) i 5)
  else .ok (.fall, s2.deliver o.d 4 false b)

/-- The quad's copy of an entry is dropped (R140). -/
def State.dropEntry (s : State) (c : Ctx) (tensor i : Nat) : State := s.catDrop fun q p t k => q == c.quad && p == c.part && t == tensor && k == i + 1

/-- Write an entry at its home as a store-release at .pkg scope and drop the quad's copy (R140, R146). -/
def State.putEntry (s : State) (c : Ctx) (tensor i : Nat) (ls : List Loc) (bytes : List Byte) : State :=
  let (known, s1) := s.release c.agent scPkg
  let w := s1.prov.next
  let s2 := s1.encWrite c.part ls
  let s3 := s2.storePiece c.agent c.part (vaOf ls) (sideOf ls) (keysOf ls) (s2.unmask c.part ls bytes) false
    [{ agent := c.agent, part := c.part, scope := scPkg, known := known }] []
  ((s3.arrive (known ++ [w])).pinSide c.agent scPkg [w]).dropEntry c tensor i

/-- CATSET (R305, R306). -/
def execCatset (o : Canon) (s : State) : Host.Outcome State Fault Refusal := run 0xB3 o s fun s => do
  let name := s.a64 o
  let tensor := nameTensor name
  let c := s.tctx
  let (r, i, s1) ← s.catRecord c name
  let bytes := toLE 8 (s.b64 o).toNat ++ toLE 8 (s.c64 o).toNat
  let e := TileEnt.parse r.app bytes
  let reserved : Bool := decide (4 ≤ field bytes 12 1) || field bytes 13 3 != 0
  if reserved || (e.valid && e.bad) then .error (catFault tensor i 5)
  else
    let (tg, s2) ← s1.port c .write (r.entryPtr i) 16
    match tg with
    | .away node part va off =>
      let _ ← s2.remote c.agent node part va off 1 16 (ordMod false true scPkg ||| entryMod) bytes
      .ok (.fall, (s2.releaseBy s.me scPkg).2.dropEntry c tensor i)
    | .here ls =>
      s2.guardLocs c .write (r.entryPtr i) ls
      if s2.entryHeld ls || s2.homeRefused (s2.knownBy c.agent) then .error (.wait .retry .none)
      else .ok (.fall, s2.putEntry c tensor i ls bytes)

/-- CATINV (R303): every quad's copies are dropped when it completes. -/
def execCatinv (o : Canon) (s : State) : Host.Outcome State Fault Refusal := run 0xB4 o s (plain fun s =>
  let tensor := bitsOf (s.a32 o).toNat 15 0
  let part := s.cco.part
  if o.mod.getLsbD 0 then s.catDrop fun _ p t _ => p == part && t == tensor
  else
    let first := (s.b32 o).toNat
    let n := (s.c32 o).toNat
    s.catDrop fun _ p t k => p == part && t == tensor && decide (first + 1 ≤ k) && decide (k < first + 1 + n))

end Sys2Proof.Machine
end

