-- ==== Sys2Proof/Machine/Matrix.lean ====
section
/-! DEFINITION. The matrix engine: MMA, CMMA, chains, and the order in which results are written (R118, R123-R126, R150-R159, R309-R311, R359, R360, R363-R365). -/

namespace Sys2Proof.Machine

/-- Keys of rising offsets. -/
def keysFrom (key : Nat → Nat) (off n : Nat) : List Nat := (List.range n).map fun i => key (off + i)

/-- Read a whole view whose byte at tile-space offset x has the key `key x`. -/
def State.readViewK (s : State) (a : Agent) (key : Nat → Nat) (v : View) : VData × State :=
  let (rows, s1) := (List.range v.allRows).foldl (fun (r : List (List Byte) × State) i =>
    let (b, _, st) := r.2.loadBytes a (keysFrom key (v.base + i * v.pitch) v.rowBytes) (max 1 v.size)
    (r.1 ++ [b], st)) ([], s)
  if v.layout = 0 then ({ rows := rows, scales := [] }, s1)
  else
    let (sc, _, s2) := s1.loadBytes a (keysFrom key v.soff (v.scaleCount * v.scaleSize)) v.scaleSize
    ({ rows := rows, scales := sc }, s2)

/-- A view whose bytes the spec leaves open. -/
def State.freeView (s : State) (v : View) : VData × State :=
  let (rows, s1) := (List.range v.allRows).foldl (fun (r : List (List Byte) × State) _ =>
    let (b, st) := r.2.freeBytes v.rowBytes
    (r.1 ++ [b], st)) ([], s)
  let (sc, s2) := s1.freeBytes (v.scaleCount * v.scaleSize)
  ({ rows := rows, scales := sc }, s2)

/-- Where an operand's bytes lie: the issuer's tile space, or a span member's scratchpad (R152). -/
inductive OperandSrc where
  | tile (uid : Nat)
  | peer (uid base poff : Nat)
  | open_
  deriving DecidableEq, Repr

/-- Read an operand from its source. -/
def State.readFrom (s : State) (a : Agent) (src : OperandSrc) (v : View) : VData × State :=
  match src with
  | .tile uid => s.readViewK a (tileKey uid) v
  | .peer uid base poff => s.readViewK a (fun x => scrKey uid (256 * poff + x - base)) v
  | .open_ => s.freeView v

/-- The source of an operand and its faults (R152). -/
def State.operandSrc (s : State) (peer : Bool) (member poff : Nat) (v : View) (vw : Nat) : Except Trap OperandSrc :=
  let c := s.cco
  if !peer then .ok (.tile c.uid)
  else if c.spanSize ≤ member then .error (vkFault vw)
  else
    let m := if member = c.spanPos then c else (s.cohortAt c.part c.seq (c.lin / c.spanSize * c.spanSize + member)).getD Cohort.none_
    let bound (off : Nat) : Trap := .fault 0x04 (BitVec.ofNat 64 (off % 2 ^ 32 + vw * 2 ^ 32))
    let place (x : Nat) : Nat := 256 * poff + x - v.base
    let beyond (lo hi : Nat) : Option Nat := if place hi ≤ m.scrBytes then none else some (max lo (m.scrBytes + v.base - 256 * poff))
    if v.layout ≠ 0 ∧ v.soff < v.base then .error (bound v.soff)
    else match beyond v.base v.extentEnd with
    | some x => .error (bound x)
    | none =>
      match (if v.layout = 0 then none else beyond v.soff (v.soff + v.scaleCount * v.scaleSize)) with
      | some x => .error (bound x)
      | none => .ok (if m.place = .gone then .open_ else .peer m.uid v.base poff)

/-- The chunk length of R123; none when the pair is refused. -/
def chunkLen (isInt : Bool) (a b : View) : Option Nat :=
  let ba := if a.layout = 0 then 0 else a.bl
  let bb := if b.layout = 0 then 0 else b.bl
  if isInt then
    if ba ≠ 0 ∨ bb ≠ 0 ∨ 2 < a.fmt ∨ 2 < b.fmt ∨ a.fmt = 0 ∨ b.fmt = 0 then none else some (if a.fmt = 1 ∧ b.fmt = 1 then 64 else 32)
  else
    let len (f : Nat) : Option Nat := match f with | 13 => some 8 | 11 | 12 | 14 => some 16 | 8 | 9 | 10 => some 32 | _ => none
    match len a.fmt, len b.fmt with
    | some x, some y => if ba ≠ 0 ∧ bb ≠ 0 ∧ ba ≠ bb then none else some (if ba ≠ 0 then ba else if bb ≠ 0 then bb else min x y)
    | _, _ => none

/-- The value of an operand's element with its scale, and the flags met (R112, R113, R118). `levels` is the image of a CB4 operand's table. -/
def operandNum (v : View) (levels : List Byte) (d : VData) (i j : Nat) : FNum × Flags :=
  let raw := d.elem v i j
  let x : FNum × Flags := if v.fmt = fCB4 then (FF.bf16.value (ctLevel levels raw), FF.bf16.snanFlag (ctLevel levels raw)) else elemNum v.fmt v.signed raw
  if v.layout = 0 then x
  else
    let s := d.scale v i j
    let p := x.1.mul s.1
    (p.1, x.2 ||| s.2 ||| flagIf p.2 NV)

/-- A table of values, row by row. -/
def tableOf {α : Type} (rows cols : Nat) (f : Nat → Nat → α) : List (List α) := (List.range rows).map fun i => (List.range cols).map fun j => f i j

/-- Exact sum of products of a chunk, with the flags of invalid operations: −0 only when every product is −0 (R121, R124). -/
def dotNum (xs ys : List FNum) : FNum × Flags :=
  match (xs.zip ys).map fun p => p.1.mul p.2 with
  | [] => (.fin Ex.zero, 0#5)
  | m0 :: ms => ms.foldl (fun (acc : FNum × Flags) m =>
    let s := acc.1.add m.1
    (s.1, acc.2 ||| flagIf (m.2 || s.2) NV)) (m0.1, flagIf m0.2 NV)

/-- Exact sum of integer products (R125). -/
def dotInt (xs ys : List Int) : Int := (xs.zip ys).foldl (fun a p => a + p.1 * p.2) 0

/-- Columns of a table of rows. -/
def columnsOf {α : Type} (n : Nat) (d : α) (rows : List (List α)) : List (List α) := (List.range n).map fun j => rows.map fun r => nth d r j

/-- The terms of one chunk for every element, row-major, with the flags met (R124). -/
def chunkFloat (a : List (List FNum)) (bc : List (List FNum)) (c ch : Nat) : List Int × Flags :=
  let cells := a.flatMap fun row => bc.map fun col => dotNum ((row.drop (c * ch)).take ch) ((col.drop (c * ch)).take ch)
  (cells.map fun x => ((roundNum .fp32 .rne false x.1).1 : Int), cells.foldl (fun f x => f ||| x.2) 0#5)

/-- The terms of one chunk for every element, row-major (R125). -/
def chunkInt (a : List (List Int)) (bc : List (List Int)) (c ch : Nat) : List Int :=
  a.flatMap fun row => bc.map fun col => dotInt ((row.drop (c * ch)).take ch) ((col.drop (c * ch)).take ch)

/-- Add one term to an accumulator element (R118, R124, R125). -/
def addTerm (isInt sat : Bool) (c : Nat) (t : Int) : Nat × Flags :=
  if isInt then
    let x := readInt true 32 c + t
    (wrapInt 32 (if sat then satInt true 32 x else x), 0#5)
  else FF.fp32.add2 .rne false c t.toNat

/-- Add a contribution to all elements. -/
def addTerms (isInt sat : Bool) (cs : List Nat) (ts : List Int) : List Nat × Flags :=
  let r := (cs.zip ts).map fun x => addTerm isInt sat x.1 x.2
  (r.map (·.1), r.foldl (fun f x => f ||| x.2) 0#5)

/-- The newest bytes of an accumulator's plane, as elements of `bits` bits (R155, R159). -/
def State.accRead (s : State) (uid off n bits : Nat) : List Nat :=
  let b := (List.range (n * (bits / 8))).map fun i => Memory.get s.mem (tileKey uid (off + i))
  (List.range n).map fun i => unpack bits b i

/-- A write by the matrix engine, ordered after every earlier write of the bytes (R155). -/
def State.engineWrite (s : State) (core : Nat) (known : List Nat) (xs : List (Nat × Byte)) : State :=
  (groupsOf 4 xs.length xs).foldl (fun st g =>
    let before := g.foldl (fun l x => union l ((st.histAt x.1).writes.map (·.wid))) known
    st.storePiece (.core core) 0 0 false (g.map (·.1)) (g.map (·.2)) false [] before) s

/-- The keyed bytes of elements from an offset of tile space. -/
def elemCells (uid off bits : Nat) (xs : List Nat) : List (Nat × Byte) :=
  let b := packBytes bits 0#8 xs
  (List.range b.length).zip b |>.map fun x => (tileKey uid (off + x.1), x.2)

/-- Raise flags in threads that still run (R117). -/
def State.raiseIn (s : State) (ts : List Nat) (f : Flags) : State :=
  if f = 0#5 then s
  else s.mapThs (ts.filter fun t => (s.th t).run != .exited && (s.th t).run != .stopped) fun th => { th with fstat := th.fstat ||| f }

/-- A term that is to be added to an accumulator element: the element's offset in tile space, whether the accumulator is INT32, .sat, the term. -/
abbrev AccTerm := Nat × Bool × Bool × Int

/-- The additions of a contribution that a selection of its elements asks for (R158). -/
def Contrib.tasks (c : Contrib) (sel : List Bool) : List AccTerm :=
  ((List.range c.terms.length).zip (c.terms.zip sel)).filterMap fun x => if x.2.2 then some (c.view.base + 4 * x.1, c.isInt, c.sat, x.2.1) else none

/-- A list in an order that free choices from number `n` on give. -/
def shuffle {α : Type} (n : Nat) : Nat → List α → List α
  | 0, xs => xs
  | fuel + 1, xs =>
    match xs with
    | [] => []
    | x :: r =>
      let i := if r.isEmpty then 0 else Config.pick n % (r.length + 1)
      nth x (x :: r) i :: shuffle (n + 1) fuel ((x :: r).eraseIdx i)

/-- The additions of one element in turn. -/
def addTasks (v : Nat) (ts : List AccTerm) : Nat × Flags :=
  ts.foldl (fun (r : Nat × Flags) x => let (v', f) := addTerm x.2.1 x.2.2.1 r.1 x.2.2.2; (v', r.2 ||| f)) (v, 0#5)

/-- Additions to accumulator elements, those of one element in an order that is free for each element (R158): the elements' new values and the flags. -/
def State.addAll (s : State) (uid : Nat) (ts : List AccTerm) : List (Nat × Nat) × Flags :=
  let groups := (sorted ts fun a b => decide (a.1 ≤ b.1)).splitBy fun a b => a.1 == b.1
  let num := (groups.foldl (fun (r : List (Nat × List AccTerm) × Nat) g => ((r.2, g) :: r.1, r.2 + g.length)) ([], s.prov.picks)).1.reverse
  let out := num.map fun x =>
    let off := ((x.2.head?).map (·.1)).getD 0
    let r := addTasks ((s.accRead uid off 1 32).headD 0) (shuffle x.1 x.2.length x.2)
    (off, r.1, r.2)
  (out.map fun x => (x.1, x.2.1), out.foldl (fun f x => f ||| x.2.2) 0#5)

/-- The engine makes additions to accumulator elements (R158, R159). -/
def State.putAll (s : State) (core uid : Nat) (takers : List Nat) (flags : Flags) (ts : List AccTerm) : State :=
  if ts.isEmpty then s.raiseIn takers flags
  else
    let (vs, f) := s.addAll uid ts
    let s1 := { s with prov := { s.prov with picks := s.prov.picks + ts.length } }
    (s1.engineWrite core [] (vs.flatMap fun x => elemCells uid x.1 32 [x.2])).raiseIn takers (f ||| flags)

/-- What is left of the contributions of a chain is added (R158). -/
def State.applyAll (s : State) (core uid : Nat) (cs : List Contrib) : State :=
  let cs := cs.filter fun c => c.left.any id
  s.putAll core uid (cs.foldl (fun l c => union l c.takers) []) (cs.foldl (fun f c => f ||| c.flags) 0#5) (cs.flatMap fun c => c.tasks c.left)

/-- The writes made so far for contributions. -/
def madeWrites (cs : List Contrib) : List Nat := cs.flatMap fun c => c.made.flatMap fun r => writesFrom r.1 r.2

/-- A contribution once the selected elements have been added by the writes from one number up to another; one that is done keeps no terms. -/
def Contrib.after (c : Contrib) (sel : List Bool) (w0 w1 : Nat) : Contrib :=
  let left := (c.left.zip sel).map fun x => x.1 && !x.2
  let made := (w0, w1) :: c.made
  if left.any id then { c with left := left, made := made } else { c with terms := [], left := [], made := made }

/-- A free selection of the elements of a contribution that are still to come; all of them when `all` says so (R159). -/
def Contrib.select (c : Contrib) (n : Nat) (all : Bool) : List Bool :=
  ((List.range c.left.length).zip c.left).map fun x => x.2 && (all || Config.pick (n + x.1) % 2 == 0)

/-- Some elements of one contribution of an open chain are added (R158, R159). -/
def State.applySome (s : State) (core uid : Nat) (c : Contrib) : State × Contrib :=
  let sel := c.select (s.prov.picks + 1) (Config.pick s.prov.picks % 2 == 0)
  let s0 := { s with prov := { s.prov with picks := s.prov.picks + 1 + c.left.length } }
  let s1 := s0.putAll core uid c.takers c.flags (c.tasks sel)
  (s1, c.after sel s.prov.next s1.prov.next)

/-- The writes that an operation inside a chain made, as a contribution that is done: MCHE makes them known (R311). -/
def Contrib.done (takers : List Nat) (w0 w1 : Nat) : Contrib :=
  { view := .null, vw := 32, isInt := false, sat := false, terms := [], left := [], flags := 0#5, takers := takers, made := [(w0, w1)] }

/-- A matrix operation writes its result; its members resume with it, or, inside a chain, learn of it at MCHE (R154, R311). -/
def State.finishMat (s : State) (m : MatOp) : State :=
  let w0 := s.prov.next
  let s1 := s.engineWrite m.core (s.passedByAll m.tids) m.eff.bytes
  if m.chained then
    let co := s1.co m.coh
    (s1.setCo m.coh { co with chains := co.chains.set m.cv ((co.chain m.cv).map (· ++ [Contrib.done m.tids w0 s1.prov.next])) }).raiseIn m.tids m.eff.flags
  else
    let ws := writesFrom w0 s1.prov.next
    let live := m.tids.filter fun t => (s1.th t).run == .blocked .matrix
    (live.foldl (fun st t => (st.see (.thread t) ws).ready t) s1).raiseIn live m.eff.flags

/-- The asynchronous chain and low-rank operations of a core that have not finished. -/
def State.openChains (s : State) (core : Nat) : List Op :=
  s.ops.filter fun o => o.core == core && o.phase != .done && (match o.body with | .chain _ => true | .lowRank _ _ _ => true | _ => false)

/-- A finished operation holds no view register any more (R159, R172). -/
def State.unhold (s : State) (o : Op) : State :=
  s.setCo o.coh { s.co o.coh with holds := (s.co o.coh).holds.filter fun h => !(h.2.1 == o.core && h.2.2 == o.serial) }

/-- A low-rank result is written: its bytes, and RANK and DENSE of the view register, which the members are certain of (R172, R353). -/
def State.putLowRank (s : State) (core coh : Nat) (tids : List Nat) (e : Effect) : State :=
  let s1 := s.engineWrite core [] e.bytes
  match e.rank with
  | none => s1
  | some (vw, r, dense) => s1.setCo coh ((s1.co coh).setV tids vw { ((s1.co coh).vc vw).newest with rank := r, dense := dense })

/-- An asynchronous matrix-engine operation ends: a closed chain's last contributions are added, a low-rank result is written, or its fault
fails the future (R158, R172, R360). -/
def State.finishChain (s : State) (o : Op) : State :=
  if o.phase = .done then s
  else
    let w0 := s.prov.next
    let told (st : State) : State := st.see (.op o.core o.serial) (writesFrom w0 st.prov.next)
    match o.body with
    | .chain parts => (((told (s.applyAll o.core o.uid parts)).see (.op o.core o.serial) (madeWrites parts)).unhold o).complete o.core o.serial (engStatus 0 0) 0
    | .lowRank e _ _ =>
      match e.fault with
      | some (code, detail) => (s.unhold o).complete o.core o.serial (engStatus code (detail.toNat % 2 ^ 24)) detail
      | none =>
        let s1 := told (s.putLowRank o.core o.coh (o.takers.map fun t => (s.th t).tid) e)
        ((s1.unhold o).updOp o.core o.serial fun x => { x with flags := e.flags }).complete o.core o.serial (engStatus 0 0) 0
    | _ => s

/-- The engine's earlier work is done before a later operation of the core (R155, R158). -/
def State.flushMat (s : State) (core : Nat) : State :=
  let mine := s.matops.filter fun m => m.core == core
  let s1 := mine.foldl State.finishMat { s with matops := s.matops.filter fun m => m.core != core }
  (s1.openChains core).foldl State.finishChain s1

/-- A uniform operand's registers hold no pending future, or the instruction waits (R330). -/
def State.uniform (s : State) (rs : List Nat) : Except Trap State :=
  match rs.findSome? (s.unsettled s.me) with
  | some w => .error (.wait (.future w.core w.serial) .none)
  | none => .ok (rs.foldl (fun st r => st.settle st.me r) s)

/-- The members wait for the engine at the fall-through (R154). -/
def State.sleepAll (s : State) (ms : List Nat) (len : Nat) (w : Wait) : State := ms.foldl (fun st t => st.goOn t len (.sleep w)) s

/-- Operands of an MMA after their checks: views, sources of bytes, or the Catalogue tile. -/
structure MmaOps where
  c : View
  a : View
  b : View
  asrc : OperandSrc
  bsrc : OperandSrc
  ch : Nat
  tile : Option (TileRec × Nat × Nat)
  levels : List Byte
  deriving DecidableEq, Repr

/-- VIEW_KIND of a Catalogue tile operand (R258, R456). -/
def catKind : Trap := .fault 0x05 0x10

/-- CTS is wrong as VIEW_KIND: its loaded slot is no levels image, or it is nonzero though no operand read from a view is CB4 (R151). -/
def State.ctsKind (s : State) (cts : Nat) (need : Bool) : Bool :=
  if need then (match s.ctval 5 cts with | some t => ctKind t.bytes != 2 | none => false) else cts != 0

/-- The levels that CTS names, where an operand read from a view is CB4 (R123, R151). -/
def State.ctsLevels (s : State) (cts : Nat) (need : Bool) : Except Trap (List Byte) :=
  if need then (match s.ctval 5 cts with | none => .error (slotFault 10 cts) | some t => .ok t.bytes) else .ok []

/-- The g registers of an MMA's tile name, which it reads before its checks (R330, R364). -/
def mmaName (op : Nat) (o : Canon) : List Nat := if op ≠ 0x92 ∧ bitsOf o.mod.toNat 5 4 = 2 then clsRegs .p64 o.b.toNat else []

/-- The checks of R123, R125, R151 to R153, in the operand order of R456. -/
def State.mmaCheck (s : State) (op : Nat) (o : Canon) : Except Trap (MmaOps × State) := do
  let m := o.mod.toNat
  let isInt : Bool := op == 0x91
  let cm : Bool := op == 0x92
  let ci := vwIdx o.d
  let ai := vwIdx o.a
  let bi := vwIdx o.b
  let cat : Bool := bitsOf m 5 4 == 2
  let cts := bitsOf m 10 8
  let cv ← s.viewOf 1 o.d
  let av ← s.viewOf 2 o.a
  if (if cm then cv.kind != 4 else cv.kind != 3 || cv.fmt != (if isInt then 4 else 13)) then .error (vkFault ci)
  else if av.kind != 5 || (cm && (av.fmt != fCF32 || av.layout != 0)) || av.rows != cv.rows || (isInt && bitOf m 12 != av.signed) then .error (vkFault ai)
  else
    let bv? : Option View ← if cat then .ok none else (s.viewOf 3 o.b).map some
    let bcb4 : Bool := (bv?.map fun v => v.fmt == fCB4).getD false
    let aneed : Bool := av.fmt == fCB4
    if s.ctsKind cts (aneed || bcb4) && (aneed || !bcb4) then .error (vkFault ai)
    else
    let asrc ← s.operandSrc (m % 4 == 1) (bitsOf m 3 2) (bitsOf o.imm.toNat 15 0) av ai
    match bv? with
    | none =>
      let name := s.b64 o
      let (r, i, s1) ← s.catRecord s.tctx name
      let bv := { r.shape with kind := 5 }
      match chunkLen isInt av bv with
      | none => .error catKind
      | some ch =>
        if bv.rows != av.cols || bv.cols != cv.cols || (isInt && bitOf m 13 != bv.signed) || av.cols % ch != 0 then .error catKind
        else
          let lev ← s1.ctsLevels cts aneed
          .ok ({ c := cv, a := av, b := bv, asrc := asrc, bsrc := .open_, ch := ch, tile := some (r, nameTensor name, i), levels := lev }, s1)
    | some bv =>
      let chunk := if cm then some 1 else chunkLen isInt av bv
      if bv.kind != 5 || (cm && (bv.fmt != fCF32 || bv.layout != 0)) || bv.rows != av.cols || bv.cols != cv.cols || (isInt && bitOf m 13 != bv.signed)
          || chunk.isNone || av.cols % (chunk.getD 1) != 0 || s.ctsKind cts (aneed || bcb4) then .error (vkFault bi)
      else
        let bsrc ← s.operandSrc (bitsOf m 5 4 == 1) (bitsOf m 7 6) (bitsOf o.imm.toNat 31 16) bv bi
        let lev ← s.ctsLevels cts (aneed || bcb4)
        .ok ({ c := cv, a := av, b := bv, asrc := asrc, bsrc := bsrc, ch := chunk.getD 1, tile := none, levels := lev }, s)

/-- B's bytes, its levels and the state: read from its source, or decoded through Vitrine (R153). -/
def State.mmaB (s : State) (p : MmaOps) : Except Trap (VData × List Byte × State) :=
  match p.tile with
  | none => let (d, s1) := s.readFrom (.thread s.me) p.bsrc p.b; .ok (d, p.levels, s1)
  | some (r, tensor, i) =>
    let cts := s.slots
    match s.decodeAt s.tctx r tensor i cts true with
    | .error t => .error t
    | .ok (d, s1) =>
      let rows := (groupsOf r.tcols r.trows d.codes).map (packBytes r.bits 0#8)
      .ok ({ rows := rows, scales := d.scales }, if r.fmt = fCB4 then (d.table.map (·.bytes)).getD [] else [], s1)

/-- The contributions of an MMA, one for each chunk in ascending order (R124, R125). -/
def mmaContribs (p : MmaOps) (isInt sat : Bool) (vw : Nat) (takers : List Nat) (ad bd : VData) (alev blev : List Byte) : List Contrib :=
  let k := p.a.cols
  let mk (ts : List Int) (f : Flags) : Contrib := { view := p.c, vw := vw, isInt := isInt, sat := sat, terms := ts, left := ts.map fun _ => true, flags := f, takers := takers, made := [] }
  if isInt then
    let a := tableOf p.a.rows k fun i j => readInt p.a.signed p.a.bits (ad.elem p.a i j)
    let b := columnsOf p.b.cols 0 (tableOf k p.b.cols fun i j => readInt p.b.signed p.b.bits (bd.elem p.b i j))
    (List.range (k / p.ch)).map fun c => mk (chunkInt a b c p.ch) 0#5
  else
    let a := tableOf p.a.rows k fun i j => operandNum p.a alev ad i j
    let b := columnsOf p.b.cols (.nan, 0#5) (tableOf k p.b.cols fun i j => operandNum p.b blev bd i j)
    let fl (xs : List (List (FNum × Flags))) : Flags := xs.foldl (fun f r => r.foldl (fun f x => f ||| x.2) f) 0#5
    let an := a.map fun r => r.map (·.1)
    let bn := b.map fun r => r.map (·.1)
    (List.range (k / p.ch)).map fun c => let (ts, f) := chunkFloat an bn c p.ch; mk ts (f ||| fl a ||| fl b)

/-- The matrix engine takes an operation that has read its operands: its result waits for MATRIX_OP_COMPLETE, its members with it unless their chain is open (R154). -/
def State.takeMat (s : State) (c : TeamCtx) (cells : List (Nat × Byte)) (f : Flags) : TeamOut :=
  let chained := ((s.co c.coh).chain c.cv).isSome
  let m : MatOp := { core := (s.co c.coh).core, coh := c.coh, cv := c.cv, tids := c.ms, chained := chained,
                     eff := { bytes := cells, rank := none, flags := f, fault := none } }
  let s1 : State := { s with matops := s.matops ++ [m] }
  if chained then .resume s1 else .placed (s1.sleepAll c.ms c.pt.word.len.toNat .matrix)

/-- MMA's effect, float or integer (R154, R158, R364). -/
def teamMma (op : Nat) : TeamEffect := fun c s => do
  let o := c.pt.word
  let isInt : Bool := op == 0x91
  let sn ← s.uniform (mmaName op o)
  let s0 := sn.flushMat sn.cco.core
  s0.faulting do
  let s := s0.joinTeam c
  let (p, s1) ← s.mmaCheck op o
  let (ad, s2) := s1.readFrom (.thread s1.me) p.asrc p.a
  let (bd, blev, s3) ← s2.mmaB p
  let parts := mmaContribs p isInt (bitOf o.mod.toNat 14) (vwIdx o.d) c.ms ad bd p.levels blev
  match (s3.co c.coh).chain c.cv with
  | some old =>
    let co := s3.co c.coh
    .ok (.resume (s3.setCo c.coh { co with chains := co.chains.set c.cv (some (old ++ parts)) }))
  | none =>
    let uid := (s3.co c.coh).uid
    let cs := s3.accRead uid p.c.base (p.c.rows * p.c.cols) 32
    let (out, f) := parts.foldl (fun (r : List Nat × Flags) x => let (v, g) := addTerms x.isInt x.sat r.1 x.terms; (v, r.2 ||| g ||| x.flags)) (cs, 0#5)
    .ok (s3.takeMat c (elemCells uid p.c.base 32 out) f)

/-- One part of a CACC element: hi and lo bits. -/
abbrev HiLo := Nat × Nat

/-- term() of R126. -/
def cmmaTerm (st : HiLo × Flags) (x y : FNum) (neg : Bool) : HiLo × Flags :=
  let ((hi, lo), fl) := st
  let p := x.mul y
  let pv := if neg then p.1.negate else p.1
  let h := (roundNum .fp32 .rne false pv).1
  let hN := FF.fp32.value h
  let l := if hN.isFin then (roundNum .fp32 .rne false (pv.add hN.negate).1).1 else 0
  let t := FF.fp32.add2 .rne false hi h
  let hiN := FF.fp32.value hi
  let e :=
    if hiN.isFin && hN.isFin && (FF.fp32.value t.1).isFin then
      if hN.abs.cmp hiN.abs != .gt then (FF.fp32.add2 .rne false (FF.fp32.sub2 .rne false hi t.1).1 h).1
      else (FF.fp32.add2 .rne false (FF.fp32.sub2 .rne false h t.1).1 hi).1
    else 0
  let a := FF.fp32.add2 .rne false lo e
  let b := FF.fp32.add2 .rne false a.1 l
  ((t.1, b.1), fl ||| t.2 ||| flagIf p.2 NV ||| ((a.2 ||| b.2) &&& NV))

/-- One CACC element over ascending k (R126): real part, imaginary part, flags. -/
def cmmaElem (re im : HiLo) (a b : List Nat) : HiLo × HiLo × Flags :=
  (a.zip b).foldl (fun (acc : HiLo × HiLo × Flags) x =>
    let num (v : Nat) : FNum := FF.fp32.value (v % 2 ^ 32)
    let ar := num x.1; let ai := num (x.1 / 2 ^ 32); let br := num x.2; let bi := num (x.2 / 2 ^ 32)
    let sn (v : Nat) : Flags := FF.fp32.snanFlag (v % 2 ^ 32) ||| FF.fp32.snanFlag (v / 2 ^ 32)
    let r := cmmaTerm (cmmaTerm (acc.1, acc.2.2) ar br false) ai bi true
    let i := cmmaTerm (cmmaTerm (acc.2.1, r.2) ar bi false) ai br false
    (r.1, i.1, i.2 ||| sn x.1 ||| sn x.2)) (re, im, 0#5)

/-- CMMA's effect (R126, R310). -/
def teamCmma : TeamEffect := fun c sn =>
  let o := c.pt.word
  let s0 := sn.flushMat sn.cco.core
  s0.faulting do
  let s := s0.joinTeam c
  let (p, s1) ← s.mmaCheck 0x92 o
  let (ad, s2) := s1.readFrom (.thread s1.me) p.asrc p.a
  let (bd, s3) := s2.readFrom (.thread s2.me) p.bsrc p.b
  let n := p.c.rows * p.c.cols
  let uid := (s3.co c.coh).uid
  let lob := p.c.base + p.c.rows * p.c.pitch
  let hi := s3.accRead uid p.c.base n 64
  let lo := s3.accRead uid lob n 64
  let a := tableOf p.a.rows p.a.cols fun i j => ad.elem p.a i j
  let b := columnsOf p.b.cols 0 (tableOf p.b.rows p.b.cols fun i j => bd.elem p.b i j)
  let cells := (a.flatMap fun row => b.map fun col => (row, col)).zip (hi.zip lo)
  let out := cells.map fun x =>
    let h := x.2.1; let l := x.2.2
    cmmaElem (h % 2 ^ 32, l % 2 ^ 32) (h / 2 ^ 32, l / 2 ^ 32) x.1.1 x.1.2
  let join (re im : Nat) : Nat := re + im * 2 ^ 32
  let f := out.foldl (fun f x => f ||| x.2.2) 0#5
  .ok (s3.takeMat c (elemCells uid p.c.base 64 (out.map fun x => join x.1.1 x.2.1.1) ++ elemCells uid lob 64 (out.map fun x => join x.1.2 x.2.1.2)) f)

/-- MCHB's effect (R157, R360). -/
def teamMchb : TeamEffect := fun c s =>
  let co := s.co c.coh
  if (co.chain c.cv).isSome then .error (.fault 0x12 (teamDetail 10 c.cv))
  else .ok (.resume (s.setCo c.coh { co with chains := co.chains.set c.cv (some []) }))

/-- MCHE's effect (R158, R360): the rest of the contributions is added, at once or by an operation with a kind-1 future. -/
def teamMche : TeamEffect := fun c s0 =>
  let s := s0.flushMat (s0.co c.coh).core
  let co := s.co c.coh
  match co.chain c.cv with
  | none => .error (.fault 0x12 (teamDetail 10 c.cv))
  | some parts =>
    let s1 := s.setCo c.coh { co with chains := co.chains.set c.cv none }
    let earlier := madeWrites parts
    if c.pt.word.mod.getLsbD 0 then
      let (h, s2) := s1.fork 1 false .running 0 (.chain parts)
      let co2 := s2.co c.coh
      let vs := (parts.foldl (fun l p => union l [p.vw]) []).filter (· < 32)
      let s3 := s2.setCo c.coh { co2 with holds := co2.holds ++ vs.map fun v => (v, hCore h, hSerial h) }
      let s4 := s3.see (.op (hCore h) (hSerial h)) (union (s3.passedByAll c.ms) earlier)
      .ok (.resume (c.ms.foldl (fun st t => st.as t fun x => x.putFuture c.pt.word.d h) s4))
    else
      let w0 := s1.prov.next
      let s2 := s1.applyAll co.core co.uid parts
      let ws := union earlier (writesFrom w0 s2.prov.next)
      .ok (.resume (c.ms.foldl (fun st t => st.see (.thread t) ws) s2))

/-- MMA, float (R363). -/
def execMmaFloat (o : Canon) (s : State) : Host.Outcome State Fault Refusal := run 0x90 o s (signBody 0x90 o 4 false (fun _ => []) (teamMma 0x90))
/-- MMA, integer (R363). -/
def execMmaInteger (o : Canon) (s : State) : Host.Outcome State Fault Refusal := run 0x91 o s (signBody 0x91 o 4 false (fun _ => []) (teamMma 0x91))
/-- CMMA (R309). -/
def execCmma (o : Canon) (s : State) : Host.Outcome State Fault Refusal := run 0x92 o s (signBody 0x92 o 4 false (fun _ => []) teamCmma)
/-- MCHB (R359). -/
def execMchb (o : Canon) (s : State) : Host.Outcome State Fault Refusal := run 0x93 o s (signBody 0x93 o 4 false (fun _ => []) teamMchb)
/-- MCHE (R359). -/
def execMche (o : Canon) (s : State) : Host.Outcome State Fault Refusal := run 0x94 o s (signBody 0x94 o 4 false (fun _ => []) teamMche)

/-- A contribution of which some element is still to be added. -/
def pendingContrib (c : Contrib) : Bool := c.left.any id

/-- The contributions of a core's open chains that are still to be added: cohort, convergence register, place in the chain. -/
def State.pendingParts (s : State) (core : Nat) : List (Nat × Nat × Nat) :=
  ((List.range s.cohorts.length).filter fun i => (s.co i).core == core && (s.co i).place == .resident).flatMap fun i =>
    (List.range 8).flatMap fun cv =>
      let parts := ((s.co i).chain cv).getD []
      ((List.range parts.length).filter fun k => ((parts[k]?).map pendingContrib).getD false).map fun k => (i, cv, k)

/-- Elements of one contribution of an open chain of a core's cohorts are added; which chain, which contribution and which elements are free choices (R158, R159). -/
def State.addSome (s : State) (core : Nat) : State :=
  let open_ := s.pendingParts core
  match open_[Config.pick s.prov.picks % max 1 open_.length]? with
  | none => s
  | some (i, cv, k) =>
    let parts := ((s.co i).chain cv).getD []
    match parts[k]? with
    | none => s
    | some c =>
      let s1 := (s.openChains core).foldl State.finishChain s.usePick
      let (s2, c') := s1.applySome core (s.co i).uid c
      s2.setCo i { s2.co i with chains := (s2.co i).chains.set cv (some (parts.set k c')) }

/-- MATRIX_OP_COMPLETE (R154, R155): the oldest operation of a core's engine writes its result and its members resume; with none pending, elements of one
contribution of an open chain are added (R158, R159). -/
def execMatrixOpComplete (core : Nat) (s : State) : Host.Outcome State Fault Refusal :=
  match s.matops.find? fun m => m.core == core with
  | some m => .next (({ s with matops := s.matops.erase m } : State).finishMat m)
  | none => .next (s.addSome core)

/-- CHAIN_COMPLETE (R158). -/
def execChainComplete (core : Nat) (serial : BitVec 20) (s : State) : Host.Outcome State Fault Refusal :=
  match s.findOp core serial.toNat with
  | some o => .next (s.finishChain o)
  | none => .next s

end Sys2Proof.Machine
end

