-- ==== Sys2Proof/Machine/LowRank.lean ====
section
/-! DEFINITION. Factor tiles: products, sums, recompression, conversion, and the instructions of the low-rank family (R164-R174, R352-R354). -/

namespace Sys2Proof.Machine

/-- fdot of R164, with the flags of invalid operations (R118). -/
def fdot (xs ys : List Nat) : Nat × Flags :=
  (xs.zip ys).foldl (fun acc p => let r := FF.fp32.fma .rne false p.1 p.2 acc.1; (r.1, acc.2 ||| (r.2 &&& NV))) (0, 0#5)

/-- Row `i` of a matrix of columns. -/
def rowOf (cols : List (List Nat)) (i : Nat) : List Nat := cols.map fun c => nth 0 c i

/-- The value of FP32 bits. -/
def f32v (x : Nat) : FNum := FF.fp32.value x

/-- The negative of FP32 bits. -/
def f32neg (x : Nat) : Nat := Nat.xor x 0x80000000

/-- FP32 bits that are neither NaN nor infinite (R173). -/
def fin32 (x : Nat) : Option Nat := if (f32v x).isFin then some x else none

/-- All finite (R173). -/
def allFin (xs : List Nat) : Option (List Nat) := if xs.all fun x => (f32v x).isFin then some xs else none

/-- round(exact(a b + c d), fp32, RNE). -/
def mulAdd2 (a b c d : Nat) : Nat := (roundNum .fp32 .rne false (((f32v a).mul (f32v b)).1.add ((f32v c).mul (f32v d)).1).1).1

/-- A factor operand as FP32 bits in pool order (R71, R164). -/
structure Fact where
  m : Nat
  n : Nat
  r : Nat
  dense : Bool
  xs : List Nat
  deriving DecidableEq, Repr

/-- Columns of U. -/
def Fact.u (f : Fact) : List (List Nat) := (List.range f.r).map fun p => (f.xs.drop (p * f.m)).take f.m
/-- Columns of V. -/
def Fact.v (f : Fact) : List (List Nat) := (List.range f.r).map fun p => (f.xs.drop (f.r * f.m + p * f.n)).take f.n

/-- The FP32 expansion, row by row (R164). -/
def Fact.expand (f : Fact) : List (List (Nat × Flags)) :=
  if f.dense then (List.range f.m).map fun i => ((f.xs.drop (i * f.n)).take f.n).map fun x => (x, 0#5)
  else tableOf f.m f.n fun i j => fdot (rowOf f.u i) (rowOf f.v j)

/-- Flags of a table. -/
def tableFlags {α : Type} (t : List (List (α × Flags))) : Flags := t.foldl (fun f r => r.foldl (fun f x => f ||| x.2) f) 0#5

/-- The values of a table. -/
def tableVals {α : Type} (t : List (List (α × Flags))) : List (List α) := t.map fun r => r.map (·.1)

/-- A low-rank result before it is rounded into the destination: mode, rank, elements in pool order or row by row, flags. -/
structure LrRes where
  dense : Bool
  rank : Nat
  vals : List FNum
  flags : Flags

/-- A result in factor mode from columns of U and V. -/
def LrRes.fact (r : Nat) (u v : List (List Nat)) (f : Flags) : LrRes := { dense := false, rank := r, vals := (u ++ v).flatMap fun c => c.map f32v, flags := f }

/-- LRMUL's product (R165). -/
def lrMul (a b : Fact) : LrRes :=
  if (!a.dense && a.r == 0) || (!b.dense && b.r == 0) then .fact 0 [] [] 0#5
  else if a.dense || b.dense then
    let ea := a.expand
    let eb := b.expand
    let bc := columnsOf b.n 0 (tableVals eb)
    let t := (tableVals ea).map fun row => bc.map fun col => fdot row col
    { dense := true, rank := 0, vals := (tableVals t).flatMap fun r => r.map f32v, flags := tableFlags ea ||| tableFlags eb ||| tableFlags t }
  else
    let w := a.v.map fun va => b.u.map fun ub => fdot va ub
    let wv := tableVals w
    if a.r ≤ b.r then
      let v := wv.map fun wp => (List.range b.n).map fun j => fdot (rowOf b.v j) wp
      .fact a.r a.u (tableVals v) (tableFlags w ||| tableFlags v)
    else
      let u := (List.range b.r).map fun q => (List.range a.m).map fun i => fdot (rowOf a.u i) (rowOf wv q)
      .fact b.r (tableVals u) b.v (tableFlags w ||| tableFlags u)

/-- mgs of R174 on columns: Q and R by columns, R by its entries up to the diagonal; none where R173 applies. -/
def mgs : List (List Nat) → List (List Nat) → List (List Nat) → Option (List (List Nat) × List (List Nat))
  | q, r, [] => some (q, r)
  | q, r, x :: xs => do
    let (w, rs) := q.foldl (fun (acc : List Nat × List Nat) qi =>
      let rij := (fdot qi acc.1).1
      ((acc.1.zip qi).map fun y => (FF.fp32.fma .rne false (f32neg rij) y.2 y.1).1, acc.2 ++ [rij])) (x, [])
    let _ ← allFin (rs ++ w)
    let d ← fin32 (sqrtRn (fdot w w).1)
    let qj ← allFin (w.map fun e => if d = 0 then 0 else divRn e d)
    mgs (q ++ [qj]) (r ++ [rs ++ [d]]) xs

/-- exact(γγ) ≤ exact(2⁻⁴⁶ α β) (R174). -/
def skipPair (g a b : Nat) : Bool :=
  ((f32v g).mul (f32v g)).1.cmp ((((f32v a).mul (f32v b)).1).mul (.fin (Ex.pow2 (-46)))).1 != .gt

/-- The rotation of R174: c and s. -/
def jacobi (al be ga : Nat) : Option (Nat × Nat) := do
  let d1 ← fin32 (FF.fp32.sub2 .rne false be al).1
  let d2 ← fin32 (FF.fp32.add2 .rne false ga ga).1
  let z ← fin32 (divRn d1 d2)
  let one := 0x3F800000
  let az := z % 2 ^ 31
  let neg : Bool := decide (2 ^ 31 < z)
  let t ← if 0x5D800000 ≤ az then do
      let q ← fin32 (FF.fp32.add2 .rne false z z).1
      fin32 (divRn one q)
    else do
      let e ← fin32 (FF.fp32.fma .rne false z z one).1
      let q ← fin32 (FF.fp32.add2 .rne false az (sqrtRn e)).1
      fin32 (divRn (if neg then f32neg one else one) q)
  let e1 ← fin32 (FF.fp32.fma .rne false t t one).1
  let c ← fin32 (divRn one (sqrtRn e1))
  let s ← fin32 (FF.fp32.mul2 .rne false c t).1
  some (c, s)

/-- Rotate columns i and j. -/
def rotate (c s i j : Nat) (x : List (List Nat)) : Option (List (List Nat)) := do
  let prs := (nth [] x i).zip (nth [] x j)
  let xi ← allFin (prs.map fun p => mulAdd2 c p.1 (f32neg s) p.2)
  let xj ← allFin (prs.map fun p => mulAdd2 s p.1 c p.2)
  some ((x.set i xi).set j xj)

/-- One pair of a sweep (R174). -/
def sweepPair (acc : List (List Nat) × List (List Nat) × Bool) (p : Nat × Nat) : Option (List (List Nat) × List (List Nat) × Bool) := do
  let gi := nth [] acc.1 p.1
  let gj := nth [] acc.1 p.2
  let al ← fin32 (fdot gi gi).1
  let be ← fin32 (fdot gj gj).1
  let ga ← fin32 (fdot gi gj).1
  if skipPair ga al be then some acc
  else do
    let (c, s) ← jacobi al be ga
    let g ← rotate c s p.1 p.2 acc.1
    let v ← rotate c s p.1 p.2 acc.2.1
    some (g, v, true)

/-- The pairs of a sweep, row-cyclic. -/
def sweepPairs (r : Nat) : List (Nat × Nat) := (List.range r).flatMap fun i => (List.range (r - i - 1)).map fun k => (i, i + 1 + k)

/-- At most 12 sweeps (R174). -/
def sweeps (r : Nat) : Nat → List (List Nat) × List (List Nat) → Option (List (List Nat) × List (List Nat))
  | 0, x => some x
  | fuel + 1, x => do
    let (g, v, rot) ← (sweepPairs r).foldlM sweepPair (x.1, x.2, false)
    if rot then sweeps r fuel (g, v) else some (g, v)

/-- Σ σ² over a list, exactly. -/
def sumSq (xs : List Nat) : FNum := xs.foldl (fun a x => (a.add ((f32v x).mul (f32v x)).1).1) (.fin Ex.zero)

/-- The rank kept: the smallest k of R174, or LRKEEP's (R167). -/
def keptRank (sig : List Nat) (tol : Nat) (keep : Option Nat) : Nat :=
  match keep with
  | some b => min b sig.length
  | none =>
    if !(f32v tol).isFin then 0
    else
      let lim := (((f32v tol).mul (f32v tol)).1.mul (sumSq sig)).1
      ((List.range (sig.length + 1)).find? fun k => (sumSq (sig.drop k)).cmp lim != .gt).getD sig.length

/-- The identity's columns. -/
def identityCols (r : Nat) : List (List Nat) := tableOf r r fun i j => if i = j then 0x3F800000 else 0

/-- Recompression by R174: rank and columns, or none where R173 applies. -/
def recompressFin (fmt : FF) (u v : List (List Nat)) (m n tol : Nat) (keep : Option Nat) : Option (Nat × List FNum) := do
  let r := u.length
  let (qu, ru) ← mgs [] [] u
  let (qv, rv) ← mgs [] [] v
  let g0 := (List.range r).map fun q => (List.range r).map fun p => (fdot (rowOf ru p) (rowOf rv q)).1
  let _ ← allFin (g0.flatMap id)
  let (g, vc) ← sweeps r 12 (g0, identityCols r)
  let sig ← allFin (g.map fun c => sqrtRn (fdot c c).1)
  let uc := (g.zip sig).map fun x => x.1.map fun e => if x.2 = 0 then 0 else divRn e x.2
  let _ ← allFin (uc.flatMap id)
  let order := sorted (List.range r) fun a b => decide (nth 0 sig b < nth 0 sig a) || (nth 0 sig a == nth 0 sig b && decide (a ≤ b))
  let k := keptRank (order.map (nth 0 sig ·)) tol keep
  let cols := order.take k
  let ud ← allFin (cols.flatMap fun q => (List.range m).map fun l => (fdot (rowOf qu l) (nth [] uc q)).1)
  let vd ← allFin (cols.flatMap fun q => (List.range n).map fun l => (fdot (rowOf qv l) (nth [] vc q)).1)
  let sg := cols.flatMap fun q => List.replicate m (nth 0 sig q)
  let vals := ((ud.zip sg).map fun x => ((f32v x.1).mul (f32v x.2)).1) ++ vd.map f32v
  if vals.all fun x => (fmt.value (roundNum fmt .rne false x).1).isFin then some (k, vals) else none

/-- Recompression (R173, R174). -/
def recompress (fmt : FF) (u v : List (List Nat)) (m n tol : Nat) (keep : Option Nat) : LrRes :=
  let kept : LrRes := .fact u.length u v NV
  if (u ++ v).all fun c => c.all fun x => (f32v x).isFin then
    match recompressFin fmt u v m n tol keep with
    | some (k, vals) => { dense := false, rank := k, vals := vals, flags := 0#5 }
    | none => kept
  else kept

/-- |%ftol|, a NaN as 0 (R174). -/
def tolOf (v : Word) : Nat := if (f32v v.toNat).isNan then 0 else v.toNat % 2 ^ 31

/-- Elements as FP32, with the flag of signalling NaNs (R118). -/
def asF32 (f : FF) (xs : List Nat) : List Nat × Flags :=
  (xs.map fun x => (roundNum .fp32 .rne false (f.value x)).1, xs.foldl (fun fl x => fl ||| f.snanFlag x) 0#5)

/-- Read a factor view as FP32. -/
def State.readFact (s : State) (a : Agent) (v : View) : Fact × Flags × State :=
  let (xs, s1) := s.readPool a s.cco.uid v
  let (ys, f) := asF32 ((fmtFF v.fmt).getD .fp32) xs
  ({ m := v.rows, n := v.cols, r := v.rank, dense := v.dense, xs := ys }, f, s1)

/-- A FACT view operand, in the order of R456. -/
def State.factView (s : State) (f : Nat) (sel : BitVec 8) : Except Trap View :=
  match s.viewOf f sel with
  | .error t => .error t
  | .ok v => if v.kind = 6 then .ok v else .error (vkFault (vwIdx sel))

/-- A low-rank operation's destination, result and state after its reads. -/
structure LrOut where
  dst : View
  vw : Nat
  res : LrRes
  st : State

/-- LRMUL (R165). -/
def State.lrMul (s : State) (a : Agent) (o : Canon) : Except Trap LrOut := do
  let d ← s.factView 1 o.d
  let av ← s.factView 2 o.a
  if d.rows ≠ av.rows then .error (vkFault (vwIdx o.a))
  else
    let bv ← s.factView 3 o.b
    if av.cols ≠ bv.rows ∨ d.cols ≠ bv.cols then .error (vkFault (vwIdx o.b))
    else
      let (fa, f1, s1) := s.readFact a av
      let (fb, f2, s2) := s1.readFact a bv
      let r := Machine.lrMul fa fb
      .ok { dst := d, vw := vwIdx o.d, res := { r with flags := r.flags ||| f1 ||| f2 }, st := s2 }

/-- FP32 columns converted into a format by one rounding, as FP32 again (R166). -/
def throughFmt (f : FF) (cols : List (List Nat)) : List (List Nat) :=
  cols.map fun c => c.map fun x => (roundNum .fp32 .rne false (f.value (roundNum f .rne false (f32v x)).1)).1

/-- LRADD (R166): the concatenation, converted into d's format, is recompressed by R174. -/
def State.lrAdd (s : State) (a : Agent) (o : Canon) : Except Trap LrOut := do
  let d ← s.factView 1 o.d
  let av ← s.factView 2 o.a
  if d.rows ≠ av.rows ∨ d.cols ≠ av.cols then .error (vkFault (vwIdx o.a))
  else
    let bv ← s.factView 3 o.b
    if d.rows ≠ bv.rows ∨ d.cols ≠ bv.cols then .error (vkFault (vwIdx o.b))
    else
      let (fa, f1, s1) := s.readFact a av
      let (fb, f2, s2) := s1.readFact a bv
      let out (r : LrRes) : Except Trap LrOut := .ok { dst := d, vw := vwIdx o.d, res := { r with flags := r.flags ||| f1 ||| f2 }, st := s2 }
      if fa.dense || fb.dense then
        let ea := fa.expand
        let eb := fb.expand
        let sums := ((tableVals ea).flatMap id |>.zip ((tableVals eb).flatMap id)).map fun x => (f32v x.1).add (f32v x.2)
        out { dense := true, rank := 0, vals := sums.map (·.1), flags := sums.foldl (fun f x => f ||| flagIf x.2 NV) (tableFlags ea ||| tableFlags eb) }
      else if fa.r + fb.r ≤ d.maxrank ∨ o.mod.getLsbD 0 = false then out (.fact (fa.r + fb.r) (fa.u ++ fb.u) (fa.v ++ fb.v) 0#5)
      else
        let f := (fmtFF d.fmt).getD .fp32
        out (recompress f (throughFmt f (fa.u ++ fb.u)) (throughFmt f (fa.v ++ fb.v)) d.rows d.cols (tolOf (s.cco.ftol.read s.cth.tid s.prov.picks)) none)

/-- %ftol as the operation reads it (R60, R353). -/
def State.tolNow (s : State) : Nat := tolOf (s.cco.ftol.read s.cth.tid s.prov.picks)

/-- LRCUT and LRKEEP (R167). -/
def State.lrCut (s : State) (a : Agent) (o : Canon) (keep : Option Nat) : Except Trap LrOut := do
  let d ← s.factView 1 o.d
  let av ← s.factView 2 o.a
  if av.dense || d.rows != av.rows || d.cols != av.cols then .error (vkFault (vwIdx o.a))
  else
    let (fa, f1, s1) := s.readFact a av
    let r := recompress ((fmtFF d.fmt).getD .fp32) fa.u fa.v d.rows d.cols s.tolNow keep
    .ok { dst := d, vw := vwIdx o.d, res := { r with flags := r.flags ||| f1 }, st := s1 }

/-- The dense source of LRFACT as rows of FP32 (R168). -/
def State.denseRows (s : State) (a : Agent) (v : View) : List (List Nat) × Flags × State :=
  if v.kind = 6 then
    let (f, fl, s1) := s.readFact a v
    (tableVals f.expand, fl, s1)
  else
    let (x, s1) := s.readView a s.cco.uid v
    let t := tableOf v.rows v.cols fun i j =>
      let r := mulScale .fp32 .rne (elemNum v.fmt false (x.elem v i j)) (x.scale v i j)
      (r.1, r.2 &&& NV)
    (tableVals t, tableFlags t, s1)

/-- LRFACT (R168). -/
def State.lrFact (s : State) (a : Agent) (o : Canon) : Except Trap LrOut := do
  let d ← s.factView 1 o.d
  let v ← s.viewOf 2 o.a
  let src : Bool := (v.kind == 6 && v.dense) || ((v.kind == 2 || v.kind == 5) && (v.fmt == 13 || v.fmt == 12))
  if !src || d.rows != v.rows || d.cols != v.cols then .error (vkFault (vwIdx o.a))
  else
    let (rows, f1, s1) := s.denseRows a v
    let m := v.rows
    let n := v.cols
    let r := if n ≤ m then recompress ((fmtFF d.fmt).getD .fp32) (columnsOf n 0 rows) (identityCols n) m n s.tolNow none
      else recompress ((fmtFF d.fmt).getD .fp32) (identityCols m) rows m n s.tolNow none
    let whole : Bool := o.mod.getLsbD 0 && (decide (d.maxrank < r.rank) || decide (m * n < (m + n) * r.rank))
    let res : LrRes := if whole then { dense := true, rank := 0, vals := rows.flatMap fun x => x.map f32v, flags := r.flags } else r
    .ok { dst := d, vw := vwIdx o.d, res := { res with flags := res.flags ||| f1 }, st := s1 }

/-- LRDENSE (R169): into a FACT view a dense result, into a plain view the quotients by its scales, already in its format. -/
def State.lrDense (s : State) (a : Agent) (o : Canon) : Except Trap (LrOut × List (List Nat)) := do
  let d ← s.viewOf 1 o.d
  if !((d.kind == 2 || d.kind == 5) && (fmtFF d.fmt).isSome) && d.kind != 6 then .error (vkFault (vwIdx o.d))
  else
    let av ← s.factView 2 o.a
    if d.rows ≠ av.rows ∨ d.cols ≠ av.cols then .error (vkFault (vwIdx o.a))
    else
      let (fa, f1, s1) := s.readFact a av
      let e := fa.expand
      let (sc, s2) := if d.kind = 6 then ([], s1) else s1.readScales a s.cco.uid d
      let dd : VData := { rows := [], scales := sc }
      let q := if d.kind = 6 then [] else tableOf d.rows d.cols fun i j =>
        let r := divScale ((fmtFF d.fmt).getD .fp32) .rne false (f32v (nth 0 (nth [] (tableVals e) i) j), 0#5) (dd.scale d i j)
        (r.1, r.2 &&& NV)
      .ok ({ dst := d, vw := vwIdx o.d, st := s2,
             res := { dense := true, rank := 0, vals := (tableVals e).flatMap fun r => r.map f32v, flags := f1 ||| tableFlags e ||| tableFlags q } }, tableVals q)

/-- LRSCALE (R169). -/
def State.lrScale (s : State) (a : Agent) (o : Canon) : Except Trap LrOut := do
  let d ← s.factView 1 o.d
  let av ← s.factView 2 o.a
  if d.rows ≠ av.rows ∨ d.cols ≠ av.cols then .error (vkFault (vwIdx o.a))
  else
    let (fa, f1, s1) := s.readFact a av
    let x := s.rdF .fp32 3 o.b o.imm
    let nu := if fa.dense then fa.xs.length else fa.r * fa.m
    let ps := (fa.xs.take nu).map fun y => (f32v y).mul (f32v x)
    .ok { dst := d, vw := vwIdx o.d, st := s1,
          res := { dense := fa.dense, rank := fa.r, vals := ps.map (·.1) ++ (fa.xs.drop nu).map f32v,
                   flags := ps.foldl (fun f y => f ||| flagIf y.2 NV) (f1 ||| FF.fp32.snanFlag x) } }

/-- RANK_OVERFLOW, then FACTOR_SPACE; then the pool's bytes, those beyond the occupancy unspecified (R72, R118, R171). -/
def LrOut.effect (p : LrOut) : Except Trap (Effect × State) :=
  let v : View := { p.dst with rank := if p.res.dense then 0 else p.res.rank, dense := p.res.dense }
  if !p.res.dense && decide (v.maxrank < p.res.rank) then .error (.fault (rankFault p.res.rank v.maxrank p.vw).1 (rankFault p.res.rank v.maxrank p.vw).2)
  else if v.poolsz < v.occupancy then .error (.fault (spaceFault v.occupancy p.vw).1 (spaceFault v.occupancy p.vw).2)
  else
    let f := (fmtFF v.fmt).getD .fp32
    let r := p.res.vals.map fun x => roundNum f .rne false x
    let (rest, s1) := p.st.freeBytes (v.poolsz - v.occupancy)
    let uid := s1.cco.uid
    let cells (off : Nat) (b : List Byte) : List (Nat × Byte) := ((List.range b.length).zip b).map fun x => (tileKey uid (off + x.1), x.2)
    .ok ({ bytes := cells v.base (elemsBytes v.bits (r.map (·.1))) ++ cells (v.base + v.occupancy) rest, rank := some (p.vw, v.rank, v.dense),
           flags := r.foldl (fun fl x => fl ||| (x.2 &&& NV)) p.res.flags, fault := none }, s1)

/-- The result of an instruction of the family that writes a FACT view. -/
def State.lrOut (s : State) (op : Nat) (a : Agent) (o : Canon) : Except Trap LrOut :=
  match op with
  | 0xA0 => s.lrMul a o
  | 0xA1 => s.lrAdd a o
  | 0xA2 => s.lrCut a o none
  | 0xA3 => s.lrCut a o (some (s.b32 o).toNat)
  | 0xA4 => s.lrFact a o
  | _ => s.lrScale a o

/-- The g registers of a uniform operand b. -/
def uniformB (o : Canon) : List Nat := if isG o.b.toNat then [o.b.toNat] else []

/-- Members resume with what the engine wrote since `w0` (R311, R353). -/
def TeamCtx.resumeLr (c : TeamCtx) (s : State) (w0 : Nat) (f : Flags) : TeamOut :=
  let ws := writesFrom w0 s.prov.next
  .resume (c.raise (c.ms.foldl (fun st t => st.see (.thread t) ws) s) f)

/-- The effect of LRMUL, LRADD, LRCUT, LRKEEP, LRFACT and LRSCALE (R353). -/
def teamFact (op : Nat) : TeamEffect := fun c s0 => do
  let o := c.pt.word
  let sn ← if op = 0xA3 ∨ op = 0xA8 then s0.uniform (uniformB o) else .ok s0
  let s1 := sn.flushMat sn.cco.core
  s1.faulting do
  let s := s1.joinTeam c
  let p ← s.lrOut op (.thread s.me) o
  let (e, s2) ← p.effect
  let s3 := s2.putLowRank (s2.co c.coh).core c.coh (c.ms.map fun t => (s2.th t).tid) e
  .ok (c.resumeLr s3 s2.prov.next e.flags)

/-- The effect of LRCUT.async and LRFACT.async: members resume at once with one future of kind 7; faults fail it (R172). -/
def teamFactAsync (op : Nat) : TeamEffect := fun c s0 => do
  let o := c.pt.word
  let _ ← s0.viewOf 1 o.d
  let _ ← s0.viewOf 2 o.a
  let s := (s0.flushMat s0.cco.core).joinTeam c
  let (e, s2) : Effect × State := match (s.lrOut op (.thread s.me) o).bind LrOut.effect with
    | .ok r => r
    | .error (.fault code detail) => ({ bytes := [], rank := none, flags := 0, fault := some (code, detail) }, s)
    | .error _ => ({ bytes := [], rank := none, flags := 0, fault := none }, s)
  let (h, s3) := s2.fork 7 false .running 0 (.lowRank e (vwIdx o.d) (vwIdx o.a))
  let s4 := s3.updOp (hCore h) (hSerial h) fun x => { x with takers := c.ms }
  let s5 := s4.see (.op (hCore h) (hSerial h)) (s4.passedByAll c.ms)
  let co := s5.co c.coh
  let s6 := s5.setCo c.coh { co with holds := co.holds ++ [(vwIdx o.d, hCore h, hSerial h), (vwIdx o.a, hCore h, hSerial h)] }
  .ok (.resume (c.ms.foldl (fun st t => st.as t fun x => x.putFuture o.b h) s6))

/-- LRDENSE's effect (R169). -/
def teamLrdense : TeamEffect := fun c sn =>
  let o := c.pt.word
  let s0 := sn.flushMat sn.cco.core
  s0.faulting do
  let s := s0.joinTeam c
  let a : Agent := .thread s.me
  let (p, q) ← s.lrDense a o
  if p.dst.kind = 6 then
    let (e, s2) ← p.effect
    .ok (c.resumeLr (s2.putLowRank (s2.co c.coh).core c.coh (c.ms.map fun t => (s2.th t).tid) e) s2.prov.next e.flags)
  else
    let s2 := p.st
    let co := s2.co c.coh
    let s3 := ((List.range q.length).zip q).foldl (fun st x =>
      let off := p.dst.base + x.1 * p.dst.pitch
      let old := Memory.get st.mem (tileKey co.uid (off + p.dst.rowBytes - 1))
      let b := packBytes p.dst.bits old x.2
      st.engineWrite co.core [] (((List.range b.length).zip b).map fun y => (tileKey co.uid (off + y.1), y.2))) s2
    .ok (c.resumeLr s3 s2.prov.next p.res.flags)

/-- LRRANK's value (R169). -/
def rankWord (v : View) : Word := BitVec.ofNat 32 (v.rank % 128 + (if v.dense then 128 else 0) + v.occupancy / 256 % 512 * 2 ^ 8)

/-- LRRANK's effect. -/
def teamLrrank : TeamEffect := fun c s => do
  let v ← s.factView 2 c.pt.word.a
  .ok (.resume (c.give s fun _ => rankWord v))

/-- LRMMA's effect (R170): the engine takes the operation as it takes an MMA, never inside a chain's order (R154, R158). -/
def teamLrmma : TeamEffect := fun c sn =>
  let o := c.pt.word
  let s0 := sn.flushMat sn.cco.core
  s0.faulting do
  let s := s0.joinTeam c
  let cv ← s.viewOf 1 o.d
  let av ← s.viewOf 2 o.a
  let bv ← s.viewOf 3 o.b
  if cv.kind ≠ 3 ∨ cv.fmt ≠ 13 then .error (vkFault (vwIdx o.d))
  else if av.kind != 5 || !(av.fmt == 13 || av.fmt == 12 || av.fmt == 11) || av.layout != 0 || av.rows != cv.rows then .error (vkFault (vwIdx o.a))
  else if bv.kind ≠ 6 ∨ av.cols ≠ bv.rows ∨ bv.cols ≠ cv.cols then .error (vkFault (vwIdx o.b))
  else
    let ag : Agent := .thread s.me
    let uid := s.cco.uid
    let (ad, s1) := s.readView ag uid av
    let (b, f2, s2) := s1.readFact ag bv
    let ars := (tableOf av.rows 1 fun i _ => asF32 ((fmtFF av.fmt).getD .fp32) ((List.range av.cols).map (ad.elem av i)))
    let ar := (tableVals ars).flatMap id
    let (tm, vr) : List (List (Nat × Flags)) × List (List Nat) :=
      if b.dense then (ar.map fun r => r.map fun x => (x, 0#5), columnsOf b.n 0 (tableVals b.expand))
      else (ar.map fun r => b.u.map fun u => fdot r u, (List.range b.n).map (rowOf b.v))
    let terms := (tableVals tm).map fun r => vr.map fun x => fdot r x
    let old := s2.accRead uid cv.base (cv.rows * cv.cols) 32
    let out := (old.zip ((tableVals terms).flatMap id)).map fun x => FF.fp32.add2 .rne false x.1 x.2
    let f := out.foldl (fun f x => f ||| x.2) (f2 ||| tableFlags ars ||| tableFlags tm ||| tableFlags terms)
    .ok (s2.takeMat c (elemCells uid cv.base 32 (out.map (·.1))) f)

/-- LRMUL (R352). -/
def execLrmul (o : Canon) (s : State) : Host.Outcome State Fault Refusal := run 0xA0 o s (signBody 0xA0 o 4 false (fun _ => []) (teamFact 0xA0))
/-- LRADD (R352). -/
def execLradd (o : Canon) (s : State) : Host.Outcome State Fault Refusal := run 0xA1 o s (signBody 0xA1 o 4 false (fun _ => []) (teamFact 0xA1))
/-- The effect of LRCUT and LRFACT, by ASYNC (R172). -/
def teamFactBy (op : Nat) : TeamEffect := fun c s => if c.pt.word.mod.getLsbD 1 then teamFactAsync op c s else teamFact op c s
/-- LRCUT (R352). -/
def execLrcut (o : Canon) (s : State) : Host.Outcome State Fault Refusal := run 0xA2 o s (signBody 0xA2 o 4 false (fun _ => []) (teamFactBy 0xA2))
/-- LRKEEP (R352). -/
def execLrkeep (o : Canon) (s : State) : Host.Outcome State Fault Refusal := run 0xA3 o s (signBody 0xA3 o 4 false (fun _ => []) (teamFact 0xA3))
/-- LRFACT (R352). -/
def execLrfact (o : Canon) (s : State) : Host.Outcome State Fault Refusal := run 0xA4 o s (signBody 0xA4 o 4 false (fun _ => []) (teamFactBy 0xA4))
/-- LRDENSE (R352). -/
def execLrdense (o : Canon) (s : State) : Host.Outcome State Fault Refusal := run 0xA5 o s (signBody 0xA5 o 4 false (fun _ => []) teamLrdense)
/-- LRMMA (R352). -/
def execLrmma (o : Canon) (s : State) : Host.Outcome State Fault Refusal := run 0xA6 o s (signBody 0xA6 o 4 false (fun _ => []) teamLrmma)
/-- LRRANK (R352). -/
def execLrrank (o : Canon) (s : State) : Host.Outcome State Fault Refusal := run 0xA7 o s (signBody 0xA7 o 4 false (fun _ => []) teamLrrank)
/-- LRSCALE (R352). -/
def execLrscale (o : Canon) (s : State) : Host.Outcome State Fault Refusal := run 0xA8 o s (signBody 0xA8 o 4 false (fun _ => []) (teamFact 0xA8))

/-- LOW_RANK_ASYNC_COMPLETE (R172). -/
def execLowRankAsyncComplete (core : Nat) (serial : BitVec 20) (s : State) : Host.Outcome State Fault Refusal :=
  match s.findOp core serial.toNat with
  | some o => .next (match o.body with | .lowRank _ _ _ => s.finishChain o | _ => s)
  | none => .next s

end Sys2Proof.Machine
end

