-- ==== Sys2Proof/Machine/Team.lean ====
section
/-! DEFINITION. The effect of every team instruction by opcode, and the end of a thread (R37, R38, R41, R43, R157, R318). -/

namespace Sys2Proof.Machine

/-- The effect that an open signing point waits to execute (R37). -/
def teamEffectOf (op : Nat) : TeamEffect :=
  match op with
  | 0x4A => teamLser
  | 0x51 => teamTsign
  | 0x52 => teamVote
  | 0x53 => teamLanex
  | 0x54 => teamTred
  | 0x55 => teamTscan
  | 0x85 => teamReqnt
  | 0x90 => teamMma 0x90
  | 0x91 => teamMma 0x91
  | 0x92 => teamCmma
  | 0x93 => teamMchb
  | 0x94 => teamMche
  | 0xA2 => teamFactBy 0xA2
  | 0xA4 => teamFactBy 0xA4
  | 0xA5 => teamLrdense
  | 0xA6 => teamLrmma
  | 0xA7 => teamLrrank
  | op => teamFact op

/-- Points of a cohort whose last missing member has signed or exited execute (R37, R38). -/
def State.tryPoints (s : State) (coh : Nat) : State :=
  (List.range 8).foldl (fun st i => match (st.co coh).point i with
    | some p => st.teamExecute (teamEffectOf p.op) coh i
    | none => st) s

/-- The chains of teams whose members have all exited close: their contributions are added (R157, R158). -/
def State.closeChains (s : State) (coh : Nat) : State :=
  (List.range 8).foldl (fun st i => match (st.co coh).chain i with
    | some parts =>
      if (st.teamOf coh i).all fun t => (st.th t).run == .exited then
        let co := st.co coh
        ((st.setCo coh { co with chains := co.chains.set i none }).flushMat co.core).applyAll co.core co.uid parts
      else st
    | none => st) s

/-- A thread ends (R318): its registers go, it leaves a region it holds, and counts as signed and as arrived from now on. -/
def State.exitThread (s : State) (t : Nat) : State :=
  let th := s.th t
  let coh := th.coh
  let s1 := s.setTh t { th with run := .exited, listed := .no, g := [], pend := 0, arrivals := [] }
  let s2 := (List.range 8).foldl (fun st i => match (st.co coh).region i with
    | some r => if r.inside = some t then st.leaveRegion coh i t else st
    | none => st) s1
  let s3 := ((s2.tryPoints coh).closeChains coh).tryBars coh
  match s3.launch (s3.co coh).part (s3.co coh).seq with
  | some l => s3.podExit l.part l.lr.ltag
  | none => s3

/-- EXIT body (R318). -/
def exitBody : Body := fun s => .ok (.placed, s.exitThread s.me)

/-- EXIT (R318). -/
def execExit (o : Canon) (s : State) : Host.Outcome State Fault Refusal := run 0x45 o s exitBody
/-- EXIT, short form (R92). -/
def execExitShort (g : BitVec 4) (s : State) : Host.Outcome State Fault Refusal := run 0x45 (Short.none g) s exitBody
/-- TSIGN, short form (R92). -/
def execTsignShort (never : Bool) (cv : BitVec 3) (s : State) : Host.Outcome State Fault Refusal :=
  run 0x51 (Short.tsign never cv) s (tsignBody (Short.tsign never cv))

end Sys2Proof.Machine
end

