-- ==== Sys2Proof/Machine/Tiles.lean ====
section
/-! DEFINITION. The tile engine: TILELD, TILEDEC, TILECHK, TILEST, TILEAP and their completions (R138-R148, R410-R420). -/

namespace Sys2Proof.Machine

/-- A command enters the engine command queue, or the thread blocks while the queue is full (R222). -/
def State.engineIssue (s : State) (kind : Nat) (d : BitVec 8) (phase : Phase) (start : DWord) (body : OpBody) : Except Trap (Flow × State) :=
  if 32 ≤ (s.ops.filter fun o => o.core == s.cco.core && o.holdsEntry).length then .error (.wait .engine .none)
  else let (h, s1) := s.fork kind true phase start body; .ok (.fall, s1.putFuture d h)

/-- The view of a tile instruction: VEC or TILE, and OPND unless `noOpnd` (R410). -/
def State.tileView (s : State) (o : Canon) (noOpnd : Bool) : Except Trap View :=
  match s.viewOf 3 o.b with
  | .error t => .error t
  | .ok v => if v.isPlain && !(noOpnd && v.kind == 5) then .ok v else .error (vkFault (vwIdx o.b))

/-- TILELD (R417). -/
def execTileld (o : Canon) (s : State) : Host.Outcome State Fault Refusal := run 0xB5 o s fun s => do
  let v ← s.tileView o false
  s.engineIssue 2 o.d .running 0 (.tileLd (s.a64 o) v (vwIdx o.b) (o.mod.getLsbD 0) s.slots)

/-- TILEDEC (R415): a local destination is checked for alignment, then for its upper bits (R410). -/
def execTiledec (o : Canon) (s : State) : Host.Outcome State Fault Refusal := run 0xB6 o s fun s =>
  let dst := s.b64 o
  let scr := o.mod.getLsbD 0
  if scr && dst.toNat % 4 != 0 then .error (.fault 0x06 (BitVec.ofNat 64 (dst.toNat % 2 ^ 32)))
  else if scr && decide (2 ^ 32 ≤ dst.toNat) then .error (.fault 0x07 (scrDetail s.cco.spanPos dst.toNat))
  else s.engineIssue 2 o.d .running 0 (.tileDec (s.a64 o) dst scr (o.mod.getLsbD 1) s.slots)

/-- TILEST (R419). -/
def execTilest (o : Canon) (s : State) : Host.Outcome State Fault Refusal := run 0xB7 o s fun s => do
  let v ← s.tileView o false
  let c := (s.c32 o).toNat
  let subs := bitsOf c 12 8
  if subs = 0 ∨ 16 < subs ∨ bitsOf c 7 3 ≠ 0 ∨ bitsOf c 31 13 ≠ 0 then .error (vkFault (vwIdx o.b))
  else s.engineIssue 2 o.d .running 0 (.tileSt (s.a64 o) v (vwIdx o.b) (bitsOf c 2 0) subs (o.mod.getLsbD 0) s.slots)

/-- TILEAP (R411). -/
def execTileap (o : Canon) (s : State) : Host.Outcome State Fault Refusal := run 0xB8 o s fun s => do
  let v ← s.tileView o true
  let c := (s.c32 o).toNat
  let n := bitsOf c 4 0
  if n = 0 ∨ 16 < n ∨ bitsOf c 7 5 ≠ 0 ∨ bitsOf c 31 11 ≠ 0 then .error (vkFault (vwIdx o.b))
  else if v.rows < n then .error (vbFault (vwIdx o.b) (n - 1) 0)
  else s.engineIssue 2 o.d .running 0 (.tileAp (s.a64 o) v (vwIdx o.b) n (bitsOf c 10 8) (o.mod.getLsbD 0) s.slots)

/-- TILECHK (R413). -/
def execTilechk (o : Canon) (s : State) : Host.Outcome State Fault Refusal := run 0xB9 o s fun s =>
  s.engineIssue 2 o.d .running 0 (.tileChk (s.a64 o) (s.b64 o) (s.c32 o).toNat s.slots)

/-- A fault ends the operation; a wait lets it go on later. DESIGN CHOICE (log 75): a Catalogue copy that the lookups of a failing or waiting operation would have
installed (R140) is not kept. -/
def ranOf (s : State) : Except Trap (Word × State) → Ran
  | .ok (st, s1) => .done st 0 s1
  | .error (.fault k d) => .done (faultStatus k d) d s
  | .error (.wait w r) => .wait w r s

/-- The view agrees with the record in format, scales and signedness (R145, R412, R418). -/
def viewAgrees (v : View) (r : TileRec) : Bool := v.fmt == r.fmt && v.scl == r.scl && v.signed == r.signed

/-- Status OK with DETAIL [0] for a raw tile. -/
def rawStatus (raw : Bool) : Word := engStatus 0 (if raw then 1 else 0)

/-- TILELD (R418). -/
def State.runTileLd (s : State) (o : Op) (name : DWord) (v : View) (vw : Nat) (ahead : Bool) (cts : List (Option CtImg)) : Except Trap (Word × State) := do
  let (r, i, s1) ← s.catRecord o.ctx name
  if !viewAgrees v r || v.rows != r.trows || v.cols != r.tcols then .error (vkFault vw)
  else
    let (d, s2) ← s1.decodeAt o.ctx r (nameTensor name) i cts false
    let a : Agent := .op o.core o.serial
    let s3 := s2.writeRows a o.uid v 0 (groupsOf r.tcols r.trows d.codes) 4
    let s4 := if v.layout = 0 then s3 else s3.tileWrite a o.uid v.soff d.scales 4
    let s5 := if ahead && decide (i % r.gridc + 1 < r.gridc) then
        (match s4.catEntry o.ctx r (nameTensor name) (i + 1) with | .ok (_, st) => st | .error _ => s4)
      else s4
    .ok (rawStatus d.raw, s5)

/-- The bytes a TILEDEC writes (R416). -/
def tileDecBytes (r : TileRec) (d : Decoded) (levels : Option (List Byte)) : List Byte :=
  let row (xs : List Nat) : List Byte := match levels with
    | some img => xs.flatMap fun x => toLE 2 (ctLevel img x)
    | none => packBytes r.bits 0#8 xs
  (groupsOf r.tcols r.trows d.codes).flatMap row ++ d.scales

/-- How many bytes a TILEDEC writes (R416). -/
def tileDecLen (r : TileRec) (lvl : Bool) : Nat :=
  r.trows * (if lvl then 2 * r.tcols else ceilDiv (r.tcols * r.bits) 8) + r.scaleCount * r.scaleSize

/-- Every destination byte of a TILEDEC passes the port, here and on other devices, or the scratchpad's extent (R410, R416). -/
def State.tileDecDest (s : State) (o : Op) (dst : DWord) (scr : Bool) (n : Nat) : Except Trap State :=
  if scr then
    match (s.co o.coh).scrFail dst.toNat n with
    | some t => .error t
    | none => .ok s
  else if ptrOff dst % 4 ≠ 0 then .error (alignFault dst)
  else s.checked o.ctx .write dst n (fun st _ tg m => match tg with
    | .away node part va off => (st.remote o.ctx.agent node part va off 8 m 0 []).map fun _ => ()
    | .here _ => .ok ()) <|
  match s.portPlan o.ctx .write dst n with
  | .error t => .error t
  | .ok (ps, stop, s1) => (s1.partsStop o.ctx .write dst 8 0 ps stop).map fun _ => s1

/-- TILEDEC's checks and its one decode: the bytes to write and the status (R410, R416). -/
def State.decodeTile (s : State) (o : Op) (name dst : DWord) (scr lvl : Bool) (cts : List (Option CtImg)) : Except Trap (List Byte × Word × State) := do
  let (r, i, s1) ← s.catRecord o.ctx name
  let asLvl := lvl && r.fmt == fCB4
  let s2 ← s1.tileDecDest o dst scr (tileDecLen r asLvl)
  let (d, s3) ← s2.decodeAt o.ctx r (nameTensor name) i cts asLvl
  .ok (tileDecBytes r d (if asLvl then d.table.map (·.bytes) else none), rawStatus d.raw, s3)

/-- The decoded bytes are written (R416). -/
def State.putTile (s : State) (o : Op) (dst : DWord) (scr : Bool) (bytes : List Byte) : Except Trap State :=
  if scr then .ok (s.scrWrite (.op o.core o.serial) o.uid dst.toNat bytes 4) else s.writeMem o.ctx dst bytes 4

/-- An operation's work so far. -/
def State.setWork (s : State) (o : Op) (x : OpWork) : State := s.updOp o.core o.serial fun y => { y with work := x }

/-- TILEDEC (R416): it decodes once, and then writes what it decoded. -/
def State.runTileDec (s : State) (o : Op) (name dst : DWord) (scr lvl : Bool) (cts : List (Option CtImg)) : Ran :=
  let put (s1 : State) (bytes : List Byte) (st : Word) : Ran := ranOf s1 ((s1.putTile o dst scr bytes).map fun s2 => (st, s2))
  match o.work with
  | .decoded bytes st => put s bytes st
  | _ => match s.decodeTile o name dst scr lvl cts with
    | .ok (bytes, st, s1) => put (s1.setWork o (.decoded bytes st)) bytes st
    | .error t => ranOf s (.error t)

/-- Check tiles in ascending linear index: the first failure, if any (R414). -/
def State.checkTiles (s : State) (o : Op) (r : TileRec) (tensor : Nat) (cts : List (Option CtImg)) : Nat → Nat → Except Trap State
  | 0, _ => .ok s
  | n + 1, i =>
    if r.gridr * r.gridc ≤ i then .error (catFault tensor (2 ^ 22 - 1) 3)
    else match s.decodeAt o.ctx r tensor i cts false with
    | .error t => .error t
    | .ok (_, s1) => s1.checkTiles o r tensor cts n (i + 1)

/-- The checks of a TILECHK (R414). -/
def State.checkAll (s : State) (o : Op) (name : DWord) (n : Nat) (cts : List (Option CtImg)) : Except Trap State := do
  let (r, i, s1) ← s.catRecord o.ctx name
  s1.checkTiles o r (nameTensor name) cts (min n (r.gridr * r.gridc - i + 1)) i

/-- The encode search of R141: the table at an index, loaded and of the record's kind, or CODE_TABLE cause 9. -/
def encodeTable (r : TileRec) (tensor table : Nat) (cts : List (Option CtImg)) : Except Trap (List Byte) :=
  match (r.tablePtr table).bind (pickSlot cts) with
  | some c => if ctKind c.bytes = r.kind then .ok c.bytes else .error (tableFault tensor table)
  | none => .error (tableFault tensor table)

/-- The record, index and entry as an encode reads them. -/
structure EncAt where
  r : TileRec
  i : Nat
  e : TileEnt

/-- What an encode that holds its entry found when it took it (R146). -/
def encAt (name : DWord) (record entry : List Byte) : EncAt :=
  let r := TileRec.parse record
  { r := r, i := bitsOf name.toNat 31 16 * r.gridc + bitsOf name.toNat 47 32, e := TileEnt.parse r.app entry }

/-- Look up a tile for an encode: the record through the Catalogue, the entry at its home, with its place on this device; an entry that was taken on another device, as it was
when it was taken (R146). -/
def State.encodeLook (s : State) (o : Op) (name : DWord) : Except Trap (EncAt × List Loc × State) := do
  let (r, i, s1) ← s.catRecord o.ctx name
  let taken : Option RemoteReq := match s1.port o.ctx .read (r.entryPtr i) 16 with
    | .ok (.away node part va _, _) => s1.fabric.reqs.find? fun q => q.agent == o.ctx.agent && q.granted && q.node == node && q.part == part && q.va == va
    | _ => none
  match taken with
  | some q => .ok ({ r := r, i := i, e := TileEnt.parse r.app ((q.answer.map fun a => a.2.2.2.drop 1).getD []) }, [], s1)
  | none =>
    let (b, ls, ws, s2) ← s1.homeParts o.ctx entryMod (r.entryPtr i) 16
    .ok ({ r := r, i := i, e := TileEnt.parse r.app b }, ls, s2.note o.ctx.agent ws)

/-- What an encode's start finds: it takes its entry, here or at its home on another device, or ends at once (R146, R412, R420). -/
inductive EncStart where
  | take (key : Nat) (p : EncAt) (s : State)
  | away (p : EncAt) (s : State)
  | busy (s : State)

/-- The entry of an encode lies on another device: its home is asked to hold it (request kind 6), and says whether another encode holds it (R146). -/
def State.encodeHold (s : State) (o : Op) (p : EncAt) : Except Trap EncStart := do
  let (tg, s1) ← s.port o.ctx .read (p.r.entryPtr p.i) 16
  match tg with
  | .here _ => .ok (.away p s1)
  | .away node part va off =>
    let b ← s1.remote o.ctx.agent node part va off 6 16 entryMod []
    .ok (if b.headD 0 = 1#8 then .busy s1 else .away p s1)

/-- The start of an encode: its first checks in the order of R412 or R420, then the entry. -/
def State.encodeStart (s : State) (o : Op) (name : DWord) (bad : TileRec → Bool) (vw : Nat) (append : Bool) : Except Trap EncStart := do
  let (p, ls, s1) ← s.encodeLook o name
  let tensor := nameTensor name
  if append && !p.e.valid then .error (catFault tensor p.i 4)
  else if p.e.bad then .error (catFault tensor p.i 5)
  else if append && bad p.r then .error (vkFault vw)
  else
    let found ← match ls with
      | l :: _ => .ok (if s.entryHeld ls then .busy s1 else .take l.key p s1)
      | [] => s1.encodeHold o p
    match found with
    | .busy s2 => .ok (.busy s2)
    | x => if bad p.r then .error (vkFault vw) else .ok x

/-- Where an encode writes its entry: every byte passes the port (R179). -/
def State.entryPlace (s : State) (o : Op) (ptr : DWord) : Except Trap (Target × State) :=
  s.checked o.ctx .write ptr 16 (fun _ _ _ _ => .ok ()) <|
  match s.port o.ctx .write ptr 16 with
  | .error t => .error t
  | .ok (.here ls, s1) => (s1.guardLocs o.ctx .write ptr ls).map fun _ => (.here ls, s1)
  | .ok x => .ok x

/-- The entry with the new LENGTH, VALID and RAW is written, as a release that covers the stream, and the quad's own copy is dropped (R146). -/
def State.writeEntry (s : State) (o : Op) (tensor : Nat) (p : EncAt) (new : List Byte) : Except Trap State := do
  let (tg, s1) ← s.entryPlace o (p.r.entryPtr p.i)
  match tg with
  | .away node part va off =>
    let _ ← s1.remote o.ctx.agent node part va off 7 16 (ordMod false true scPkg ||| entryMod) new
    .ok ((s1.release o.ctx.agent scPkg).2.dropEntry o.ctx tensor p.i)
  | .here ls =>
    if s1.homeRefused (s1.knownBy o.ctx.agent) then .error (.wait .retry .none)
    else .ok (s1.putEntry o.ctx tensor p.i ls new)

/-- What an encode comes to: it ends with a status, or has a stream to write and then its entry (R145, R412). -/
inductive EncRes where
  | ends (st : Word)
  | writes (stream new : List Byte) (st : Word)

/-- The outcome of an encode, with the entry that an OK writes (R145, R146, R412). -/
def encodeEnd (p : EncAt) (out : EncOut) (rows : Nat) : EncRes :=
  match out with
  | .uncodable d => .ends (engStatus 0x44 d)
  | .grow n => .ends (engStatus 0x43 n)
  | .ok stream raw =>
    .writes stream ({ p.e with length := stream.length, valid := true, raw := raw } : TileEnt).pack (engStatus 0 ((if raw then 1 else 0) + rows * 2 ^ 8))

/-- Elements and scales of the first rows of a view as an operation reads them. -/
def State.readSource (s : State) (o : Op) (v : View) (n : Nat) : List Nat × List Byte × State :=
  let a : Agent := .op o.core o.serial
  let (rows, s1) := s.readRows a o.uid v (List.range n) 4
  let per := if v.layout = 0 then 0 else if n = v.rows then v.scaleCount else v.scaleCount / v.rows * n
  let (sc, s2) := if per = 0 then ([], s1) else s1.tileRead a o.uid v.soff (per * v.scaleSize) 4
  (rows.flatMap fun b => (List.range v.cols).map (unpack v.bits b), sc, s2)

/-- TILEST once it holds its entry (R145, R420). -/
def State.runTileSt (s : State) (o : Op) (p : EncAt) (name : DWord) (v : View) (table subs : Nat) (rawfb : Bool) (cts : List (Option CtImg)) :
    Except Trap (EncRes × State) := do
  let img ← encodeTable p.r (nameTensor name) table cts
  let (codes, scales, s1) := s.readSource o v v.rows
  .ok (encodeEnd p (encodeTile p.r codes scales img table subs rawfb p.e.capacity) 0, s1)

/-- The table of an append: the header's for a coded tile with rows, none for a raw one, the instruction's for an empty tile (R412). -/
def appendTable (p : EncAt) (old : List Byte) (n tensor table : Nat) (cts : List (Option CtImg)) : Except Trap (List Byte) :=
  if old.isEmpty then (if p.r.trows < n then .ok [] else encodeTable p.r tensor table cts)
  else if p.r.trows < field old 2 2 + n then .ok []
  else match checkHdr p.r p.e old none with
  | .error _ => .ok []
  | .ok (h, _) => if h.raw then .ok [] else encodeTable p.r tensor h.table cts

/-- TILEAP once it holds its entry (R147, R412). -/
def State.runTileAp (s : State) (o : Op) (p : EncAt) (name : DWord) (v : View) (n table : Nat) (rawfb : Bool) (cts : List (Option CtImg)) :
    Except Trap (EncRes × State) := do
  let tensor := nameTensor name
  let (old, s1) : List Byte × State ← if p.e.length = 0 then .ok ([], s)
    else (match s.homeParts o.ctx homeMod (p.r.streamPtr p.e) p.e.length with | .ok (b, _, ws, st) => .ok (b, st.note o.ctx.agent ws) | .error t => .error t)
  let img ← appendTable p old n tensor table cts
  let (codes, scales, s2) := s1.readSource o v n
  match appendTile p.r p.e old codes scales img table rawfb with
  | .full rows => .ok (.ends (engStatus 0x41 rows), s2)
  | .fail f => .error (f.trap tensor p.i)
  | .out out rows _ => .ok (encodeEnd p out rows, s2)

/-- An operation that could not go on asks for what it waits for, or fails (R189, R270). -/
def State.opWaits (s : State) (o : Op) (w : Wait) (r : Req) : State :=
  match s.request (.op o.core o.serial) w r with
  | (.ok _, s1) => s1
  | (.error (code, detail), s1) => s1.complete o.core o.serial (faultStatus code detail) detail

/-- Refused accesses are tried again. -/
def State.wakeRetry (s : State) : State := s.wake fun _ t => t.run == .blocked .retry

/-- An encode ends and frees its index entry (R146). -/
def State.encodeDone (s : State) (o : Op) (st : Word) (detail : DWord) : State :=
  (({ s with held := s.held.filter fun h => !(h.1 == o.core && h.2.1 == o.serial) } : State).complete o.core o.serial st detail).wakeRetry

/-- Finish a decode, or leave it waiting. -/
def Ran.finish (o : Op) : Ran → State
  | .done st detail s => s.complete o.core o.serial st detail
  | .wait w r s => s.opWaits o w r

/-- A decode that was cancelled while it wrote ends CANCELLED, whatever its write came to (R219). -/
def Ran.cancelled : Ran → Ran
  | .done _ _ s => .done (engStatus 0x47 0) 0 s
  | x => x

/-- TILE_DECODE_COMPLETE for an operation (R143). -/
def State.finishDecode (s : State) (o : Op) : State :=
  match o.phase, o.body with
  | .running, .tileLd name v vw ahead cts => (ranOf s (s.runTileLd o name v vw ahead cts)).finish o
  | .running, .tileDec name dst scr lvl cts => (s.runTileDec o name dst scr lvl cts).finish o
  | .committed, .tileDec name dst scr lvl cts => (s.runTileDec o name dst scr lvl cts).cancelled.finish o
  | _, _ => s

/-- The report of a TILECHK is written and its operation ends; no fault record hears of it, but of a failure of the report's own access (R143, R414). -/
def State.putReport (s : State) (o : Op) (report : DWord) (bytes : List Byte) (st : Word) : State :=
  if ptrOff report % 8 ≠ 0 then s.complete o.core o.serial (faultStatus 0x06 report) report
  else match s.writeMem o.ctx report bytes 4 with
  | .ok s1 => s1.complete o.core o.serial st (BitVec.ofNat 64 (leNat bytes)) true
  | .error (.fault k d) => s.complete o.core o.serial (faultStatus k d) d
  | .error (.wait w r) => s.opWaits o w r

/-- TILECHK_COMPLETE for an operation (R414): it checks once, and then writes its report. -/
def State.finishCheck (s : State) (o : Op) : State :=
  match o.phase, o.body with
  | .running, .tileChk name report n cts =>
    let found (s1 : State) (st : Word) (detail : DWord) : State :=
      (s1.setWork o (.decoded (toLE 8 detail.toNat) st)).putReport o report (toLE 8 detail.toNat) st
    match o.work with
    | .decoded bytes st => s.putReport o report bytes st
    | _ =>
      if n = 0 then s.complete o.core o.serial (engStatus 0x40 0) 0
      else match s.checkAll o name n cts with
      | .ok s1 => found s1 (engStatus 0 (min n 0xFFFFFF)) 0
      | .error (.fault k d) => found s (faultStatus k d) d
      | .error (.wait w r) => match s.request (.op o.core o.serial) w r with
        | (.ok _, s1) => s1
        | (.error (k, d), s1) => found s1 (faultStatus k d) d
  | _, _ => s

/-- An encode that holds its entry cannot go on: it fails, or waits. -/
def State.encodeStops (s : State) (o : Op) : Trap → State
  | .fault k d => s.encodeDone o (faultStatus k d) d
  | .wait w r => match s.request (.op o.core o.serial) w r with
    | (.ok _, s1) => s1
    | (.error (k, d), s1) => s1.encodeDone o (faultStatus k d) d

/-- The last part of an encode: its entry (R146). DESIGN CHOICE (log 96): one whose entry cannot be written leaves its stream bytes as it wrote them. -/
def State.encodeEntry (s : State) (o : Op) (name : DWord) (p : EncAt) (new : List Byte) (st : Word) : State :=
  match s.writeEntry o (nameTensor name) p new with
  | .ok s1 => s1.encodeDone o st 0
  | .error t => s.encodeStops o t

/-- The stream of an encode is written, and then its entry (R146). -/
def State.encodeStream (s : State) (o : Op) (name : DWord) (record entry stream new : List Byte) (st : Word) : State :=
  let p := encAt name record entry
  match s.writeMem o.ctx (p.r.streamPtr p.e) stream 4 with
  | .ok s1 => (s1.setWork o (.stored record entry new st)).encodeEntry o name p new st
  | .error t => s.encodeStops o t

/-- What an encode that holds its entry makes of its tile: it ends, or writes its stream and then its entry (R145-R147). -/
def State.encodeRun (s : State) (o : Op) (name : DWord) (record entry : List Byte) (run : EncAt → Except Trap (EncRes × State)) : State :=
  match run (encAt name record entry) with
  | .error t => s.encodeStops o t
  | .ok (.ends st, s1) => s1.encodeDone o st 0
  | .ok (.writes stream new st, s1) => (s1.setWork o (.coded record entry stream new st)).encodeStream o name record entry stream new st

/-- The first event of an encode takes its index entry or ends it (R146). -/
def State.encodeBegin (s : State) (o : Op) : Except Trap EncStart → State
  | .ok (.take key p s1) => (({ s1 with held := (o.core, o.serial, key) :: s1.held } : State).setWork o (.taken p.r.bytes p.e.pack)).updOp o.core o.serial
      fun x => { x with phase := .committed }
  | .ok (.away p s1) => (s1.setWork o (.taken p.r.bytes p.e.pack)).updOp o.core o.serial fun x => { x with phase := .committed }
  | .ok (.busy s1) => s1.complete o.core o.serial (engStatus 0x45 0) 0
  | .error (.fault k d) => s.complete o.core o.serial (faultStatus k d) d
  | .error (.wait w r) => s.opWaits o w r

/-- The name of an encode's tile. -/
def OpBody.tileName : OpBody → DWord
  | .tileSt name _ _ _ _ _ _ | .tileAp name _ _ _ _ _ _ => name
  | _ => 0

/-- TILE_ENCODE_COMPLETE for an operation: its first event takes its entry or ends it; the next ones code its tile, write its stream and write its entry (R146). -/
def State.finishEncode (s : State) (o : Op) : State :=
  match o.phase, o.work, o.body with
  | .running, _, .tileSt name v vw _ subs _ _ =>
    s.encodeBegin o (s.encodeStart o name (fun r => r.app || !viewAgrees v r || v.rows != r.trows || v.cols != r.tcols || r.trows % subs != 0) vw false)
  | .running, _, .tileAp name v vw _ _ _ _ => s.encodeBegin o (s.encodeStart o name (fun r => !r.app || !viewAgrees v r || v.cols != r.tcols) vw true)
  | .committed, .taken record entry, .tileSt name v _ table subs rawfb cts =>
    s.encodeRun o name record entry fun p => s.runTileSt o p name v table subs rawfb cts
  | .committed, .taken record entry, .tileAp name v _ n table rawfb cts =>
    s.encodeRun o name record entry fun p => s.runTileAp o p name v n table rawfb cts
  | .committed, .coded record entry stream new st, b => s.encodeStream o b.tileName record entry stream new st
  | .committed, .stored record entry new st, b => s.encodeEntry o b.tileName (encAt b.tileName record entry) new st
  | _, _, _ => s

/-- An event of one engine operation. -/
def State.onOp (s : State) (core : Nat) (serial : BitVec 20) (f : State → Op → State) : Host.Outcome State Fault Refusal :=
  .next (match s.findOp core serial.toNat with | some o => f s o | none => s)

/-- TILE_DECODE_COMPLETE (R143). -/
def execTileDecodeComplete (core : Nat) (serial : BitVec 20) (s : State) : Host.Outcome State Fault Refusal := s.onOp core serial State.finishDecode
/-- TILE_ENCODE_COMPLETE (R146). -/
def execTileEncodeComplete (core : Nat) (serial : BitVec 20) (s : State) : Host.Outcome State Fault Refusal := s.onOp core serial State.finishEncode
/-- TILECHK_COMPLETE (R414). -/
def execTilechkComplete (core : Nat) (serial : BitVec 20) (s : State) : Host.Outcome State Fault Refusal := s.onOp core serial State.finishCheck

end Sys2Proof.Machine
end

