-- ==== Sys2Proof/Machine/Futures.lean ====
section
/-! DEFINITION. Copies, futures, tile queues and mailbox rings (R213-R218, R222-R231, R312, R313, R328, R329, R368-R374, R387, R388). -/

namespace Sys2Proof.Machine

/-- The fault of a local side of a copy: bits [63:32], then the first byte outside the allocation (R223, R258, R313). A negative offset is reported modulo 2³². -/
def Cohort.sideFail (c : Cohort) (space : Nat) (addr : DWord) (xb ny nz : Nat) (rs ps : Int) : Option Trap :=
  match space with
  | 0 => none
  | 1 =>
    if 2 ^ 32 ≤ addr.toNat then some (.fault 0x07 (scrDetail c.spanPos addr.toNat))
    else (boxOutside xb ny nz rs ps addr.toNat c.scrBytes).map fun x => .fault 0x07 (scrDetail c.spanPos (off32 x))
  | _ =>
    if 2 ^ 32 ≤ addr.toNat then some (.fault 0x04 (BitVec.ofNat 64 (addr.toNat % 2 ^ 32)))
    else (boxOutside xb ny nz rs ps addr.toNat c.tileBytes).map fun x => .fault 0x04 (BitVec.ofNat 64 (off32 x))

/-- An operation that has nothing to do completes at once with EMPTY (R223, R224). -/
def State.emptyOp (s : State) (kind : Nat) (d : BitVec 8) (body : OpBody) : Flow × State :=
  let (h, s1) := s.fork kind false .running 0 body
  (.fall, (s1.putFuture d h).complete (hCore h) (hSerial h) (engStatus 0x40 0) 0)

/-- CPY and its multicast form (R223, R224, R313). DESIGN CHOICE (log 103): where both local sides fail, the source's fault is raised. -/
def cpyBody (o : Canon) (multi : Bool) : Body := fun s =>
  let m := o.mod.toNat
  let k (i : Nat) : Nat := (s.kval (13 + i) (kIdx o.c + i)).toNat
  let dsp := m % 4
  let ssp := bitsOf m 3 2
  let mask := bitsOf m 14 11
  let xb := bitsOf (k 0) 31 0
  let ny := bitsOf (k 0) 47 32
  let nz := bitsOf (k 0) 63 48
  let int (hi lo : Nat) (v : Nat) : Int := readInt true 32 (bitsOf v hi lo)
  let srs := int 31 0 (k 1); let drs := int 63 32 (k 1); let sps := int 31 0 (k 2); let dps := int 63 32 (k 2)
  let dst := s.a64 o
  let src := s.b64 o
  let body : OpBody := .copy multi dsp ssp mask dst src xb ny nz srs drs sps dps
  if xb * ny * nz = 0 ∨ (multi ∧ mask = 0) then .ok (s.emptyOp 0 o.d body)
  else
    let high : Option Trap := if multi && decide (2 ^ 32 ≤ dst.toNat) then some (.fault 0x07 (scrDetail s.cco.spanPos dst.toNat)) else none
    match s.cco.sideFail ssp src xb ny nz srs sps with
    | some t => .error t
    | none =>
      match (if multi then high else s.cco.sideFail dsp dst xb ny nz drs dps) with
      | some t => .error t
      | none =>
        if bitOf m 10 then s.engineIssue 0 o.d .held (BitVec.ofNat 64 (k 3)) body else s.engineIssue 0 o.d .running 0 body

/-- CPY (R312). -/
def execCpy (o : Canon) (s : State) : Host.Outcome State Fault Refusal := run 0xC0 o s (cpyBody o false)
/-- CPY, multicast (R312). -/
def execCpyMulticast (o : Canon) (s : State) : Host.Outcome State Fault Refusal := run 0xC1 o s (cpyBody o true)

/-- COPY_COMPLETE for an operation (R223). -/
def State.finishCopy (s : State) (o : Op) : State :=
  match o.phase, o.body with
  | .running, .copy multi dsp ssp mask dst src xb ny nz srs drs sps dps =>
    (s.runCopy o multi dsp ssp mask dst src xb ny nz srs drs sps dps false).finish o
  | _, _ => s

/-- COPY_COMPLETE (R223). -/
def execCopyComplete (core : Nat) (serial : BitVec 20) (s : State) : Host.Outcome State Fault Refusal := s.onOp core serial State.finishCopy

/-- FUTURE (R216). -/
def futureFault (h : Word) : Trap := .fault 0x15 (h.setWidth 64)

/-- What the handle in a register names for the executing thread (R216). -/
def State.handleAt (s : State) (n : Nat) : Named := s.resolve s.cco.part (s.cth.gv n)

/-- The status a completed handle delivers, and the state after the register has received it (R217, R218). -/
def State.takeStatus (s : State) (n : Nat) : Word × State :=
  match s.handleAt n with
  | .op o => (o.status, if s.cth.isPend n then s.settle s.me n else s.observe s.me o false)
  | _ => (expired, if s.cth.isPend n then s.setCth (s.cth.setG n expired) else s)

/-- The handle is complete or its status is no longer retained (R216). -/
def Named.isDone : Named → Bool
  | .op o => o.phase == .done
  | _ => true

/-- The handle faults with FUTURE. -/
def Named.isBad : Named → Bool
  | .bad => true
  | _ => false

/-- FWAIT on one handle (R218). -/
def fwaitBody (o : Canon) : Body := fun s =>
  let n := o.a.toNat
  match s.handleAt n with
  | .bad => .error (futureFault (s.cth.gv n))
  | .op x => if x.phase = .done then (let (st, s1) := s.takeStatus n; .ok (.fall, s1.put32 o.d st)) else .error (.wait (.future x.core x.serial) .none)
  | .expired => let (st, s1) := s.takeStatus n; .ok (.fall, s1.put32 o.d st)

/-- FWAIT (R329). -/
def execFwait (o : Canon) (s : State) : Host.Outcome State Fault Refusal := run 0xC2 o s (fwaitBody o)
/-- FWAIT, short form (R92). -/
def execFwaitShort (g : BitVec 4) (d a : BitVec 6) (s : State) : Host.Outcome State Fault Refusal := run 0xC2 (Short.fwait g d a) s (fwaitBody (Short.fwait g d a))

/-- FWAIT on up to four handles (R218, R329): statuses first, d last. -/
def execFwaitMulti (o : Canon) (s : State) : Host.Outcome State Fault Refusal := run 0xC3 o s fun s =>
  let regs := (List.range (o.mod.toNat % 4 + 1)).map (o.a.toNat + ·)
  let all := o.mod.getLsbD 2
  match regs.find? fun n => (s.handleAt n).isBad with
  | some n => .error (futureFault (s.cth.gv n))
  | none =>
    let done (n : Nat) : Bool := (s.handleAt n).isDone
    if (if all then regs.all done else regs.any done) then
      let (sts, s1) := regs.foldl (fun (r : List (Option Word) × State) n =>
        if done n then (let (st, x) := r.2.takeStatus n; (r.1 ++ [some st], x)) else (r.1 ++ [none], r.2)) ([], s)
      let v : Nat := if all then ((sts.zip (List.range 4)).foldl (fun a x => a + if failedOf (x.1.getD 0) then 2 ^ x.2 else 0) 0)
        else (sts.findIdx? Option.isSome).getD 0
      .ok (.fall, s1.put32 o.d (BitVec.ofNat 32 v))
    else
      .error (.wait (.futures ((regs.filter fun n => !done n).map fun n => (hCore (s.cth.gv n), hSerial (s.cth.gv n))) all) .none)

/-- FTEST (R217, R328). -/
def execFtest (o : Canon) (s : State) : Host.Outcome State Fault Refusal := run 0xC4 o s fun s =>
  let n := o.a.toNat
  match s.handleAt n with
  | .bad => .error (futureFault (s.cth.gv n))
  | x => if x.isDone then .ok (.fall, (s.takeStatus n).2.putBool o.d true) else .ok (.fall, s.putBool o.d false)

/-- %fdetail of QUEUE (R227). -/
def queueDetail (cause queue ring : Nat) : DWord := BitVec.ofNat 64 (cause + queue % 16 * 16 + ring % 64 * 2 ^ 8)
/-- QUEUE (R227). -/
def queueFault (cause queue ring : Nat) : Trap := .fault 0x11 (queueDetail cause queue ring)

/-- A thread is blocked on queue `q` of its cohort. -/
def waitsOnQueue (q : Nat) (t : Thread) : Option (Bool × Bool × Nat × Nat) :=
  match t.run with
  | .blocked (.queue x push tile off len) => if x = q then some (push, tile, off, len) else none
  | _ => none

/-- The threads blocked on a queue of a cohort, in the order in which they blocked (R226). -/
def State.queueLine (s : State) (coh q : Nat) : List Nat :=
  sorted ((s.thsOf coh).filter fun t => (waitsOnQueue q (s.th t)).isSome) fun a b => decide ((s.th a).since ≤ (s.th b).since)

/-- QCFG (R225, R387). -/
def execQcfg (o : Canon) (s : State) : Host.Outcome State Fault Refusal := run 0xC6 o s fun s =>
  let q := bitsOf o.mod.toNat 3 0
  let base := (s.a32 o).toNat
  let depth := (s.b32 o).toNat
  let size := (s.c32 o).toNat
  if depth = 0 ∨ 256 < depth ∨ size < 4 ∨ 4096 < size ∨ size % 4 ≠ 0 then .error (queueFault 3 q 0)
  else if base % 4 ≠ 0 then .error (.fault 0x06 (BitVec.ofNat 64 base))
  else match s.cco.scrFail base (depth * size) with
  | some t => .error t
  | none =>
    if (match nth none s.cco.queues q with | some x => !x.known.isEmpty | none => false) || !(s.queueLine s.cci q).isEmpty then .error (queueFault 2 q 0)
    else .ok (.fall, s.setCco { s.cco with queues := s.cco.queues.set q (some { base := base, depth := depth, size := size, head := 0, known := [] }) })

/-- Read an entry's bytes at a data offset by a thread. -/
def State.dataRead (s : State) (t uid : Nat) (tile : Bool) (off n : Nat) : List Byte × State :=
  if tile then s.tileRead (.thread t) uid off n 4 else s.scrRead (.thread t) uid off n 4

/-- Write an entry's bytes at a data offset by a thread. -/
def State.dataWrite (s : State) (t uid : Nat) (tile : Bool) (off : Nat) (b : List Byte) : State :=
  if tile then s.tileWrite (.thread t) uid off b 4 else s.scrWrite (.thread t) uid off b 4

/-- A push or a pop that can take effect, by thread `t` (R199, R226). -/
def State.queueMove (s : State) (t q : Nat) (push tile : Bool) (off : Nat) : State :=
  let coh := (s.th t).coh
  let c := s.co coh
  match nth none c.queues q with
  | none => s
  | some x =>
    let put (st : State) (y : TQueue) : State := st.setCo coh { st.co coh with queues := (st.co coh).queues.set q (some y) }
    if push then
      let (b, s1) := s.dataRead t c.uid tile off x.size
      let s2 := s1.scrWrite (.thread t) c.uid (x.base + (x.head + x.known.length) % x.depth * x.size) b 4
      let (known, s3) := s2.releaseBy t scCore
      put s3 { x with known := x.known ++ [known] }
    else
      let s1 := s.see (.thread t) (x.known.headD [])
      let (b, s2) := s1.scrRead (.thread t) c.uid (x.base + x.head % x.depth * x.size) x.size 4
      put (s2.dataWrite t c.uid tile off b) { x with head := (x.head + 1) % x.depth, known := x.known.drop 1 }

/-- A push or a pop on queue `q` can take effect. -/
def Cohort.queueReady (c : Cohort) (q : Nat) (push : Bool) : Bool :=
  match nth none c.queues q with
  | some x => if push then decide (x.known.length < x.depth) else !x.known.isEmpty
  | none => false

/-- Blocked pushes and pops that have become possible take effect in the order in which they blocked (R226). -/
def State.queueServe (s : State) (coh q : Nat) : Nat → State
  | 0 => s
  | fuel + 1 =>
    match (s.queueLine coh q).find? fun t => match waitsOnQueue q (s.th t) with
        | some (push, _, _, _) => (s.co coh).queueReady q push
        | none => false with
    | none => s
    | some t =>
      match waitsOnQueue q (s.th t) with
      | some (push, tile, off, len) => ((s.queueMove t q push tile off).goOn t len .fall).queueServe coh q fuel
      | none => s

/-- QPUSH and QPOP (R226, R388). -/
def queueBody (o : Canon) (push : Bool) : Body := fun s =>
  let q := bitsOf o.mod.toNat 3 0
  let try_ := o.mod.getLsbD 4
  let tile := o.mod.getLsbD 5
  let off := (s.a32 o).toNat
  if off % 4 ≠ 0 then .error (.fault 0x06 (BitVec.ofNat 64 off))
  else match nth none s.cco.queues q with
  | none => .error (queueFault 1 q 0)
  | some x =>
    match (if tile then (if off + x.size ≤ s.cco.tileBytes then none else some (Trap.fault 0x04 (BitVec.ofNat 64 (max off s.cco.tileBytes)))) else s.cco.scrFail off x.size) with
    | some t => .error t
    | none =>
      if s.cco.queueReady q push then
        let s1 := s.queueMove s.me q push tile off
        let s2 := if try_ then s1.putBool o.d true else s1
        .ok (.fall, s2.queueServe s.cci q (s.thsOf s.cci).length)
      else if try_ then .ok (.fall, s.putBool o.d false)
      else .ok (.hold (.queue q push tile off o.len.toNat), s)

/-- QPUSH (R387). -/
def execQpush (o : Canon) (s : State) : Host.Outcome State Fault Refusal := run 0xC7 o s (queueBody o true)
/-- QPOP (R387). -/
def execQpop (o : Canon) (s : State) : Host.Outcome State Fault Refusal := run 0xC8 o s (queueBody o false)

/-- Bytes of a ring's region (R228). -/
def Ring.bytes (r : Ring) : Nat := 64 + r.slots * 2 ^ r.sl

/-- MRCFG (R369). -/
def execMrcfg (o : Canon) (s : State) : Host.Outcome State Fault Refusal := run 0xC9 o s fun s =>
  let base := (s.a32 o).toNat
  let n := (s.b32 o).toNat
  let sl := (s.c32 o).toNat
  if !([2, 4, 8, 16, 32, 64, 128, 256, 512, 1024].contains n) || decide (sl < 6) || decide (13 < sl) then .error (queueFault 3 0 0)
  else if base % 64 ≠ 0 then .error (.fault 0x06 (BitVec.ofNat 64 base))
  else match s.cco.scrFail base (64 + n * 2 ^ sl) with
  | some t => .error t
  | none =>
    let core := s.cco.core
    if s.rings.any fun r => r.coh == s.cci && decide (r.base < base + 64 + n * 2 ^ sl) && decide (base < r.base + r.bytes) then .error (queueFault 2 0 0)
    else match (List.range 64).find? fun e => !s.rings.any fun r => r.core == core && r.num == e with
    | none => .error (queueFault 7 0 0)
    | some e =>
      let hdr := toLE 8 0 ++ toLE 4 n ++ toLE 1 sl ++ toLE 51 0
      let s1 := s.scrWrite (.thread s.me) s.cco.uid base hdr 4
      let r : Ring := { core := core, num := e, coh := s.cci, part := s.cco.part, base := base, slots := n, sl := sl, head := 0, tail := 0, known := [] }
      .ok (.fall, ({ s1 with rings := s1.rings ++ [r] } : State).put32 o.d (BitVec.ofNat 32 (core + e * 2 ^ 8)))

/-- The ring of a name: %core in [7:0], the entry in [13:8] (R228). -/
def State.ring (s : State) (name : Nat) : Option Ring := s.rings.find? fun r => r.core + r.num * 2 ^ 8 == name

/-- Replace a ring. -/
def State.setRing (s : State) (r : Ring) : State := { s with rings := updFirst (fun x => x.core == r.core && x.num == r.num) (fun _ => r) s.rings }

/-- 64 MSEND and RRET operations of a core are in flight (R371, R400). -/
def State.messagesFull (s : State) : Bool :=
  decide (64 ≤ (s.ops.filter fun o => o.core == s.cco.core && o.phase != .done
    && match o.body with | .message _ _ _ _ _ => true | .rret _ _ _ _ => true | _ => false).length)

/-- A ring name as an operand: a g or a k register's low word (R221). -/
def State.ringName (s : State) (o : Canon) : Nat := (s.a32 o).toNat

/-- MSEND (R371). -/
def execMsend (o : Canon) (s : State) : Host.Outcome State Fault Refusal := run 0xCA o s fun s =>
  let len := (s.c32 o).toNat
  let off := (s.b32 o).toNat
  if len = 0 ∨ 256 < len then .error (queueFault 3 0 0)
  else if off % 4 ≠ 0 then .error (.fault 0x06 (BitVec.ofNat 64 off))
  else match s.cco.scrFail off len with
  | some t => .error t
  | none =>
    if s.messagesFull then .error (.wait .messages .none)
    else
      let (h, s1) := s.fork 4 false .running 0 (.message (s.ringName o) len off o.imm.toNat (o.mod.getLsbD 0))
      .ok (.fall, s1.putFuture o.d h)

/-- A thread blocked in MWAIT on a ring: destination, register and instruction length. -/
def waitsOnRing (core num : Nat) (t : Thread) : Option (Nat × Nat × Nat) :=
  match t.run with
  | .blocked (.mail c n dst d len) => if c = core ∧ n = num then some (dst, d, len) else none
  | _ => none

/-- MWAIT takes the message at HEAD (R231, R374). DESIGN CHOICE (log 101): of a header whose LEN a program has overwritten, no more than the slot is copied. -/
def State.mailTake (s : State) (t : Nat) (r : Ring) (dst d : Nat) : State :=
  let uid := (s.co r.coh).uid
  let a : Agent := .thread t
  let s1 := s.see a (r.known.headD [])
  let slot := r.base + 64 + r.head % r.slots * 2 ^ r.sl
  let (hdr, s2) := s1.scrRead a uid slot 16 4
  let n := min (roundUp (16 + field hdr 0 2) 4) (2 ^ r.sl)
  let (rest, s3) := s2.scrRead a uid (slot + 16) (n - 16) 4
  let s4 := s3.scrWrite a uid dst (hdr ++ rest) 4
  let s5 := s4.scrWrite a uid r.base (toLE 4 (r.head + 1)) 4
  (s5.setRing { r with head := (r.head + 1) % 2 ^ 32, known := r.known.drop 1 }).as t fun x => x.putG d (BitVec.ofNat 32 (field hdr 0 4))

/-- Threads blocked on a ring take its messages, one each, in the order in which they blocked (R231). -/
def State.mailServe (s : State) (core num : Nat) : State :=
  match s.rings.find? fun r => r.core == core && r.num == num with
  | none => s
  | some r =>
    if r.known.isEmpty then s
    else
      let line := sorted ((s.thsOf r.coh).filter fun t => (waitsOnRing core num (s.th t)).isSome) fun a b => decide ((s.th a).since ≤ (s.th b).since)
      match line with
      | [] => s
      | t :: _ =>
        match waitsOnRing core num (s.th t) with
        | some (dst, d, len) => (s.mailTake t r dst d).goOn t len .fall
        | none => s

/-- MWAIT (R374). -/
def execMwait (o : Canon) (s : State) : Host.Outcome State Fault Refusal := run 0xCB o s fun s =>
  let name := s.ringName o
  let dst := (s.b32 o).toNat
  match s.ring name with
  | none => .error (queueFault 6 0 (bitsOf name 13 8))
  | some r =>
    if r.coh ≠ s.cci then .error (queueFault 4 0 r.num)
    else if dst % 4 ≠ 0 then .error (.fault 0x06 (BitVec.ofNat 64 dst))
    else match s.cco.scrFail dst (2 ^ r.sl) with
    | some t => .error t
    | none =>
      if r.known.isEmpty then
        if o.mod.getLsbD 0 then .ok (.fall, s.put32 o.d 0) else .ok (.hold (.mail r.core r.num dst o.d.toNat o.len.toNat), s)
      else .ok (.fall, s.mailTake s.me r dst o.d.toNat)

/-- A ring takes no delivery now: its cohort is saved (R228). -/
def State.ringAway (s : State) (r : Ring) : Bool := (s.co r.coh).place != .resident

/-- The receiving core's network interface places bytes in a free slot and advances TAIL, a release at .pkg, for an operation: what the operation knows comes before,
and the writes count among the operation's (R212, R213, R229). -/
def State.ringPlace (s : State) (r : Ring) (o : Op) (bytes : List Byte) : State :=
  let uid := (s.co r.coh).uid
  let a : Agent := .ni r.core
  let w := s.prov.next
  let s1 := (s.see a (s.passedBy (.op o.core o.serial))).scrWrite a uid (r.base + 64 + r.tail % r.slots * 2 ^ r.sl) bytes 4
  let s2 := s1.scrWrite a uid (r.base + 4) (toLE 4 (r.tail + 1)) 4
  let (known, s3) := s2.release a scPkg
  let s4 := (s3.see (.op o.core o.serial) (writesFrom w s3.prov.next)).updOp o.core o.serial fun x => { x with scope := widerScope x.scope (coreScope o.core r.core) }
  (s4.setRing { r with tail := (r.tail + 1) % 2 ^ 32, known := r.known ++ [known] }).mailServe r.core r.num

/-- The slot header of a message (R229). -/
def slotHeader (len kind core tag round nout weight : Nat) : List Byte :=
  toLE 2 len ++ toLE 1 kind ++ toLE 1 core ++ toLE 4 tag ++ toLE 2 round ++ toLE 2 nout ++ toLE 4 weight

/-- MESSAGE_PLACEMENT for an operation (R230): it waits behind earlier messages of its thread to the ring. -/
def State.finishMessage (s : State) (o : Op) : State :=
  match o.phase, o.body with
  | .running, .message name len payload tag wait =>
    let fail (k : Nat) (d : DWord) : State := s.complete o.core o.serial (faultStatus k d) d
    let earlier : Bool := s.ops.any fun x => decide (x.order < o.order) && x.phase == .running && x.uid == o.uid && x.tid == o.tid
      && match x.body with | .message n _ _ _ _ => n == name | _ => false
    if earlier then s
    else match s.ring name with
    | none => fail 0x11 (queueDetail 6 0 (bitsOf name 13 8))
    | some r =>
      if r.part ≠ o.part then fail 0x0B (BitVec.ofNat 64 name)
      else if 2 ^ r.sl < len + 16 then fail 0x11 (queueDetail 5 0 r.num)
      else if s.ringAway r then s
      else if r.slots ≤ r.known.length then (if wait then s else s.complete o.core o.serial (engStatus 0x41 0) 0)
      else
        let (b, s1) := s.scrRead (.op o.core o.serial) o.uid payload len 4
        (s1.ringPlace r o (slotHeader len 0 o.core tag 0 0 0 ++ b)).complete o.core o.serial (engStatus 0 0) 0
  | _, _ => s

/-- MESSAGE_PLACEMENT (R230). -/
def execMessagePlacement (core : Nat) (serial : BitVec 20) (s : State) : Host.Outcome State Fault Refusal := s.onOp core serial State.finishMessage

end Sys2Proof.Machine
end

