-- ==== Sys2Proof/Machine/Route.lean ====
section
/-! DEFINITION. Routing: station tables, deliveries, reassembly and returns (R232-R239, R396-R401). -/

namespace Sys2Proof.Machine

/-- ROUTE_CFG (R239). -/
def routeFault (cause table row : Nat) : Trap := .fault 0x16 (BitVec.ofNat 64 (cause + table % 8 * 16 + row % 256 * 2 ^ 8))

/-- A quad's station table. -/
def State.stTable (s : State) (quad num : Nat) : Option StTable := s.tables.find? fun t => t.quad == quad && t.num == num

/-- Replace a station table. -/
def State.setTable (s : State) (t : StTable) : State := { s with tables := t :: s.tables.filter fun x => !(x.quad == t.quad && x.num == t.num) }

/-- A reassembly entry's most recent operation. -/
def State.entryOf (s : State) (quad num : Nat) : Option Reasm := s.reasm.find? fun r => r.quad == quad && r.num == num

/-- Replace a reassembly entry. -/
def State.setEntry (s : State) (r : Reasm) : State := { s with reasm := r :: s.reasm.filter fun x => !(x.quad == r.quad && x.num == r.num) }

/-- RTCFG (R232, R401). -/
def execRtcfg (o : Canon) (s : State) : Host.Outcome State Fault Refusal := run 0xD2 o s fun s => do
  let t := (s.a32 o).toNat
  let p := s.b64 o
  if 7 < t then .error (routeFault 9 t 0)
  else if ptrOff p % 8 ≠ 0 then .error (alignFault p)
  else
    let (hdr, _, s1) ← s.readMem s.tctx p 8 8
    let n := field hdr 0 1
    let (img, s2) : List Byte × State ← if n = 0 then .ok ([], s1)
      else (match s1.readMem s.tctx (ea p 8) (8 * n) 8 with | .ok (b, _, st) => .ok (b, st) | .error e => .error e)
    let word (i : Nat) : Nat := field img (8 * i) 8
    let badWord (i : Nat) : Bool := bitsOf (word i) 63 48 != 0
      || match s2.ring (bitsOf (word i) 31 0) with | some r => r.part != s.cco.part | none => true
    let quad := quadOf s.cco.core
    if n = 0 ∨ 64 < n ∨ field hdr 1 7 ≠ 0 ∨ (List.range n).any badWord then .error (routeFault 6 t 0)
    else if s2.reasm.any fun r => r.active && r.quad == quad && r.table == t then .error (routeFault 5 t 0)
    else .ok (.fall, s2.setTable { quad := quad, num := t, part := s.cco.part,
                                   stations := (List.range n).map fun i => { ring := bitsOf (word i) 31 0, cap := bitsOf (word i) 47 32, round := 0, count := 0 } })

/-- A ROUTE descriptor (R233). -/
structure RouteDesc where
  out : DWord
  timeout : Nat
  round : Nat
  entry : Nat
  table : Nat
  nout : Nat
  k : Nat
  at_ : DWord
  bad : Bool
  deriving DecidableEq, Repr

/-- Read a descriptor and test it for cause 9 (R233, R397). -/
def RouteDesc.parse (b : List Byte) (atBit : Bool) : RouteDesc :=
  let out := BitVec.ofNat 64 (field b 0 8)
  let nout := field b 0x14 2
  let k := field b 0x16 1
  { out := out, timeout := field b 8 8, round := field b 0x10 2, entry := field b 0x12 1, table := field b 0x13 1 % 8, nout := nout, k := k,
    at_ := BitVec.ofNat 64 (field b 0x18 8),
    bad := decide (8 ≤ field b 0x13 1) || nout == 0 || decide (1024 < nout) || k == 0 || decide (4 < k) || field b 0x17 1 != 0 || ptrOff out % 4 != 0
      || (!atBit && field b 0x18 8 != 0) }

/-- A routing row that names a station outside the table (R233, cause 2). -/
def badRow (count k : Nat) (row : List Nat) : Bool :=
  (List.range k).any fun j => let x := nth 0 row (2 * j); decide (2 ^ 8 ≤ x) || (x != 0xFF && decide (count ≤ x))

/-- The choices of the routing rows. -/
def routeChoices (k : Nat) (rows : List (List Nat)) : List Choice :=
  ((List.range rows.length).zip rows).flatMap fun r => (List.range k).map fun j =>
    let x := nth 0 r.2 (2 * j)
    { row := r.1, j := j, station := x, weight := nth 0 r.2 (2 * j + 1), st := if x = 0xFF then .none else .waiting }

/-- Cause 4: the shapes of the views (R233). DESIGN CHOICE (log 102): the routing view's INT32 may be signed or unsigned. -/
def routeShapes (v w : View) (k : Nat) : Bool :=
  v.kind == 2 && decide (v.rowBytes ≤ 4096) && w.kind == 2 && w.fmt == 4 && w.rows == v.rows && w.cols == 2 * k

/-- ROUTE (R397). DESIGN CHOICE (log 102): cause 3 passes over a station whose ring is gone. -/
def execRoute (o : Canon) (s : State) : Host.Outcome State Fault Refusal := run 0xD0 o s fun s => do
  let v ← s.viewOf 3 o.b
  let w ← s.viewOf 4 o.c
  let off := (s.a32 o).toNat
  let c := s.cco
  let quad := quadOf c.core
  if off % 8 ≠ 0 then .error (.fault 0x06 (BitVec.ofNat 64 off))
  else match c.scrFail off 32 with
  | some t => .error t
  | none =>
    let a : Agent := .thread s.me
    let (db, s1) := s.scrRead a c.uid off 32 4
    let d := RouteDesc.parse db (o.mod.getLsbD 2)
    let pass := o.mod.getLsbD 1
    if d.bad then .error (routeFault 9 d.table 0)
    else match (s1.stTable quad d.table).filter fun t => t.part == c.part with
    | none => .error (routeFault 1 d.table 0)
    | some tb =>
      if !routeShapes v w d.k then .error (routeFault 4 d.table 0)
      else if pass && !(v.fmt == 13 && v.cols == d.nout) then .error (routeFault 8 d.table 0)
      else if tb.stations.any fun st => match s1.ring st.ring with | some r => decide (2 ^ r.sl < v.rowBytes + 16) | none => false then
        .error (routeFault 3 d.table 0)
      else
        let (rb, s2) := s1.readRows a c.uid w (List.range w.rows) 4
        let rows := rb.map fun b => (List.range w.cols).map (unpack 32 b)
        match rows.findIdx? (badRow tb.stations.length d.k) with
        | some i => .error (routeFault 2 d.table i)
        | none =>
          if (match s2.entryOf quad d.entry with | some r => r.active | none => false) then
            let (h, s3) := s2.fork 3 false .running 0 (.route quad d.entry)
            .ok (.fall, (s3.putFuture o.d h).complete (hCore h) (hSerial h) (engStatus 0x45 0) 0)
          else
            let (src, s3) := s2.readRows a c.uid v (List.range v.rows) 4
            let start := if o.mod.getLsbD 2 then d.at_ else s3.svc.time
            let (h, s4) := s3.fork 3 false (if o.mod.getLsbD 2 then .held else .running) start (.route quad d.entry)
            let e : Reasm := { quad := quad, num := d.entry, core := hCore h, serial := hSerial h, part := c.part, seq := c.seq, active := true, out := d.out,
                               timeout := d.timeout, round := d.round, table := d.table, nout := d.nout, nrows := v.rows, nk := d.k,
                               renorm := o.mod.getLsbD 0, pass := pass, srccore := c.core, rowBytes := src, choices := routeChoices d.k rows,
                               started := false, ended := false, cancelled := false }
            .ok (.fall, (s4.setEntry e).putFuture o.d h)

/-- The choices of a row that were delivered, by ascending j. -/
def Reasm.delivered (e : Reasm) (row : Nat) : List Choice :=
  e.choices.filter fun c => c.row == row && match c.st with | .delivered | .returned _ => true | _ => false

/-- The returned values of a choice. -/
def Choice.back (c : Choice) : Option (List Nat) := match c.st with | .returned y => some y | _ => none

/-- div_rn of R164 for weights, and the sums and products of R235: FP32 with RNE. -/
def fp32Add (a b : Nat) : Nat := (FF.fp32.add2 .rne false a b).1
/-- A product in FP32 with RNE. -/
def fp32Mul (a b : Nat) : Nat := (FF.fp32.mul2 .rne false a b).1

/-- The weights of a row's delivered choices (R235). -/
def Reasm.weights (e : Reasm) (row : Nat) : List (Choice × Nat) :=
  let cs := e.delivered row
  match cs with
  | [] => []
  | c0 :: rest =>
    let sum := rest.foldl (fun a c => fp32Add a c.weight) c0.weight
    cs.map fun c => (c, if e.renorm then divRn c.weight sum else c.weight)

/-- The output row of R235. -/
def Reasm.outRow (e : Reasm) (row : Nat) : List Byte :=
  let ws := (e.weights row).filterMap fun x => x.1.back.map fun y => (x.2, y)
  match ws with
  | [] => if e.pass then nth [] e.rowBytes row else List.replicate (4 * e.nout) 0#8
  | (w0, y0) :: rest =>
    (List.range e.nout).flatMap fun i =>
      toLE 4 (rest.foldl (fun acc x => fp32Add acc (fp32Mul x.1 (nth 0 x.2 i))) (fp32Mul w0 (nth 0 y0 i)))

/-- The status byte of a row (R236). -/
def Reasm.statusByte (e : Reasm) (row : Nat) : Nat :=
  (e.delivered row).foldl (fun a c => a + 2 ^ c.j + if c.back.isSome then 2 ^ (4 + c.j) else 0) 0

/-- Offset of the status bytes. -/
def Reasm.statOff (e : Reasm) : Nat := e.nrows * e.nout * 4
/-- Offset of LATE. -/
def Reasm.lateOff (e : Reasm) : Nat := e.statOff + roundUp e.nrows 4

/-- Rows and status bytes (R236). -/
def Reasm.output (e : Reasm) : List Byte :=
  (List.range e.nrows).flatMap e.outRow ++ (List.range e.nrows).flatMap (fun r => toLE 1 (e.statusByte r)) ++ toLE (e.lateOff - e.statOff - e.nrows) 0

/-- Choices dropped (R236). -/
def Reasm.dropped (e : Reasm) : Nat := (e.choices.filter fun c => c.st == .dropped).length
/-- Rows finalised with a delivered choice that has not returned (R236). -/
def Reasm.incomplete (e : Reasm) : Nat := ((List.range e.nrows).filter fun r => (e.delivered r).any fun c => c.back.isNone).length

/-- Every row is final (R235). -/
def Reasm.allFinal (e : Reasm) : Bool := e.ended || e.choices.all fun c => match c.st with | .waiting | .delivered => false | _ => true

/-- A limit or a cancellation finalises every row: what is not placed is dropped (R234, R235). -/
def Reasm.finalise (e : Reasm) (cancel : Bool) : Reasm :=
  { e with ended := true, cancelled := e.cancelled || cancel,
           choices := e.choices.map fun c => if c.st = .waiting then { c with st := .dropped } else c }

/-- The context of the route engine's writes for an entry. -/
def Reasm.ctx (e : Reasm) (o : Op) : Ctx := { o.ctx with seq := some e.seq }

/-- The operation ends: its entry is free, its future completes. -/
def State.routeDone (s : State) (e : Reasm) (st : Word) (detail : DWord) : State :=
  ((s.setEntry { e with active := false }).complete e.core e.serial st detail)

/-- An operation that could not go on asks for what it waits for, or fails and frees its entry (R189, R238, R270). -/
def State.routeWaits (s : State) (e : Reasm) (o : Op) (w : Wait) (r : Req) : State :=
  match s.request (.op o.core o.serial) w r with
  | (.ok _, s1) => s1
  | (.error (code, detail), s1) => s1.routeDone e (faultStatus code detail) detail

/-- LATE is cleared before anything else is written (R236). -/
def State.routeStart (s : State) (e : Reasm) (o : Op) : Except Trap (Reasm × State) :=
  if e.started then .ok (e, s)
  else match s.writeMem (e.ctx o) (ea e.out (e.lateOff : Nat)) (toLE 4 0) 4 with
  | .error t => .error t
  | .ok s1 => .ok ({ e with started := true }, s1.setEntry { e with started := true })

/-- Once every row is final, the output is written and the future completes (R236). -/
def State.routeEnd (s : State) (e : Reasm) (o : Op) : State :=
  if !e.allFinal then s
  else
    let detail := e.dropped % 2 ^ 11 + e.incomplete % 2 ^ 9 * 2 ^ 11
    let r : Except Trap (Reasm × State) := do
      let (e1, s1) ← s.routeStart e o
      let s2 ← s1.writeMem (e.ctx o) e.out e.output 4
      .ok (e1, s2)
    match r with
    | .ok (e1, s1) => s1.routeDone e1 (engStatus (if e.cancelled then 0x47 else if e.incomplete = 0 then 0 else 0x46) detail) 0
    | .error (.fault k d) => s.routeDone e (faultStatus k d) d
    | .error (.wait w r) => s.routeWaits e o w r

/-- An entry of an active operation with the operation. -/
def State.routeOp (s : State) (quad num : Nat) : Option (Reasm × Op) :=
  match s.entryOf quad num with
  | some e => if e.active then (s.findOp e.core e.serial).map fun o => (e, o) else none
  | none => none

/-- The first waiting choice. -/
def Reasm.next (e : Reasm) : Option Choice := e.choices.find? fun c => c.st == .waiting

/-- The state of a choice. -/
def Reasm.mark (e : Reasm) (c : Choice) (st : ChoiceSt) : Reasm :=
  { e with choices := updFirst (fun x => x.row == c.row && x.j == c.j) (fun x => { x with st := st }) e.choices }

/-- One choice is delivered or dropped at its station, or held while the ring has no room (R234). -/
def State.deliverChoice (s : State) (e : Reasm) (o : Op) (c : Choice) : State × Reasm :=
  match s.stTable e.quad e.table with
  | none => (s, e.mark c .dropped)
  | some tb =>
    let sn := nth ⟨0, 0, 0, 0⟩ tb.stations c.station
    let row := nth [] e.rowBytes c.row
    match s.ring sn.ring with
    | none => (s, e.mark c .dropped)
    | some r =>
      if r.part ≠ e.part ∨ 2 ^ r.sl < row.length + 16 then (s, e.mark c .dropped)
      else if s.ringAway r ∨ r.slots ≤ r.known.length then (s, e)
      else
        let sn1 : Station := if sn.round = e.round then sn else { sn with round := e.round, count := 0 }
        let put (x : Station) : State := s.setTable { tb with stations := tb.stations.set c.station x }
        if sn1.count < sn1.cap then
          let tag := c.row + c.j * 2 ^ 8 + e.quad * 2 ^ 10 + e.num * 2 ^ 16
          ((put { sn1 with count := sn1.count + 1 }).ringPlace r o (slotHeader row.length 1 e.srccore tag e.round e.nout c.weight ++ row),
            e.mark c .delivered)
        else (put sn1, e.mark c .dropped)

/-- ROUTE_DELIVERY for an entry (R234): LATE is cleared, the next choice is decided, and a last final row ends the operation. -/
def State.routeDeliver (s : State) (quad entry : Nat) : State :=
  match s.routeOp quad entry with
  | none => s
  | some (e, o) =>
    if o.phase ≠ .running then s
    else match s.routeStart e o with
    | .error (.fault k d) => s.routeDone e (faultStatus k d) d
    | .error (.wait w r) => s.routeWaits e o w r
    | .ok (e1, s1) =>
      let (s2, e2) := if e1.ended then (s1, e1) else match e1.next with | some c => s1.deliverChoice e1 o c | none => (s1, e1)
      (s2.setEntry e2).routeEnd e2 o

/-- ROUTE_DELIVERY (R234). -/
def execRouteDelivery (quad entry : Nat) (s : State) : Host.Outcome State Fault Refusal := .next (s.routeDeliver quad entry)

/-- The deadline has come (R236). -/
def Reasm.due (e : Reasm) (o : Op) (now : DWord) : Bool := o.phase == .running && e.timeout != 0 && decide (o.start.toNat + e.timeout ≤ now.toNat)

/-- ROUTE_TIMEOUT (R236). -/
def execRouteTimeout (quad entry : Nat) (s : State) : Host.Outcome State Fault Refusal :=
  .next (match s.routeOp quad entry with
    | none => s
    | some (e, o) => if e.due o s.svc.time then (let e1 := e.finalise false; (s.setEntry e1).routeEnd e1 o) else s)

/-- FCANCEL of a ROUTE: finalised at once as at its timeout, then CANCELLED (R219). -/
def State.cancelRoute (s : State) (quad entry : Nat) (o : Op) : State :=
  match s.routeOp quad entry with
  | none => s
  | some (e, _) =>
    if e.core = o.core ∧ e.serial = o.serial then
      let e1 := e.finalise true
      ((s.updOp o.core o.serial fun x => { x with phase := .running }).setEntry e1).routeEnd e1 { o with phase := .running }
    else s

/-- RRET (R400). -/
def execRret (o : Canon) (s : State) : Host.Outcome State Fault Refusal := run 0xD1 o s fun s =>
  let t := (s.a32 o).toNat
  let r := (s.b32 o).toNat
  let c := s.cco
  if t % 4 ≠ 0 then .error (.fault 0x06 (BitVec.ofNat 64 t))
  else if r % 4 ≠ 0 then .error (.fault 0x06 (BitVec.ofNat 64 r))
  else match c.scrFail t 16 with
  | some x => .error x
  | none =>
    let (h, s1) := s.scrRead (.thread s.me) c.uid t 16 4
    if field h 2 1 ≠ 1 then .error (routeFault 7 0 0)
    else if c.scrBytes < r + 4 * field h 10 2 then .error (.fault 0x07 (scrDetail c.spanPos (max r c.scrBytes)))
    else
      if s1.messagesFull then .error (.wait .messages .none)
      else
        let (f, s2) := s1.fork 3 false .running 0 (.rret (field h 4 4) (field h 8 2) (field h 10 2) r)
        .ok (.fall, s2.putFuture o.d f)

/-- A late return: it counts in LATE, by an atomic that needs only the W right and waits for what happens before it to be home, when it matches the entry's most recent
operation (R208, R237); one whose atomic waits is beyond cancellation (R219). -/
def State.lateReturn (s : State) (o : Op) (e : Option Reasm) (round : Nat) : State :=
  let late (st : State) : State := st.complete o.core o.serial (engStatus 0x46 0) 0
  match e with
  | none => late s
  | some e =>
    if e.part ≠ o.part ∨ e.round ≠ round then late s
    else
      let ptr := ea e.out (e.lateOff : Nat)
      let c := e.ctx o
      let r : Except Trap State := do
        let (tg, s1) ← s.port c .write ptr 4
        match tg with
        | .away node part va off =>
          let _ ← s1.remote c.agent node part va off 2 4 0 (toLE 4 1 ++ toLE 4 0)
          .ok s1
        | .here ls =>
          s1.guardLocs c .atomic ptr ls
          if s1.homeRefused (s1.knownBy c.agent) then .error (.wait .retry .none)
          .ok (s1.rmw c.agent c.part ls none fun b => some (toLE 4 (leNat b + 1))).2.2
      match r with
      | .ok s1 => late s1
      | .error (.fault k d) => s.complete o.core o.serial (faultStatus k d) d
      | .error (.wait w q) => (s.updOp o.core o.serial fun x => { x with phase := .committed }).opWaits o w q

/-- RRET_ARRIVAL for an operation (R237). -/
def State.finishRret (s : State) (o : Op) : State :=
  match o.phase, o.body with
  | .committed, .rret tag round _ _ => s.lateReturn o (s.entryOf (bitsOf tag 15 10) (bitsOf tag 23 16)) round
  | .running, .rret tag round nout off =>
    let row := bitsOf tag 7 0
    let j := bitsOf tag 9 8
    let e : Option Reasm := s.entryOf (bitsOf tag 15 10) (bitsOf tag 23 16)
    let taken : Option Choice := match e with
      | some (x : Reasm) => if x.active && !x.ended && x.part == o.part && x.round == round then x.choices.find? fun (c : Choice) => c.row == row && c.j == j && c.st == .delivered else none
      | none => none
    match e, taken with
    | some x, some c =>
      let (b, s1) := s.scrRead (.op o.core o.serial) o.uid off (4 * nout) 4
      let (more, s2) := s1.freeBytes (4 * (x.nout - nout))
      let y := (List.range x.nout).map fun i => field (b ++ more) (4 * i) 4
      let known := s2.passedBy (.op o.core o.serial)
      let x1 := x.mark c (.returned y)
      let s3 := ((s2.setEntry x1).see (.op x.core x.serial) known).complete o.core o.serial (engStatus 0 0) 0
      match s3.findOp x.core x.serial with
      | some ro => s3.routeEnd x1 ro
      | none => s3
    | _, _ => s.lateReturn o e round
  | _, _ => s

/-- RRET_ARRIVAL (R237). -/
def execRretArrival (core : Nat) (serial : BitVec 20) (s : State) : Host.Outcome State Fault Refusal := s.onOp core serial State.finishRret

end Sys2Proof.Machine
end

