-- ==== Sys2Proof/Machine/Launch.lean ====
section
/-! DEFINITION. Launch records, their acceptance, LAUNCH, LSTAT and FCANCEL (R26, R27, R45, R51, R52, R219, R244, R245, R320, R343-R345, R357, R358). -/

namespace Sys2Proof.Machine

/-- The fields of a launch record (R26). -/
def LaunchRec.parse (b : List Byte) : LaunchRec :=
  { kentry := BitVec.ofNat 64 (field b 0 8), params := BitVec.ofNat 64 (field b 8 8), compl := BitVec.ofNat 64 (field b 0x10 8), gx := field b 0x18 4,
    gy := field b 0x1C 2, gz := field b 0x1E 2, nthr := field b 0x20 2, gregs := field b 0x22 1, nviews := field b 0x23 1, nargs := field b 0x24 1,
    policy := field b 0x25 1, ctrl := field b 0x26 1, tilegr := field b 0x28 2, scrgr := field b 0x2A 2, handler := BitVec.ofNat 32 (field b 0x2C 4),
    latbound := field b 0x30 4, ltag := field b 0x34 2, preq := [field b 0x36 2, field b 0x38 2, field b 0x3A 2, field b 0x3C 2] }

/-- Cohorts of a launch. -/
def LaunchRec.total (r : LaunchRec) : Nat := r.gx * r.gy * r.gz
/-- Progress class: 0 WEAK, 1 PARALLEL, 2 CONCURRENT. -/
def LaunchRec.cls (r : LaunchRec) : Nat := bitsOf r.policy 1 0
/-- Placement: 0 spread, 1 fill, 2 quad span. -/
def LaunchRec.placement (r : LaunchRec) : Nat := bitsOf r.policy 3 2
/-- The launch is ORDERED. -/
def LaunchRec.ordered (r : LaunchRec) : Bool := bitOf r.ctrl 3
/-- Bytes of the parameter block. -/
def LaunchRec.blockLen (r : LaunchRec) : Nat := 32 * r.nviews + 8 * r.nargs

/-- FORMAT (R27). -/
def LaunchRec.formatBad (r : LaunchRec) (b : List Byte) : Bool :=
  field b 0x27 1 != 0 || field b 0x3E 2 != 0 || r.gx == 0 || r.gy == 0 || r.gz == 0 || decide (2 ^ 32 < r.total)
    || r.nthr % 32 != 0 || decide (r.nthr < 32) || decide (2048 < r.nthr) || r.gregs % 8 != 0 || decide (r.gregs < 8) || decide (64 < r.gregs)
    || decide (16 < r.nviews) || decide (16 < r.nargs) || r.cls == 3 || r.placement == 3 || bitsOf r.policy 5 4 == 3 || bitsOf r.policy 7 6 != 0
    || bitsOf r.ctrl 7 5 != 0 || decide (256 < r.tilegr) || decide (128 < r.scrgr)
    || (r.handler != 0xFFFFFFFF && r.handler.toNat % 4 != 0) || ptrOff r.kentry % 4 != 0 || ptrOff r.compl % 64 != 0
    || (r.blockLen != 0 && ptrOff r.params % 32 != 0) || ((bitsOf r.policy 5 4 != 0) != (r.placement == 2))

/-- SHAPE (R25, R27, R68). -/
def LaunchRec.shapeBad (r : LaunchRec) (views : List (List Byte)) : Bool :=
  decide (512 * 1024 < r.nthr * r.gregs * 4) || views.any (fun v => (viewCheck v (r.tilegr * 4096)).isSome) || (r.span != 0 && r.total % r.span != 0)

/-- The cores of a partition's core set (R243). -/
def Part.coreList (p : Part) : List Nat := (List.range 192).filter fun i => bitOf p.coreset i
/-- budget_cores (R243). -/
def Part.budget (p : Part) : Nat := min p.cores p.coreList.length
/-- budget_cores_in (R243). -/
def Part.budgetIn (p : Part) (q : Nat) : Nat := (p.coreList.filter fun i => quadOf i == q).length

/-- Cohorts of one shape that an empty core holds (R45). -/
def LaunchRec.cap (r : LaunchRec) : Nat :=
  min 16 (min (2048 / r.nthr) (min (512 * 1024 / (r.nthr * r.gregs * 4)) (min (if r.tilegr = 0 then 16 else 256 / r.tilegr) (if r.scrgr = 0 then 16 else 128 / r.scrgr))))

/-- PROGRESS (R45). -/
def LaunchRec.progressBad (r : LaunchRec) (p : Part) : Bool :=
  r.cls == 2 &&
    if r.span = 0 then decide (p.budget * r.cap < r.total)
    else decide (min (p.budget / r.span) (((List.range 48).map fun q => p.budgetIn q / r.span).foldl (· + ·) 0) * r.cap < r.total / r.span)

/-- ACCESS (R27): the port's checks on KENTRY, the parameter block and the completion record; the block's bytes. -/
def State.recordAccess (s : State) (part seq : Nat) (r : LaunchRec) : Except Trap (List Byte × State) := do
  let c := hubCtx part (some seq)
  let (_, s1) ← s.portEntry c .fetch r.kentry 4
  let (blk, s2) ← if r.blockLen = 0 then .ok (([] : List Byte), s1) else s1.hubRead part (some seq) r.params r.blockLen
  let (ps, s3) ← s2.portParts c .write r.compl 64
  let (_, s4) ← s3.portEntry c .read r.compl 64
  s4.partsStop c .read r.compl 0 hubAcq ps none
  .ok (blk, s4.spendParts c.agent 0 ps)

/-- What the checks of R27 find. -/
inductive Verdict where
  | waits (w : Wait) (r : Req)
  | reject (code : Nat)
  | accept (views : List View) (args : List DWord) (s : State)

/-- An outstanding launch of the partition has the tag (R27). -/
def State.tagged (s : State) (part tag : Nat) : List Launch := s.launches.filter fun l => l.part == part && l.open_ && l.lr.ltag == tag

/-- The checks of R27 in their order. -/
def State.checkRecord (s : State) (part seq : Nat) (b : List Byte) : Verdict :=
  let r := LaunchRec.parse b
  match s.recordAccess part seq r with
  | .error (.wait w q) => .waits w q
  | .error (.fault _ _) => .reject 1
  | .ok (blk, s1) =>
    let views := (List.range r.nviews).map fun i => slice blk (32 * i) 32
    if r.formatBad b then .reject 2
    else if r.shapeBad views then .reject 3
    else if r.ltag != 0 && !(s1.tagged part r.ltag).isEmpty then .reject 4
    else if r.progressBad (s1.pa part) then .reject 5
    else .accept (views.map View.parse) ((List.range r.nargs).map fun i => BitVec.ofNat 64 (field blk (32 * r.nviews + 8 * i) 8)) s1

/-- Write a rejected record's completion record, or enter the rejection in the fault queue (R47, R48, R245). -/
def State.putReject (s : State) (part seq code : Nat) (compl : Option DWord) : State :=
  match compl with
  | none => s.fqEnter part 2 code seq 0 0 0 0
  | some p => s.hubDo (.reject part seq code p s.svc.time)

/-- An accepted launch (R27, R48). -/
def Launch.accepted_ (part seq : Nat) (r : LaunchRec) (views : List View) (args : List DWord) (child : Option (Nat × Nat)) (known : List Nat)
    (s : State) : Launch :=
  { part := part, seq := seq, lr := r, views := views, args := args, child := child, state := 1, accepted := s.count, since := s.svc.time.toNat,
    nextLin := 0, completed := 0, doneLins := [], prefix_ := 0, faults := 0, first := none, known := union s.prov.hub known, entry := known, wrote := [],
    preqs := (r.preq.filter (· != 0)).flatMap fun t => (s.tagged part t).map (·.seq), aborting := false, cancelled := false, kind5 := false, flushed := [] }

/-- The next record of a partition takes its number (R245). -/
def State.numbered (s : State) (part : Nat) : State := s.setPa part { s.pa part with nextSeq := ((s.pa part).nextSeq + 1) % 2 ^ 32 }

/-- A record is rejected (R27, R245); `b` is none when it cannot be read. -/
def State.rejectRecord (s : State) (part : Nat) (b : Option (List Byte)) (child : Option (Nat × Nat)) (code : Nat) : State :=
  let s1 := (s.numbered part).putReject part (s.pa part).nextSeq code (b.map fun x => (LaunchRec.parse x).compl)
  match child with
  | some (c, n) => s1.complete c n (engStatus 0x49 code) 0
  | none => s1

/-- A record is accepted (R27, R47, R48). -/
def State.acceptRecord (s : State) (part : Nat) (r : LaunchRec) (views : List View) (args : List DWord) (child : Option (Nat × Nat)) (known : List Nat) : State :=
  let seq := (s.pa part).nextSeq
  let s1 : State := { s with launches := s.launches ++ [Launch.accepted_ part seq r views args child known s], count := s.count + 1, due := true }
  let s2 := ((s1.numbered part).hubPut part (some seq) (DWord.plus r.compl 4) (toLE 4 seq)).hubPut part (some seq) r.compl (toLE 1 1)
  match child with
  | some (c, n) => s2.updOp c n fun o => { o with body := match o.body with | .launch x _ _ => .launch x (some seq) false | y => y }
  | none => s2

/-- The Curator takes a record (R27, R245); or it waits. A record whose page cannot be brought is rejected (R27, R190). -/
def State.takeRecord (s : State) (part : Nat) (b : List Byte) (child : Option (Nat × Nat)) (known : List Nat) : Except State State :=
  match s.checkRecord part (s.pa part).nextSeq b with
  | .reject code => .ok (s.rejectRecord part (some b) child code)
  | .accept views args s1 => .ok (s1.acceptRecord part (LaunchRec.parse b) views args child known)
  | .waits w q =>
    match s.request (.hub part) w q with
    | (.ok _, s1) => .error s1
    | (.error _, s1) => .ok (s1.rejectRecord part (some b) child 1)

/-- The device-side queue of a partition has room (R52). -/
def State.devRoom (s : State) (part : Nat) : Bool := decide ((s.pa part).devq.length < 256)

/-- An operation's record enters the device-side queue, or completes with QFULL (R52, R344). -/
def State.enterDev (s : State) (o : Op) (bytes : List Byte) : State :=
  if s.devRoom o.part then
    let p := s.pa o.part
    let s1 := s.setPa o.part { p with devq := p.devq ++ [{ bytes := bytes, core := o.core, serial := o.serial, known := s.passedBy (.op o.core o.serial) }] }
    (s1.updOp o.core o.serial fun x => { x with phase := .running, body := .launch bytes none true }).wake fun _ t =>
      t.run == .blocked .atLaunch && (s1.co t.coh).core == o.core
  else s.complete o.core o.serial (engStatus 0x42 0) 0

/-- A new launch operation of the executing thread enters the queue. -/
def State.launchNow (s : State) (d : BitVec 8) (bytes : List Byte) : State :=
  let (h, s1) := s.fork 5 false .running 0 (.launch bytes none false)
  let s2 := s1.putFuture d h
  match s2.findOp (hCore h) (hSerial h) with
  | some o => s2.enterDev o bytes
  | none => s2

/-- Threads blocked in LAUNCH.wait enter in their order while there is room (R52). -/
def State.serveWaiters (s : State) (part : Nat) : Nat → State
  | 0 => s
  | fuel + 1 =>
    match s.waiters.find? fun t => (s.co (s.th t).coh).part == part with
    | none => s
    | some t =>
      if !s.devRoom part then s
      else
        let s1 := { s with waiters := s.waiters.filter (· != t) }
        match (s.th t).run with
        | .blocked (.launch bytes d len) => (((s1.as t fun x => x.launchNow (BitVec.ofNat 8 d) bytes).goOn t len .fall).serveWaiters part fuel)
        | _ => s1.serveWaiters part fuel

/-- LAUNCH (R343, R344): the record is read once, at execution. -/
def execLaunch (o : Canon) (s : State) : Host.Outcome State Fault Refusal := run 0xD3 o s fun s =>
  let p := s.dispAddr o
  if ptrOff p % 64 ≠ 0 then .error (alignFault p)
  else match s.readMem s.tctx p 64 8 with
  | .error t => .error t
  | .ok (bytes, _, s1) =>
    if o.mod.getLsbD 1 then
      if 16 ≤ (s1.ops.filter fun x => x.core == s1.cco.core && x.kind == 5 && x.phase == .held).length then .error (.wait .atLaunch .none)
      else let (h, s2) := s1.fork 5 false .held (s1.b64 o) (.launch bytes none false); .ok (.fall, s2.putFuture o.d h)
    else if o.mod.getLsbD 0 && !s1.devRoom s1.cco.part then
      .ok (.hold (.launch bytes o.d.toNat o.len.toNat), { s1 with waiters := s1.waiters ++ [s1.me] })
    else .ok (.fall, s1.launchNow o.d bytes)

/-- PHASE and SEQ of a launch operation (R358). -/
def State.launchPhase (s : State) (o : Op) : Nat × Nat :=
  match o.body with
  | .launch _ (some seq) _ =>
    let started : Bool := match s.launch o.part seq with | some l => decide (0 < l.nextLin) | none => true
    (if o.phase = .done then 4 else if started then 3 else 2, seq % 2 ^ 24)
  | _ => (match o.phase with | .held => 0 | .done => 4 | _ => 1, 0)

/-- LSTAT (R357, R358). -/
def execLstat (o : Canon) (s : State) : Host.Outcome State Fault Refusal := run 0xD4 o s fun s =>
  if o.mod.getLsbD 0 then
    let q := (s.pa s.cco.part).devq.length
    let w := min (s.waiters.filter fun t => (s.co (s.th t).coh).part == s.cco.part).length 65535
    .ok (.fall, s.put32 o.d (BitVec.ofNat 32 (min q 256 + w * 2 ^ 16)))
  else
    let h := s.cth.gv o.a.toNat
    if hKind h ≠ 5 then .error (futureFault h)
    else match s.resolve s.cco.part h with
    | .bad => .error (futureFault h)
    | .expired => .ok (.fall, s.put32 o.d 4)
    | .op x =>
      if x.kind ≠ 5 then .error (futureFault h)
      else let (ph, seq) := s.launchPhase x; .ok (.fall, s.put32 o.d (BitVec.ofNat 32 (ph + seq * 2 ^ 8)))

/-- FCANCEL of a launch: a queued record is removed, an accepted child is aborted (R219). -/
def State.cancelLaunch (s : State) (o : Op) (seq : Option Nat) : State :=
  match seq with
  | some q => s.updLaunch o.part q fun l => if l.open_ then { l with cancelled := true, aborting := true } else l
  | none =>
    let p := s.pa o.part
    let s1 := s.setPa o.part { p with devq := p.devq.filter fun r => !(r.core == o.core && r.serial == o.serial) }
    (s1.complete o.core o.serial (engStatus 0x47 0) 0).serveWaiters o.part s1.waiters.length

/-- The effect of FCANCEL by engine kind (R219). -/
def State.cancelOp (s : State) (o : Op) : State :=
  if o.phase = .done then s
  else match o.body with
  | .route q e => s.cancelRoute q e o
  | .rret _ _ _ _ | .message _ _ _ _ _ => if o.phase = .committed then s else s.complete o.core o.serial (engStatus 0x47 0) 0
  | .launch _ seq _ => s.cancelLaunch o seq
  | .pxch _ _ _ _ _ => if o.phase = .held ∧ s.svc.time.toNat < o.start.toNat then s.complete o.core o.serial (engStatus 0x47 0) 0 else s
  | _ => s.cancelEngine o

/-- FCANCEL (R219, R320). -/
def execFcancel (o : Canon) (s : State) : Host.Outcome State Fault Refusal := run 0xC5 o s fun s =>
  match s.handleAt o.a.toNat with
  | .bad => .error (futureFault (s.cth.gv o.a.toNat))
  | .expired => .ok (.fall, s)
  | .op x => .ok (.fall, s.cancelOp x)

end Sys2Proof.Machine
end

