-- ==== Sys2Proof/Machine/Place.lean ====
section
/-! DEFINITION. Placement: eligible launches in rank order, budgets, the choice of cores, the start and the return of cohorts (R28, R243, R246-R248, R252, R253). -/

namespace Sys2Proof.Machine

/-- How many more cohorts of a shape a core takes beside these (R25). -/
def roomFor (cs : List Cohort) (r : LaunchRec) : Nat :=
  let sum (f : Cohort → Nat) : Nat := cs.foldl (fun a c => a + f c) 0
  min (16 - cs.length) (min ((2048 - sum (·.nthr)) / r.nthr)
    (min ((512 * 1024 - sum fun c => c.nthr * c.gregs * 4) / (r.nthr * r.gregs * 4))
      (min (if r.tilegr = 0 then 16 else (256 - sum (·.tilegr)) / r.tilegr) (if r.scrgr = 0 then 16 else (128 - sum (·.scrgr)) / r.scrgr))))

/-- The indices of the resident cohorts, without those in `gone`. -/
def State.residents (s : State) (gone : List Nat) : List Nat :=
  (List.range s.cohorts.length).filter fun i => (s.co i).place == .resident && !gone.contains i

/-- A list without repeats. -/
def dedup (xs : List Nat) : List Nat := xs.foldl (fun l x => if l.contains x then l else l ++ [x]) []

/-- The first element of least value. -/
def minBy (f : Nat → Nat) (xs : List Nat) : Option Nat :=
  xs.foldl (fun best x => match best with | some b => if f x < f b then some x else some b | none => some x) none

/-- The cohort has run in the last 100 µs (R247). -/
def State.ranLately (s : State) (c : Cohort) : Bool := c.place == .resident || decide (s.svc.time.toNat ≤ c.leftAt + 100000)

/-- The mean reading per cohort over a launch's cohorts that ran in the last 100 µs, else its default (R247): the partition's reading, shared evenly by its cohorts. -/
def State.estOf (s : State) (l : Launch) (sample : List Nat) (dflt : Nat) : Nat :=
  let mine := s.cohorts.filter fun c => c.part == l.part && s.ranLately c
  if mine.any fun c => c.seq == l.seq then nth 0 sample l.part / mine.length else dflt

/-- The bandwidth and power budgets let one more cohort of the launch start (R247). -/
def State.powerOk (s : State) (l : Launch) (empty : Bool) : Bool :=
  let p := s.pa l.part
  empty || ((p.bwb == 0 || decide (nth 0 s.svc.bw l.part + s.estOf l s.svc.bw p.defbw ≤ p.bwb * 1000))
    && (p.pwb == 0 || decide (nth 0 s.svc.pw l.part + s.estOf l s.svc.pw p.defpw ≤ p.pwb * 1000)))

/-- A cohort every thread of which is exited or blocked on a future, a barrier or LAUNCH.wait (R53). -/
def State.idle (s : State) (i : Nat) : Bool :=
  (s.thsOf i).all fun t => match (s.th t).run with
    | .exited | .blocked (.future _ _) | .blocked (.futures _ _) | .blocked (.bar _ _) | .blocked (.launch _ _ _) => true
    | _ => false

/-- A cohort of a launch that waits to come back: its linear index, its index, and whether it was saved rather than flushed. -/
structure Waiting where
  lin : Nat
  coh : Nat
  saved : Bool
  deriving DecidableEq, Repr

/-- A saved place. -/
def Place.isSaved : Place → Bool
  | .saved _ => true
  | _ => false

/-- The cohorts of a launch that wait to come back, in ascending linear index. -/
def State.waitingOf (s : State) (l : Launch) : List Waiting :=
  sorted ((((List.range s.cohorts.length).filter fun i => (s.co i).part == l.part && (s.co i).seq == l.seq && (s.co i).place.isSaved).map fun i =>
    (⟨(s.co i).lin, i, true⟩ : Waiting)) ++ l.flushed.map fun f => (⟨f.1, f.2, false⟩ : Waiting)) fun a b => decide (a.lin ≤ b.lin)

/-- A launch goes on, and its cohort of a linear index is to be placed. -/
def State.awaits (s : State) (l : Launch) (lin : Nat) : Bool :=
  l.open_ && !l.aborting && (decide (l.nextLin ≤ lin) || (s.waitingOf l).any fun w => w.lin == lin)

/-- A placement in the making: the launch, the linear indices placed, the cohorts counted as freed, whether bandwidth and power gate it, and the cores already chosen. -/
structure Plan where
  l : Launch
  lins : List Nat
  gone : List Nat
  gated : Bool
  chosen : List Nat
  deriving DecidableEq, Repr

/-- A draining victim keeps its core for the cohort that it drains for (R251). -/
def State.keptFor (s : State) (p : Plan) (core : Nat) : Bool :=
  s.cohorts.any fun c => c.place == .resident && c.core == core && match c.taken with
    | .drain _ part seq lin => !(part == p.l.part && seq == p.l.seq && p.lins.contains lin)
        && match s.launch part seq with | some x => s.awaits x lin | none => false
    | _ => false

/-- Cores that hold a cohort of the partition, with those chosen. -/
def State.usedCores (s : State) (p : Plan) : List Nat :=
  dedup ((((s.residents p.gone).filter fun i => (s.co i).part == p.l.part).map fun i => (s.co i).core) ++ p.chosen)

/-- The core has room for one more cohort (R25, R248, R251). -/
def State.coreTakes (s : State) (p : Plan) (core : Nat) : Bool :=
  let cs := ((s.residents p.gone).filter fun i => (s.co i).core == core).map s.co
  bitOf (s.pa p.l.part).coreset core && !s.keptFor p core && decide ((p.chosen.filter (· == core)).length < roomFor cs p.l.lr)

/-- The core count stays in the budget when `cores` are used as well (R247). -/
def State.coresOk (s : State) (p : Plan) (cores : List Nat) : Bool :=
  decide ((dedup (s.usedCores p ++ cores)).length ≤ (s.pa p.l.part).cores)

/-- Cohorts of the launch in a region of cores, the chosen ones included (R248). -/
def State.countIn (s : State) (p : Plan) (inside : Nat → Bool) : Nat :=
  ((s.residents p.gone).filter fun i => (s.co i).part == p.l.part && (s.co i).seq == p.l.seq && inside (s.co i).core).length
    + (p.chosen.filter inside).length

/-- Spread (R248): the die, then the quadrant, then the quad that holds fewest cohorts of the launch; there the core with most free thread slots. -/
def State.spreadCore (s : State) (p : Plan) (able : List Nat) : Option Nat :=
  let narrow (size : Nat) (xs : List Nat) : List Nat :=
    match minBy (fun g => s.countIn p fun c => c / size == g) (dedup (xs.map (· / size))) with
    | some g => xs.filter fun c => c / size == g
    | none => []
  let threads (core : Nat) : Nat :=
    ((s.residents p.gone).filter fun i => (s.co i).core == core).foldl (fun a i => a + (s.co i).nthr) 0 + (p.chosen.filter (· == core)).length * p.l.lr.nthr
  minBy threads (narrow 4 (narrow 24 (narrow 96 able)))

/-- Up to `n` cores of one quad for a span, in ascending order, within the core budget (R248). -/
def State.spanCores (s : State) (p : Plan) (n : Nat) (able : List Nat) : List Nat :=
  able.foldl (fun g c => if g.length < n && s.coresOk p (g ++ [c]) then g ++ [c] else g) []

/-- The members of a group in order: those that must go back to their cores, the others on free ones. -/
def pinnedCores : List (Option Nat) → List Nat → Option (List Nat)
  | [], _ => some []
  | some c :: ps, free => (pinnedCores ps free).map (c :: ·)
  | none :: ps, c :: free => (pinnedCores ps free).map (c :: ·)
  | none :: _, [] => none

/-- The cores of a group, whose members may have to go back to their original ones: one core for a cohort, several of one quad for a span (R28, R228, R248). -/
def State.groupCores (s : State) (p : Plan) (pins : List (Option Nat)) : Option (List Nat) :=
  let able := (s.pa p.l.part).coreList.filter (s.coreTakes p)
  let n := pins.length
  match pins.filterMap id with
  | c :: cs =>
    let free := s.spanCores { p with chosen := p.chosen ++ c :: cs } (n - (cs.length + 1)) (able.filter fun x => quadOf x == quadOf c && !(c :: cs).contains x)
    match pinnedCores pins free with
    | some xs => if xs.all able.contains && s.coresOk p xs then some xs else none
    | none => none
  | [] =>
    if p.l.lr.span ≠ 0 then
      let quads := (dedup (able.map quadOf)).filter fun q => (s.spanCores p n (able.filter fun c => quadOf c == q)).length == n
      (minBy (fun q => 4 - (able.filter fun c => quadOf c == q).length) quads).map fun q => s.spanCores p n (able.filter fun c => quadOf c == q)
    else
      let ok := able.filter fun c => s.coresOk p [c]
      (if p.l.lr.placement = 1 then ok.head? else s.spreadCore p ok).map fun c => [c]

/-- Cores for several groups, in order; `none` when one does not fit (R247, R248). -/
def State.planGroups (s : State) (p : Plan) : List (List (Option Nat)) → Option (List Nat)
  | [] => some p.chosen
  | g :: gs =>
    let empty := p.chosen.isEmpty && !(s.residents p.gone).any fun i => (s.co i).part == p.l.part
    if p.gated && !s.powerOk p.l empty then none
    else match s.groupCores p g with
    | none => none
    | some cs => s.planGroups { p with chosen := p.chosen ++ cs } gs

/-- The resident cohorts of a launch. -/
def State.running (s : State) (l : Launch) : List Nat := (s.residents []).filter fun i => (s.co i).part == l.part && (s.co i).seq == l.seq

/-- A cohort whose core was taken for a child launch waits until that launch has placed a cohort (R53). -/
def State.yields (s : State) (i : Nat) : Bool :=
  match (s.co i).yieldsTo with
  | some (p, q) => ((s.launch p q).map fun x => x.open_ && !x.aborting).getD false
  | none => false

/-- The units in which a launch's waiting cohorts come back: all of a CONCURRENT launch, a span, or one cohort (R28, R45). -/
def State.waitingUnits (s : State) (l : Launch) : List (List Waiting) :=
  let ws := s.waitingOf l
  let units :=
    if l.lr.cls = 2 then (if ws.isEmpty || !(s.running l).isEmpty then [] else [ws])
    else if l.lr.span = 0 then ws.map fun w => [w]
    else ((dedup (ws.map fun w => w.lin / l.lr.span)).filter fun g => !(s.running l).any fun i => (s.co i).lin / l.lr.span == g).map fun g =>
      ws.filter fun w => w.lin / l.lr.span == g
  units.filter fun u => !u.any fun w => s.yields w.coh

/-- The core to which a cohort must go back: its original one, for a saved cohort that holds a ring (R228, R248). -/
def State.pinOf (s : State) (w : Waiting) : Option Nat := if w.saved && s.rings.any fun r => r.coh == w.coh then some (s.co w.coh).core else none

/-- The groups of a unit, spans or single cohorts: those with a member that must go back to its core come first. -/
def State.unitGroups (s : State) (l : Launch) (u : List Waiting) : List (List Waiting) :=
  let gs := if l.lr.span = 0 then u.map fun w => [w] else (dedup (u.map fun w => w.lin / l.lr.span)).map fun g => u.filter fun w => w.lin / l.lr.span == g
  let pinned (g : List Waiting) : Bool := g.any fun w => (s.pinOf w).isSome
  gs.filter pinned ++ gs.filter fun g => !pinned g

/-- Cores for a unit's members in the order of its groups. -/
def State.planUnit (s : State) (l : Launch) (gone : List Nat) (gated : Bool) (u : List Waiting) : Option (List Nat) :=
  s.planGroups { l := l, lins := u.map (·.lin), gone := gone, gated := gated, chosen := [] } ((s.unitGroups l u).map fun g => g.map s.pinOf)

/-- What blocks the thread is tried again when its cohort comes back. -/
def replays : Run → Bool
  | .blocked .engine | .blocked .messages | .blocked .atLaunch | .blocked .retry | .blocked .matrix | .blocked .pxch => true
  | .blocked (.future _ _) | .blocked (.futures _ _) | .blocked (.page _ _) | .blocked (.remote _) => true
  | _ => false

/-- A launch has placed a cohort (R246): those whose cores were taken for it may come back (R53). -/
def State.placedNow (s : State) (l : Launch) : State :=
  { s with cohorts := s.cohorts.map fun (c : Cohort) => if c.yieldsTo = some (l.part, l.seq) then { c with yieldsTo := none } else c }.updLaunch l.part l.seq
    fun x => { x with since := s.svc.time.toNat }

/-- A saved cohort comes back on a core, and its granules are free (R253, R254). -/
def State.resumeCohort (s : State) (i core : Nat) : State :=
  let c := s.co i
  let s1 := (s.setCo i { c with place := .resident, core := core, taken := .no, placedAt := s.count }).mapThs (s.thsOf i) fun t =>
    if replays t.run then { t with run := .ready, listed := .no } else { t with listed := .no }
  { s1 with count := s1.count + 1 }.roomGained c.part

/-- A flushed cohort starts again after its IDEM (R252). -/
def State.restartCohort (s : State) (l : Launch) (lin old core : Nat) : State :=
  let n := s.cohorts.length
  let base := s.threads.length
  let s1 := s.addCohort (Cohort.begin (n + 1) lin core l.part l.seq l.lr l.views l.args s.count) l.lr.kentry []
  let s2 := { s1 with threads := (List.range s1.threads.length).map fun t =>
    if t < base then s1.th t
    else
      let x := s1.th t
      let o := s1.th (s1.thOf old x.tid)
      match o.region with
      | some (pc, len) => { x with pc := fallPc pc len, region := some (pc, len), seen := o.seen }
      | none => x }
  let s2 := (s2.thsOf n).foldl (fun st t =>
    let a : Agent := .thread (s1.thOf old (s1.th t).tid)
    st.setMarks (.thread t) (ofAgent s.prov.reads a) (ofAgent s.prov.shown a)) s2
  { s2 with count := s2.count + 1, cohorts := s2.cohorts.set old { s2.co old with replaced := true } }.updLaunch l.part l.seq fun x =>
    { x with flushed := x.flushed.filter fun f => f.1 != lin }

/-- Barrier instances of a launch on a die, some of whose cohorts have come back on another die. -/
def State.rejoinDie (s : State) (l : Launch) : State :=
  let s1 := s.rekeyDie l.part l.seq
  (s1.bars.map (·.key)).foldl (fun st k => match k with
    | .die p q _ _ => if p = l.part ∧ q = l.seq then st.tryBar k else st
    | _ => st) s1

/-- A waiting unit comes back. -/
def State.placeUnit (s : State) (l : Launch) (u : List Waiting) (cores : List Nat) : State :=
  let ws := ((s.unitGroups l u).flatMap id).zip cores
  let s1 := ws.foldl (fun st x => if x.1.saved then st.resumeCohort x.1.coh x.2 else st.restartCohort l x.1.lin x.1.coh x.2) (s.placedNow l)
  if l.lr.cls = 2 && ws.any fun x => dieOf (s.co x.1.coh).core != dieOf x.2 then s1.rejoinDie l else s1

/-- The launch's next cohorts start (R28, R29). -/
def State.startCohorts (s : State) (l : Launch) (cores : List Nat) : State :=
  cores.foldl (fun st core =>
    let lin := ((st.launch l.part l.seq).map (·.nextLin)).getD 0
    let s1 := st.addCohort (Cohort.begin (st.cohorts.length + 1) lin core l.part l.seq l.lr l.views l.args st.count) l.lr.kentry l.entry
    { s1 with count := s1.count + 1 }.updLaunch l.part l.seq fun x => { x with nextLin := x.nextLin + 1 }) (s.placedNow l)

/-- How many cohorts start together next, when some may start: all of a CONCURRENT launch, a span, or one; within the window of R49.
DESIGN CHOICE (log 70): a CONCURRENT and ORDERED launch of more than 1,024 cohorts, whose cohorts R45 starts together and R49 does not, never starts. -/
def State.freshCount (s : State) (l : Launch) : Option Nat :=
  let n := if l.lr.cls = 2 then l.lr.total else max 1 l.lr.span
  if (l.lr.cls = 2 && l.nextLin != 0) || decide (l.lr.total < l.nextLin + n) || (l.lr.ordered && decide (l.prefix_ + 1024 < l.nextLin + n)) then none
  else if l.lr.cls = 1 && !(s.waitingOf l).isEmpty then none
  else some n

/-- Cores for the launch's next new cohorts. -/
def State.planFresh (s : State) (l : Launch) (gone : List Nat) (gated : Bool) (n : Nat) : Option (List Nat) :=
  s.planGroups { l := l, lins := (List.range n).map (l.nextLin + ·), gone := gone, gated := gated, chosen := [] } (List.replicate (n / max 1 l.lr.span) (List.replicate (max 1 l.lr.span) none))

/-- The launch is eligible (R246). -/
def State.eligible (s : State) (l : Launch) : Bool :=
  l.open_ && !l.aborting && s.freed l && (s.pa l.part).present && (decide (l.nextLin < l.lr.total) || !(s.waitingOf l).isEmpty)

/-- eff(L) (R246). -/
def State.eff (s : State) (l : Launch) : Nat := min 7 (bitsOf l.lr.ctrl 2 0 + (s.svc.time.toNat - l.since) / 10 ^ 6)

/-- Class and eff as one number: greater ranks higher (R246, R249). -/
def State.level (s : State) (l : Launch) : Nat := s.eff l + if (s.pa l.part).interactive then 8 else 0

/-- The eligible launches by rank (R246). -/
def State.ranked (s : State) : List Launch :=
  sorted (s.launches.filter s.eligible) fun a b => decide (s.level b < s.level a) || (s.level a == s.level b && decide (a.accepted ≤ b.accepted))

/-- Place the next cohort of a launch, if it can be placed (R246). -/
def State.tryPlace (s : State) (l : Launch) (reserved : Bool) : Option State :=
  match (s.waitingUnits l).findSome? fun u => (s.planUnit l [] true u).map fun cs => s.placeUnit l u cs with
  | some s1 => some s1
  | none =>
    if reserved then none
    else match s.freshCount l with
    | some n => (s.planFresh l [] true n).map fun cs => s.startCohorts l cs
    | none => none

/-- Edge 3 of R53 guarantees a child launch its place now: its core set holds no cohort but those of its partition that edge 2 makes eligible.
DESIGN CHOICE (log 81): the reservation of a CONCURRENT launch (R246), which could keep such a child out for ever, does not hold for it. -/
def State.childDue (s : State) (l : Launch) : Bool :=
  l.child.isSome && (s.residents []).all fun i => !(bitOf (s.pa l.part).coreset (s.co i).core) || ((s.co i).part == l.part && s.idle i)

/-- One placement in rank order; a CONCURRENT launch that has not started and does not fit reserves its partition (R246). -/
def State.placeOne (s : State) (reserved : List Nat) : List Launch → Option State
  | [] => none
  | l :: ls =>
    match s.tryPlace l (reserved.contains l.part && !s.childDue l) with
    | some s1 => some s1
    | none => s.placeOne (if l.lr.cls = 2 ∧ l.nextLin = 0 then l.part :: reserved else reserved) ls

end Sys2Proof.Machine
end

