-- ==== Sys2Proof/Machine/Curator.lean ====
section
/-! DEFINITION. Pre-emption, the context image, and the Curator's events: acceptance, ticks, completion, abort, save, drain (R46-R50, R53, R72, R244-R254). -/

namespace Sys2Proof.Machine

/-- How a victim is taken (R250). -/
inductive How where
  | drain
  | save
  | flush
  deriving DecidableEq, Repr

/-- The ranges of tile space that a cohort's image leaves out: every FACT pool beyond its occupancy (R72, R254). -/
def Cohort.sparePools (c : Cohort) : List (Nat × Nat) :=
  c.vw.filterMap fun v => let x := v.newest; if x.kind = 6 then some (x.base + x.occupancy, x.base + x.poolsz) else none

/-- Bytes that ranges cover; a byte of several counts once. -/
def coveredBytes (rs : List (Nat × Nat)) : Nat :=
  ((sortBy (·.1) rs).foldl (fun (a : Nat × Nat) r => (a.1 + (r.2 - max a.2 r.1), max a.2 r.2)) (0, 0)).1

/-- Pending future registers of a cohort's threads. -/
def State.pendingRegs (s : State) (i : Nat) : Nat := (s.thsOf i).foldl (fun a t => a + ((List.range 64).filter fun n => (s.th t).isPend n).length) 0

/-- Bytes of a cohort's context image (R254). -/
def State.imageBytes (s : State) (i : Nat) : Nat :=
  let c := s.co i
  256 + c.nthr * (64 + 4 * c.gregs) + 4096 + 16 * s.pendingRegs i + (c.tileBytes - coveredBytes c.sparePools) + c.scrBytes

/-- Whole granules of an image (R254). -/
def State.imageGranules (s : State) (i : Nat) : Nat := ceilDiv (s.imageBytes i) 4096

/-- Granules of a partition's save area that hold images. -/
def State.granulesHeld (s : State) (part : Nat) : List Nat :=
  s.cohorts.flatMap fun c => match c.place with | .saved gs => if c.part = part then gs else [] | _ => []

/-- Granules of a partition's save area that are taken or promised (R254). -/
def State.granulesUsed (s : State) (part : Nat) : Nat :=
  (List.range s.cohorts.length).foldl (fun a i =>
    let c := s.co i
    if c.part = part && c.place == .resident && c.taken == .save then a + s.imageGranules i else a) (s.granulesHeld part).length

/-- Granules of a partition's save area; none when the area fails the port's checks (R242, R254). A check that must wait has not failed (R22): the write of the image waits. -/
def State.granules (s : State) (part : Nat) : Nat :=
  let p := s.pa part
  if p.savelen = 0 then 0
  else match s.portEntry (hubCtx part none) .write p.savebase p.savelen with
  | .ok _ | .error (.wait _ _) => p.savelen / 4096
  | .error (.fault _ _) => 0

/-- The lowest free granules of a partition's save area (R254). -/
def State.freeGranules (s : State) (part n : Nat) : List Nat :=
  let held := s.granulesHeld part
  ((List.range (min (s.granules part) (held.length + n))).filter fun g => !held.contains g).take n

/-- The region that every thread of a cohort is in, so that it can be flushed (R252). -/
def State.flushRegion (s : State) (i : Nat) : Option (DWord × Nat) :=
  match (s.thsOf i).map s.th with
  | [] => none
  | t :: ts =>
    match t.region with
    | none => none
    | some r => if (t :: ts).all fun x => x.run != .exited && (x.region.map (·.1)) == some r.1 then some r else none

/-- The unit of a resident cohort: a CONCURRENT launch, a span, or the cohort (R249). -/
def State.unitOf (s : State) (i : Nat) : List Nat :=
  let c := s.co i
  match s.launch c.part c.seq with
  | none => [i]
  | some l =>
    if l.lr.cls = 2 then s.running l
    else if c.spanSize = 0 then [i]
    else (s.running l).filter fun j => (s.co j).lin / c.spanSize == c.lin / c.spanSize

/-- engine_est of a cohort: its queued copy and tile operations at the engine's nominal rate (R250). -/
def State.engineEst (s : State) (i : Nat) : Nat :=
  (s.ops.filter fun o => o.uid == (s.co i).uid && o.phase != .done && (o.kind == 0 || o.kind == 2)).foldl (fun a o =>
    a + Config.engineNs o.kind (match o.body with | .copy _ _ _ _ _ _ xb ny nz _ _ _ _ => xb * ny * nz | _ => 0)) 0

/-- save_est (R250). -/
def State.saveEst (s : State) (i : Nat) : Nat := s.engineEst i + ceilDiv (5 * ceilDiv (s.imageBytes i) 64) 9

/-- drain_est; none for infinity (R250). -/
def State.drainEst (s : State) (i : Nat) : Option Nat :=
  let d := (s.co i).drain.newest.toNat
  if d = 0 then none else some (d + s.engineEst i)

/-- The greatest of several estimates. -/
def maxOf (xs : List Nat) : Nat := xs.foldl max 0

/-- How a unit is taken for a launch, and whether the bound is missed; none when the save area has no room (R250). -/
def State.howTo (s : State) (l : Launch) (u : List Nat) (edge2 nodrain room : Bool) : Option (How × Bool) :=
  let flushable := u.all fun i => (s.flushRegion i).isSome
  let plainly : Option (How × Bool) := if flushable then some (.flush, false) else if room then some (.save, false) else none
  if edge2 || !(s.pa l.part).interactive then plainly
  else
    let within (x : Nat) : Bool := l.lr.latbound = 0 || decide (x ≤ l.lr.latbound)
    let drains : Bool := match u.mapM s.drainEst with | some ds => within (maxOf ds) | none => l.lr.latbound = 0
    if drains && !nodrain then some (.drain, false)
    else if within (maxOf (u.map s.saveEst)) && room then some (.save, false)
    else if flushable then some (.flush, false)
    else if room then some (.save, true)
    else none

/-- A unit that may be taken, with how. -/
structure Victim where
  unit : List Nat
  how : How
  missed : Bool
  deriving DecidableEq, Repr

/-- A victim that nothing has decided on yet; under edge 2 also one that drains, which its threads may never do (R53, R250). -/
def Taken.free (edge2 : Bool) : Taken → Bool
  | .no => true
  | .drain _ _ _ _ => edge2
  | .save => false

/-- The units that a launch may take, in the order in which they are taken (R249). -/
def State.victimUnits (s : State) (l : Launch) (edge2 : Bool) : List (List Nat) :=
  let mine := s.level l
  let vlevel (u : List Nat) : Nat := match s.launch (s.co (u.headD 0)).part (s.co (u.headD 0)).seq with | some v => s.level v | none => 0
  let latest (u : List Nat) : Nat := maxOf (u.map fun i => (s.co i).placedAt)
  let ok (i : Nat) (u : List Nat) : Bool :=
    u.head? == some i && u.all (fun j => (s.co j).taken.free edge2) && u.any (fun j => bitOf (s.pa l.part).coreset (s.co j).core)
      && !((s.co i).part == l.part && (s.co i).seq == l.seq)
      && (match s.launch (s.co i).part (s.co i).seq with | some v => !v.aborting | none => false)
      && if edge2 then (s.co i).part == l.part && u.all s.idle else decide (vlevel u < mine)
  sorted ((s.residents []).filterMap fun i => let u := s.unitOf i; if ok i u then some u else none) fun a b =>
    decide (vlevel a < vlevel b) || (vlevel a == vlevel b && decide (latest b ≤ latest a))

/-- Whether the launch's next cohort would fit with the cohorts in `gone` freed (R247-R249); `gated` counts bandwidth and power. -/
def State.wouldFit (s : State) (l : Launch) (gone : List Nat) (gated : Bool := true) : Bool :=
  match s.freshCount l, (s.waitingUnits l).head? with
  | some n, _ => (s.planFresh l gone gated n).isSome
  | none, some u => (s.planUnit l gone gated u).isSome
  | none, none => false

/-- Granules that the images of a unit take (R254). -/
def State.unitGranules (s : State) (u : List Nat) : Nat := u.foldl (fun a i => a + s.imageGranules i) 0

/-- How each of several units is taken, in order, the images of those before it counted in the save area; none when one cannot be taken (R250). -/
def State.takeAll (s : State) (l : Launch) (edge2 : Bool) (nodrain : List Nat) : List (List Nat) → List Victim → Option (List Victim)
  | [], vs => some vs
  | u :: us, vs =>
    let part := (s.co (u.headD 0)).part
    let taken := (vs.filter fun v => v.how == .save && (s.co (v.unit.headD 0)).part == part).foldl (fun a v => a + s.unitGranules v.unit) 0
    let room : Bool := decide (s.granulesUsed part + taken + s.unitGranules u ≤ s.granules part)
    match s.howTo l u edge2 (u.any nodrain.contains) room with
    | none => none
    | some (how, missed) => s.takeAll l edge2 nodrain us (vs ++ [⟨u, how, missed⟩])

/-- Leave out units that the cohort does not need, the last chosen kept (R249). -/
def State.trimUnits (s : State) (l : Launch) (base : List Nat) (us : List (List Nat)) : List (List Nat) :=
  us.reverse.foldl (fun keep u =>
    let rest := keep.filter (· != u)
    if s.wouldFit l (base ++ rest.flatMap id) then rest else keep) us

/-- The victims: as many of the first units that make room as the cohort needs, each with how it is taken; else the units that could be taken, and those for which the save
area has no room (R249, R250). -/
def State.pickVictims (s : State) (l : Launch) (edge2 : Bool) (nodrain base : List Nat) :
    List (List Nat) → List (List Nat) → List (List Nat) → Option (List Victim) × List (List Nat) × List (List Nat)
  | [], got, noroom => (none, got, noroom)
  | u :: us, got, noroom =>
    if (s.takeAll l edge2 nodrain [u] []).isNone then s.pickVictims l edge2 nodrain base us got (noroom ++ [u])
    else if !s.wouldFit l (base ++ (got ++ [u]).flatMap id) then s.pickVictims l edge2 nodrain base us (got ++ [u]) noroom
    else match s.takeAll l edge2 nodrain (s.trimUnits l base (got ++ [u])) [] with
    | some vs => (some vs, got, noroom)
    | none => s.pickVictims l edge2 nodrain base us got (noroom ++ [u])

/-- FLUSH (R252): stop, cancel copy and tile work, release, free; the cohort starts again later. -/
def State.flushCohort (s : State) (i : Nat) : State :=
  let s1 := ((s.unlist i).unqueue i).mapThs (s.thsOf i) fun t => { t with run := .stopped, listed := .no }
  let s2 := ((s1.cancelCohort i).releaseCohort i).freeRings i
  let c := s2.co i
  let s3 := s2.setCo i { c with place := .gone, taken := .no, holds := [], leftAt := s.svc.time.toNat }
  let s4 := { s3 with matops := s3.matops.filter fun m => m.coh != i, due := true }
  (s4.faultLaunch c.part c.seq c.faults c.first).updLaunch c.part c.seq fun l =>
    { l with flushed := (c.lin, i) :: l.flushed, since := if l.lr.total ≤ l.nextLin ∧ (s4.waitingOf l).isEmpty then s.svc.time.toNat else l.since }

/-- A victim's threads issue no further instruction (R253). -/
def State.beginSave (s : State) (i : Nat) : State :=
  ((s.unlist i).setCo i { s.co i with taken := .save }).mapThs (s.thsOf i) fun t => { t with listed := .no }

/-- A bound that a pre-emption misses is counted (R242, R250). -/
def State.countMissed (s : State) (part : Nat) : State :=
  let x := s.status part
  let m := bitsOf x 31 16
  if m = 65535 then s else s.setWin (0x1000 + 256 * part + 0x78) 8 (x + 2 ^ 16)

/-- The linear index of the cohort for which a launch pre-empts: the one that `wouldFit` places (R249, R251). -/
def State.nextLinOf (s : State) (l : Launch) : Nat :=
  match s.freshCount l, (s.waitingUnits l).head? with
  | none, some (w :: _) => w.lin
  | _, _ => l.nextLin

/-- A chosen victim is taken (R250); under edge 2 it does not come back before the child has been placed (R53). -/
def State.takeVictim (s : State) (l : Launch) (edge2 : Bool) (v : Victim) : State :=
  let s1 := if v.missed then s.countMissed l.part else s
  let lin := s.nextLinOf l
  v.unit.foldl (fun st i =>
    let st := if edge2 then st.setCo i { st.co i with yieldsTo := some (l.part, l.seq) } else st
    match v.how with
    | .flush => st.flushCohort i
    | .save => st.beginSave i
    | .drain => st.setCo i { st.co i with taken := .drain (if l.lr.latbound = 0 then 0 else s.svc.time.toNat + l.lr.latbound) l.part l.seq lin }) s1

/-- Cohorts whose pre-emption under way makes room for a launch; under edge 2 not one that drains though every thread of it waits (R53). -/
def State.pendingFor (s : State) (l : Launch) (edge2 : Bool) : List Nat :=
  (s.residents []).filter fun i => match (s.co i).taken with
    | .save => true
    | .drain _ p q _ => p == l.part && q == l.seq && !(edge2 && (s.co i).part == l.part && s.idle i)
    | .no => false

/-- Pre-empt for a launch whose next cohort lacks a core (R249, R250), not bandwidth or power alone: the state with victims taken, or with KIND 5 entered; none when
nothing changes. -/
def State.preempt (s : State) (l : Launch) (edge2 : Bool) (nodrain : List Nat) : Option State :=
  let base := s.pendingFor l edge2
  if (edge2 && l.child.isNone) || s.wouldFit l base false then none
  else
    let units := s.victimUnits l edge2
    match s.pickVictims l edge2 nodrain base units [] [] with
    | (some vs, _, _) => some (vs.foldl (fun st v => st.takeVictim l edge2 v) s)
    | (none, got, noroom) =>
      if !noroom.isEmpty && !l.kind5 && s.wouldFit l (base ++ (got ++ noroom).flatMap id) then
        let bytes := ((s.trimUnits l base (got ++ noroom)).filter noroom.contains).foldl (fun a u => a + u.foldl (fun b i => b + s.imageBytes i) 0) 0
        some ((s.updLaunch l.part l.seq fun x => { x with kind5 := true }).fqEnter l.part 5 0 l.seq (s.nextLinOf l) 0 0 (BitVec.ofNat 64 bytes))
      else none

/-- Place cohorts until none can be placed (R246). -/
def State.placeAll : Nat → State → State
  | 0, s => s
  | n + 1, s => match s.placeOne [] s.ranked with | some s1 => State.placeAll n s1 | none => s

/-- COHORT_PLACEMENT (R246, R249): place, pre-empt for a launch that lacks a core, and place again; the cohorts in `nodrain` are not drained (R251). -/
def State.dispatch (nodrain : List Nat) : Nat → State → State
  | 0, s => s
  | n + 1, s =>
    let s1 := s.placeAll 4096
    match s1.ranked.findSome? fun l => (s1.preempt l false nodrain).orElse fun _ => s1.preempt l true nodrain with
    | some s2 => State.dispatch nodrain n s2
    | none => s1

/-- The placement after an event of the Curator. -/
def State.curate (s : State) : State := s.dispatch [] 4096

/-- DISPATCH_TICK (R246): 1 ms has passed; the Curator places cohorts at the end of the step. -/
def execDispatchTick (s : State) : Host.Outcome State Fault Refusal := .next { s with due := true }

/-- What the Curator reads of the host queue (R244): nothing, a broken block, or HEAD and RING's entry pointer of the next record. -/
inductive HostQueue where
  | idle
  | waits (w : Wait) (r : Req)
  | bad
  | record (head : Nat) (ptr : DWord) (s : State)

/-- HEAD of the host queue as the Curator has it: what the block says, unless a later HEAD still waits to be written (R22, R244). -/
def State.hostHead (s : State) (part read : Nat) : Nat :=
  s.hubq.foldl (fun h j => match j with
    | .put p none ptr bytes => if p = part ∧ ptr = (s.pa part).hqcb ∧ bytes.length = 8 then leNat bytes else h
    | _ => h) read

/-- Look at the host launch queue (R244). -/
def State.hostQueue (s : State) (part : Nat) : HostQueue :=
  let p := s.pa part
  if p.hostBad then .idle
  else match s.hubRead part none p.hqcb 64 with
  | .error (.wait w r) => .waits w r
  | .error (.fault _ _) => .idle
  | .ok (b, s1) =>
    let head := s.hostHead part (field b 0 8); let tail := field b 8 8; let size := field b 0x10 1
    let ring := BitVec.ofNat 64 (field b 0x18 8)
    let n := (tail + 2 ^ 64 - head) % 2 ^ 64
    if size < 4 ∨ 16 < size ∨ field b 0x11 7 ≠ 0 ∨ field b 0x20 32 ≠ 0 ∨ ptrOff ring % 64 ≠ 0 ∨ 2 ^ size < n then .bad
    else if n = 0 then .idle
    else .record head (DWord.plus ring (64 * (head % 2 ^ size))) s1

/-- What a hub access waits for is asked for (R189). -/
def State.hubAsk (s : State) (part : Nat) (w : Wait) (r : Req) : State := (s.request (.hub part) w r).2

/-- Words of a partition leave the instruction caches when a launch of it is accepted, so that its fetches observe what R79 says. -/
def State.freshCode (s : State) (part : Nat) : State := { s with icache := s.icache.filter fun w => w.part != part }

/-- The Curator takes the next host record (R244); one that cannot be read is rejected (R27). -/
def State.takeHost (s : State) (part head : Nat) (ptr : DWord) : State :=
  let done (st : State) : State :=
    (((st.dropAnswers (.hub part)).setPa part { st.pa part with devTurn := true }).freshCode part).hubPut part none (s.pa part).hqcb (toLE 8 (head + 1))
  match s.hubRead part (some (s.pa part).nextSeq) ptr 64 with
  | .error (.fault _ _) => done (s.rejectRecord part none none 1)
  | .error (.wait w r) => match s.request (.hub part) w r with
    | (.ok _, s1) => s1
    | (.error _, s1) => done (s1.rejectRecord part none none 1)
  | .ok (b, s1) => match s1.takeRecord part b none [] with
    | .error s2 => s2
    | .ok s2 => done s2

/-- The Curator takes the next device-side record (R52). -/
def State.takeDev (s : State) (part : Nat) (r : DevRec) : State :=
  match (s.see (.hub part) r.known).takeRecord part r.bytes (some (r.core, r.serial)) r.known with
  | .error s1 => s1
  | .ok s1 =>
    let p := s1.pa part
    (((s1.dropAnswers (.hub part)).setPa part { p with devTurn := false, devq := p.devq.drop 1 }).freshCode part).serveWaiters part s1.waiters.length

/-- LAUNCH_ACCEPTANCE (R244, R245): the next record of a partition, alternately from its two queues while both hold records. A host queue whose turn it is and whose block
cannot be read yet is waited for; one whose page cannot be brought holds nothing that can be read. -/
def execLaunchAcceptance (part : Nat) (s : State) : Host.Outcome State Fault Refusal :=
  let p := s.pa part
  .next (if !p.present || s.resetting part then s
    else match s.hostQueue part, p.devq with
    | .waits w r, ds => match s.request (.hub part) w r, ds with
      | (.ok _, s1), x :: _ => if p.devTurn then s.takeDev part x else s1
      | (.error _, s1), x :: _ => s1.takeDev part x
      | (_, s1), [] => s1
    | .bad, _ => ((s.dropAnswers (.hub part)).setPa part { p with hostBad := true }).fqEnter part 3 0 0 0 0 0 0
    | .record head ptr s1, [] => s1.takeHost part head ptr
    | .record head ptr s1, r :: _ => if p.devTurn then s.takeDev part r else s1.takeHost part head ptr
    | .idle, r :: _ => s.takeDev part r
    | .idle, [] => s.dropAnswers (.hub part))

/-- An operation of a cohort that still runs, by the launch's linear index, so that a restarted cohort keeps its own (R46, R252). -/
def State.busyOps (s : State) (c : Cohort) : Bool :=
  s.ops.any fun o => o.phase != .done && o.part == c.part && o.seq == c.seq && (s.co o.coh).lin == c.lin

/-- A RED of the cohort's threads waits for another device, or cannot execute at its home now: the release that covers it waits (R208, R210, R390). -/
def State.redsAway (s : State) (i : Nat) : Bool :=
  (s.fabric.reds.any fun r => (s.th r.thread).coh == i)
    || s.prov.reds.any fun r => (s.th r.thread).coh == i && s.redWaits r && !r.keys.any s.isPoison

/-- PREFIX and the completed indices at or beyond it (R49). -/
def advancePrefix : Nat → Nat → List Nat → Nat × List Nat
  | 0, p, ls => (p, ls)
  | n + 1, p, ls => if ls.contains p then advancePrefix n (p + 1) (ls.filter (· != p)) else (p, ls)

/-- A cohort has completed (R46, R47, R49). -/
def Launch.oneDone (l : Launch) (lin : Nat) : Launch :=
  if l.lr.ordered then
    let r := advancePrefix (l.doneLins.length + 1) l.prefix_ (lin :: l.doneLins)
    { l with completed := l.completed + 1, prefix_ := r.1, doneLins := r.2 }
  else { l with completed := l.completed + 1 }

/-- COHORT_COMPLETE (R46, R48): all threads have exited and all engine operations have finished. -/
def execCohortComplete (coh : Nat) (s : State) : Host.Outcome State Fault Refusal :=
  let c := s.co coh
  .next (if c.place != .resident || !(s.thsOf coh).all (fun t => (s.th t).run == .exited) || s.busyOps c || s.redsAway coh then s
    else
      let s1 := ((s.unlist coh).releaseCohort coh).freeRings coh
      let c1 := s1.co coh
      let s2 := (s1.setCo coh { c1 with place := .gone, taken := .no, holds := [], leftAt := s.svc.time.toNat }).updLaunch c.part c.seq fun l => l.oneDone c.lin
      let s3 := if c1.faults = 0 then s2.putCounts c.part c.seq else s2.faultLaunch c.part c.seq c1.faults c1.first
      { s3.settleLaunch c.part c.seq with due := true })

/-- LAUNCH_ABORT (R50): running and saved cohorts stop; when their engine operations have ended, STATE becomes 3. -/
def execLaunchAbort (part : Nat) (seq : BitVec 32) (s : State) : Host.Outcome State Fault Refusal :=
  .next (match s.launch part seq.toNat with
    | none => s
    | some l =>
      if !l.aborting || !l.open_ then s
      else
        let mine := (List.range s.cohorts.length).filter fun i => (s.co i).part == part && (s.co i).seq == seq.toNat && (s.co i).place != .gone
        let s1 := (mine.foldl State.stopCohort s).updLaunch part seq.toNat fun x => { x with flushed := [] }
        if s1.ops.any fun o => o.phase != .done && o.part == part && o.seq == seq.toNat then s1 else s1.endLaunch part seq.toNat 3)

/-- The additions of a cohort's open chains finish; the chains stay open, with the writes made for them (R253, R311). -/
def State.drainChains (s : State) (i : Nat) : State :=
  (List.range 8).foldl (fun st cv => match (st.co i).chain cv with
    | some parts =>
      let c := st.co i
      let st1 := st.applyAll c.core c.uid parts
      let parts1 := parts.map fun x => if pendingContrib x then x.after x.left st.prov.next st1.prov.next else x
      st1.setCo i { st1.co i with chains := (st1.co i).chains.set cv (some parts1) }
    | none => st) s

/-- Engine work of a cohort that a save waits for (R253). -/
def State.saveWaits (s : State) (i : Nat) : Bool :=
  s.ops.any fun o => o.uid == (s.co i).uid && o.phase != .done && match o.body with
    | .copy _ _ _ _ _ _ _ _ _ _ _ _ _ | .tileLd _ _ _ _ _ | .tileDec _ _ _ _ _ | .tileSt _ _ _ _ _ _ _ | .tileAp _ _ _ _ _ _ _ | .tileChk _ _ _ _
    | .chain _ | .lowRank _ _ _ => true
    | _ => false

/-- Pool bytes beyond the occupancy of a factor view are unspecified after a restore (R72). -/
def State.losePools (s : State) (i : Nat) : State :=
  let c := s.co i
  c.vw.foldl (fun st v =>
    let x := v.newest
    if x.kind ≠ 6 then st
    else
      let (bs, st1) := st.freeBytes (x.poolsz - x.occupancy)
      st1.engineWrite c.core [] ((List.range bs.length).map fun k => (tileKey c.uid (x.base + x.occupancy + k), nth 0 bs k))) s

/-- The threads of a context image (R254): for each, 64 B, then its general registers. -/
def State.imageThreads (s : State) (c : Cohort) (ts : List Nat) : List Byte × State :=
  ts.foldl (fun r t =>
    let (b, s1) := r.2.freeBytes 64
    (r.1 ++ b ++ (List.range c.gregs).flatMap fun n => toLE 4 (nth 0 (s.th t).g n).toNat, s1)) ([], s)

/-- A cohort's context image, section after section as R254 orders and sizes them: the header, the threads, the cohort, the futures, its tile space without the spare bytes
of FACT pools, its scratchpad. DESIGN CHOICE (log 41): the form of the header, of a thread's first 64 B, of the cohort section and of a future's entry is the device's own
and stays open; each holds free values. -/
def State.image (s : State) (i : Nat) : List Byte × State :=
  let c := s.co i
  let (header, s1) := s.freeBytes 256
  let (threads, s2) := s1.imageThreads c (s.thsOf i)
  let (cohort, s3) := s2.freeBytes 4096
  let (futures, s4) := s3.freeBytes (16 * s.pendingRegs i)
  let kept := (List.range c.tileBytes).filter fun o => !c.sparePools.any fun r => decide (r.1 ≤ o) && decide (o < r.2)
  (header ++ threads ++ cohort ++ futures ++ kept.map (fun o => Memory.get s.mem (tileKey c.uid o))
    ++ (List.range c.scrBytes).map (fun o => Memory.get s.mem (scrKey c.uid o)), s4)

/-- Bytes of an image in the save area on this device; what they held before is gone. -/
def State.putImage (s : State) (part : Nat) (ls : List Loc) (bytes : List Byte) : State :=
  let s1 := s.encWrite part ls
  let keys := keysOf ls
  { s1 with mem := (keys.zip (s1.unmask part ls bytes)).foldl (fun m x => Memory.set m x.1 x.2) s1.mem,
            prov := { s1.prov with hist := s1.prov.hist.filter fun h => !keys.contains h.key } }

/-- The bytes of an image enter the granules of the save area that it takes (R253, R254); a granule that the port refuses is left out. -/
def State.writeImage (s : State) (part : Nat) : List Nat → List Byte → Except (Wait × Req) State
  | [], _ => .ok s
  | g :: gs, bytes =>
    let c := hubCtx part none
    let ptr := DWord.plus (s.pa part).savebase (4096 * g)
    let now := bytes.take 4096
    let wrote : Except Trap State := match s.port c .write ptr now.length with
      | .error t => .error t
      | .ok (.away node rp va off, s1) => match s1.remote c.agent node rp va off 1 now.length (ordMod false true scPkg) now with
        | .error (.wait w q) => .error (.wait w q)
        | _ => .ok (s1.spend c.agent node rp va 1 now.length)
      | .ok (.here ls, s1) => (s1.guardLocs c .write ptr ls).map fun _ => s1.putImage part ls now
    match wrote with
    | .ok s1 => s1.writeImage part gs (bytes.drop 4096)
    | .error (.fault _ _) => s.writeImage part gs (bytes.drop 4096)
    | .error (.wait w q) => .error (w, q)

/-- A cohort whose image has been written leaves its core (R253). -/
def State.leaveSaved (s : State) (i : Nat) (granules : List Nat) : State :=
  let c := s.co i
  let s1 := s.setCo i { c with place := .saved granules, taken := .no, leftAt := s.svc.time.toNat }
  let s2 := s1.updLaunch c.part c.seq fun l => { l with since := if l.lr.total ≤ l.nextLin ∧ (s.waitingOf l).isEmpty then s.svc.time.toNat else l.since }
  { (s2.roomGained c.part).tryBars i with due := true }

/-- SAVE (R253, R254): the victim's engine work has finished, its release is made, its image is written and its resources are freed. -/
def execSave (coh : Nat) (s : State) : Host.Outcome State Fault Refusal :=
  let c := s.co coh
  .next (if c.taken != .save || c.place != .resident || s.saveWaits coh || s.redsAway coh then s
    else
      let s1 := ((s.flushMat c.core).drainChains coh).releaseCohort coh
      let known := s1.cohortKnown coh
      let granules := s1.freeGranules c.part (s1.imageGranules coh)
      let s2 := (((s1.thsOf coh).foldl (fun st t => st.see (.thread t) known) s1).mapThs (s1.thsOf coh) fun t => { t with listed := .no }).losePools coh
      let (bytes, s3) := s2.image coh
      match s3.writeImage c.part granules bytes with
      | .ok s4 => s4.leaveSaved coh granules
      | .error (w, q) => match s.request (.hub c.part) w q with
        | (.ok _, s4) => s4
        | (.error _, _) => s3.leaveSaved coh granules)

/-- DRAIN_TIMEOUT (R251): the Curator decides again, with DRAIN excluded, unless the cohort it drains for waits no longer; the core is free for others then. -/
def execDrainTimeout (coh : Nat) (s : State) : Host.Outcome State Fault Refusal :=
  .next (match (s.co coh).taken with
    | .drain limit p q lin =>
      if limit = 0 || decide (s.svc.time.toNat < limit) || (s.co coh).place != .resident then s
      else
        let u := s.unitOf coh
        let s1 := u.foldl (fun st i => st.setCo i { st.co i with taken := .no }) s
        let s2 := match s1.launch p q with
          | none => s1
          | some l => if s1.eligible l && s1.awaits l lin then (s1.preempt l false u).getD s1 else s1
        { s2.dispatch u 4096 with due := false }
    | _ => s)

/-- The pod's lowest node has released a tag's barrier (R271); a device whose participants have all exited has arrived at the next generation too (R43). -/
def State.podReleased (s : State) (part tag id : Nat) (known : List Nat) : State :=
  let k : BarKey := .pod part tag 0 id
  let s1 := s.podComplete k known
  if !s1.podGone part tag then s1
  else if (s1.participants k).isEmpty then s1.podTell [⟨s1.podBase, part, tag, id, false⟩]
  else s1.podReport k

/-- POD_BARRIER_RELEASE (R271): another device's arrival at a BAR.pod reaches the pod's lowest node, or that node releases this device's participants; a message for
another node is relayed (R268). -/
def execPodBarrierRelease (part tag : Nat) (m : PodMsg) (s : State) : Host.Outcome State Fault Refusal :=
  let k : BarKey := .pod part tag 0 m.id
  .next (if m.dest ≠ s.node then
      s.sendOut ⟨m.dest, m.node, m.id, 0, .barrier 0 m.node m.dest part tag m.id (!m.report)⟩
    else if tag = 0 then s
    else if m.report then
      if s.node != s.podBase || !s.inPod m.node || m.node == s.node || (s.podReports part tag m.id).any fun r => r.node == m.node then s
      else ({ s with fabric := { s.fabric with
                reports := s.fabric.reports ++ [{ part := part, tag := tag, id := m.id, node := m.node, known := s.madeHere m.known }] } } : State).podCollect k
    else if m.node = s.podBase ∧ s.node ≠ s.podBase then s.podReleased part tag m.id (s.madeHere m.known) else s)

end Sys2Proof.Machine
end

