-- ==== Sys2Proof/Machine/Reset.lean ====
section
/-! DEFINITION. Partition configuration and partition reset (R242, R243, R260, R261). -/

namespace Sys2Proof.Machine

/-- Offset of a partition's configuration record in the management window (R265). -/
def cfgOff (part : Nat) : Nat := 0x1000 + 256 * part

/-- The fields of a configuration record (R242). -/
def State.readCfg (s : State) (part : Nat) : Part :=
  let f (off n : Nat) : Nat := s.win (cfgOff part + off) n
  let p (off : Nat) : DWord := BitVec.ofNat 64 (f off 8)
  let o := s.pa part
  { present := false, interactive := bitOf (f 0 1) 1, cores := f 2 2, bwb := f 4 4, pwb := f 8 4, defbw := f 0xC 4, defpw := f 0x10 4,
    coreset := f 0x18 24, btbase := f 0x30 8, ttbase := p 0x38, ptroot := f 0x40 8, hqcb := p 0x48, fqcb := p 0x50, savebase := p 0x58, savelen := f 0x60 8,
    migpool := p 0x68, ranges := (List.range 4).map fun i => (f (0x80 + 16 * i) 8, f (0x88 + 16 * i) 8), hctrl := p 0xC0, nextSeq := o.nextSeq,
    hostBad := false, fqBad := false, devTurn := false, devq := [], resets := o.resets }

/-- A physical address of HBM4E as R182 writes it. -/
def physOk (a : Nat) : Bool := decide (a < 2 ^ 48) && decide (a / 2 ^ 44 < 11)

/-- A range is empty, or its ends are physical addresses in order (R182, R242). -/
def frameRange (r : Nat × Nat) : Bool := r.1 == r.2 || (decide (r.1 < r.2) && physOk r.1 && physOk (r.2 - 1))

/-- Offset of the first field of a record with VALID = 1 that breaks R242. DESIGN CHOICE (log 92): of RANGE0-3, for which the table has one row, the range that breaks
it is named by its own offset. -/
def State.cfgError (s : State) (part : Nat) : Option Nat :=
  let f (off n : Nat) : Nat := s.win (cfgOff part + off) n
  let p := s.readCfg part
  let checks : List (Nat × Bool) :=
    [(0x00, decide (4 ≤ f 0 1)), (0x01, f 1 1 != 0), (0x02, p.cores == 0 || decide (p.coreList.length < p.cores)), (0x14, f 0x14 4 != 0),
     (0x30, p.btbase % 4096 != 0 || decide (2 ^ 57 ≤ p.btbase)), (0x38, ptrOff p.ttbase % 64 != 0), (0x40, !physOk p.ptroot || p.ptroot % 2 ^ 16 != 0),
     (0x58, ptrOff p.savebase % 4096 != 0), (0x60, p.savelen % 4096 != 0), (0x68, ptrOff p.migpool % 64 != 0), (0x70, decide (2 ≤ f 0x70 8)),
     (0x80, !frameRange (Machine.nth (0, 0) p.ranges 0)), (0x90, !frameRange (Machine.nth (0, 0) p.ranges 1)), (0xA0, !frameRange (Machine.nth (0, 0) p.ranges 2)),
     (0xB0, !frameRange (Machine.nth (0, 0) p.ranges 3)), (0xC0, ptrOff p.hctrl % 64 != 0), (0xC8, f 0xC8 56 != 0)]
  (checks.find? (·.2)).map (·.1)

/-- What the fault queue of a refused record needs is well formed (R242). -/
def State.fqFieldsOk (s : State) (part : Nat) : Bool :=
  let p := s.readCfg part
  p.btbase % 4096 == 0 && decide (p.btbase < 2 ^ 57) && physOk p.ptroot && p.ptroot % 2 ^ 16 == 0 && p.ranges.all frameRange

/-- The fault queue's control block can be read and passes R259. -/
def State.fqBlockOk (s : State) (part : Nat) : Bool :=
  match s.hubRead part none (s.pa part).fqcb 64 with
  | .ok (b, _) => (fqParse b).isSome
  | .error (.wait _ _) => true
  | .error (.fault _ _) => false

/-- Every unfinished operation of a partition is cancelled and writes nothing more (R260). -/
def State.cancelAll (s : State) (part : Nat) : State :=
  let mine := s.ops.filter fun o => o.part == part && o.phase != .done
  let s1 := mine.foldl (fun st o => (st.unhold o).complete o.core o.serial (engStatus 0x47 0) 0 true) s
  { s1 with held := s1.held.filter fun h => !(mine.any fun o => o.core == h.1 && o.serial == h.2.1) }

/-- The partition of a barrier instance. -/
def BarKey.part (s : State) : BarKey → Nat
  | .core coh _ _ => (s.co coh).part
  | .span p _ _ _ => p
  | .die p _ _ _ => p
  | .pod p _ _ _ => p

/-- A partition's entries leave every cache and table, and its pinned lines are released (R260). -/
def State.dropPart (s : State) (part : Nat) : State :=
  let known := (s.prov.writes.filter fun w => w.part == part).map (·.wid)
  let prov := { s.prov with writes := s.prov.writes.map fun (w : WriteRec) => if w.part == part then { w with wide := true } else w }
  let open_ (core line : Nat) : Bool := prov.writes.any fun w => !w.wide && lineOf w.key == line && isGlobal w.key && s.agCore w.agent == some core
  { s with prov := { prov with hist := prov.hist.filter fun h => !(h.writes.all fun w => known.contains w.wid) },
           rings := s.rings.filter fun r => r.part != part, tables := s.tables.filter fun t => t.part != part, reasm := s.reasm.filter fun r => r.part != part,
           catc := s.catc.filter fun c => c.2.1 != part, tlb1 := s.tlb1.filter fun t => t.2.part != part, tlb2 := s.tlb2.filter fun t => t.2.part != part, bigPages := s.bigPages.filter fun l => l.part != part,
           bufc := s.bufc.filter fun b => b.2.1 != part, bars := s.bars.filter fun b => b.key.part s != part,
           fabric := { s.fabric with reports := s.fabric.reports.filter (fun r => r.part != part), podDue := s.fabric.podDue.filter (fun d => d.part != part),
                                      left := s.fabric.left.filter fun x => x.1 != part },
           pins := s.pins.filter fun p => open_ p.1 p.2, icache := s.icache.filter fun w => w.part != part }

/-- Steps 1 to 3 of R260; the emptying of the host queue and what follows are the Curator's next jobs. -/
def State.resetStop (s : State) (part : Nat) : State :=
  let s0 := { s.setStatus part 0 false with
    launches := s.launches.map fun (l : Launch) => if l.part == part && l.open_ then { l with aborting := true, flushed := [] } else l }
  let cohs := (List.range s0.cohorts.length).filter fun i => (s0.co i).part == part && (s0.co i).place != .gone
  let s1 := ((cohs.foldl State.stopCohort s0).cancelAll part)
  let seqs := (s1.launches.filter fun l => l.part == part && l.open_).map (·.seq)
  let s2 := seqs.foldl (fun st q => st.endLaunch part q 3) s1
  let s3 := s2.setPa part { s2.pa part with devq := [] }
  if (s3.pa part).present then s3.hubDo (.skip part) else s3

/-- Step 5 of R260: the record is read again; CFGERR alone reports a refused one (R242). -/
def State.resetRead (s : State) (part : Nat) : State :=
  let valid := bitOf (s.win (cfgOff part) 1) 0
  let p := s.readCfg part
  let sound := valid && (s.cfgError part).isNone
  let s1 := s.setPa part { p with present := sound, resets := p.resets + 1 }
  let s2 := s1.setStatus part 1 (valid && !sound)
  if !sound then s2.setStatus part 2 false
  else match s2.hubRead part none p.fqcb 64 with
  | .ok (b, s3) => if (fqParse b).isSome then s3.setStatus part 2 false else s2.fqStop part
  | .error (.wait _ _) => s2.setStatus part 2 false
  | .error (.fault _ _) => s2.fqStop part

/-- The host control block of the record just read, when the record is well formed enough to use it (R242, R260). -/
def State.newHctrl (s : State) (part : Nat) : DWord :=
  let p := s.pa part
  if !bitOf (s.win (cfgOff part) 1) 0 || !s.fqFieldsOk part || ptrOff p.hctrl % 64 != 0 then 0 else p.hctrl

/-- Step 6 of R260: RESET_DONE, CTRL.RESET, the host control block whose REQ asked, the fault queue. -/
def State.resetTell (s : State) (part : Nat) (hctrl : DWord) : State :=
  let valid := bitOf (s.win (cfgOff part) 1) 0
  let s1 := (s.setStatus part 0 true).setWin (cfgOff part + 0x70) 8 (s.win (cfgOff part + 0x70) 8 / 2 * 2)
  let block := if hctrl = 0 then s1.newHctrl part else hctrl
  let s2 := if block = 0 then s1 else s1.hubDo (.tell part block)
  match s2.cfgError part with
  | none => if valid then s2.fqEnter part 4 0 0 0 0 0 0 else s2
  | some off => if valid && s2.fqFieldsOk part && s2.fqBlockOk part then (s2.fqEnter part 6 0 0 0 0 0 (BitVec.ofNat 64 off)).fqEnter part 4 0 0 0 0 0 0 else s2

/-- Steps 4 to 6 of R260, once the host queue has been emptied; `hctrl` is the one that was in force (R261). -/
def State.resetRest (s : State) (part : Nat) (hctrl : DWord) : State :=
  { ((s.dropPart part).resetRead part).resetTell part hctrl with due := true }

/-- Partition reset (R260), which the Curator performs once boot has started it (R278); a request during a reset is part of that reset. -/
def State.resetPart (s : State) (part : Nat) : State :=
  if 16 ≤ part || !s.svc.booted || s.resetting part then s
  else (s.resetStop part).hubDo (.reset part (if (s.pa part).present then (s.pa part).hctrl else 0))

/-- CTRL_RESET (R260): a management write of CTRL.RESET = 1 resets one partition. -/
def execCtrlReset (part : Nat) (s : State) : Host.Outcome State Fault Refusal :=
  .next (if part < 16 then (s.setWin (cfgOff part + 0x70) 8 (s.win (cfgOff part + 0x70) 8 / 2 * 2 + 1)).resetPart part else s)

/-- HOST_RESET_REQUEST (R261): REQ.RESET in a sound host control block resets the partition. -/
def execHostResetRequest (part : Nat) (s : State) : Host.Outcome State Fault Refusal :=
  let p := s.pa part
  .next (if !p.present || p.hctrl = 0 || s.resetting part then s
    else match s.hubRead part none p.hctrl 64 with
    | .error (.wait w r) => s.hubAsk part w r
    | .error (.fault _ _) => s.dropAnswers (.hub part)
    | .ok (b, s1) =>
      if field b 0 8 = 1 ∧ field b 0x10 48 = 0 then s1.resetPart part
      else s1)

end Sys2Proof.Machine
end

