-- ==== Sys2Proof/Machine/System.lean ====
section
/-! DEFINITION. The time base, special registers, invalidation, host notification, and the pairwise exchange PXCH (R61, R62, R188, R240, R273, R301,
R315, R331, R385, R386, R408, R409, R421). -/

namespace Sys2Proof.Machine

/-- GTBR (R331). -/
def execGtbr (o : Canon) (s : State) : Host.Outcome State Fault Refusal := run 0xD5 o s fun s => .ok (.fall, s.put64 o.d s.svc.time)

/-- CSRR (R315). -/
def execCsrr (o : Canon) (s : State) : Host.Outcome State Fault Refusal := run 0xE0 o s fun s =>
  let v := s.special 2 o.a.toNat
  .ok (.fall, if isSpec64 o.a.toNat then s.put64 o.d v else s.put32 o.d (lo32 v))

/-- Write a special register that R61 marks RW; reserved bits take no write (R62). -/
def State.putSpecial (s : State) (sel : Nat) (v : Word) : State :=
  let t := s.cth
  let c := s.cco
  match sel with
  | 0x91 => s.setCth { t with fstat := v.setWidth 5 }
  | 0x92 => s.setCth { t with rmode := v.setWidth 2 }
  | 0x93 => s.setCco { c with ftol := c.ftol.write c.unext [t.tid] v, unext := c.unext + 1 }
  | 0x97 => s.setCco { c with drain := c.drain.write c.unext [t.tid] v, unext := c.unext + 1 }
  | 0x98 => s.setCco { c with divcnt := c.divcnt.write c.unext [t.tid] v, unext := c.unext + 1 }
  | _ => s

/-- CSRW (R315). -/
def execCsrw (o : Canon) (s : State) : Host.Outcome State Fault Refusal := run 0xE1 o s fun s =>
  let old := lo32 (s.special 1 o.d.toNat)
  let v := s.b32 o
  let new := match bitsOf o.mod.toNat 1 0 with | 0 => v | 1 => old ||| v | _ => old &&& ~~~v
  .ok (.fall, s.putSpecial o.d.toNat new)

/-- A release at .pkg by the thread that executes, whose writes have reached their homes; it waits while one is refused there (R188, R210). -/
def State.releaseHome (s : State) : Except Trap State :=
  let (known, s1) := s.releaseBy s.me scPkg
  let s2 := s1.arrive known
  if s2.homeRefused known then .error (.wait .retry .none) else .ok s2

/-- Every access of the partition that an invalidated translation or entry may have served reaches its home, or is refused there (R188). -/
def State.settleUsed (s : State) (part : Nat) (p : Nat → Nat → Bool) : State :=
  let s1 := s.arrive ((s.prov.writes.filter fun w => w.part == part && isGlobal w.key && p (w.va - w.offs.headD 0) (w.offs.foldl max 0 + 1)
    && !(w.keys.any fun k => s.refused w.agent { key := k, va := 0, mside := false, enc := false })).map (·.wid))
  ((s1.prov.reds.filter fun r => r.part == part && p r.va 8).foldl (fun st r => if st.redWaits r then st else st.redNow r) s1)

/-- Two ranges of addresses overlap. -/
def overlaps (a n b m : Nat) : Bool := decide (a < b + m) && decide (b < a + n)

/-- Leaves of a partition that a test selects leave every TLB (R188). -/
def State.dropLeaves (s : State) (part : Nat) (p : Leaf → Bool) : State :=
  let gone (x : Nat × Leaf) : Bool := x.2.part == part && p x.2
  { s with tlb1 := s.tlb1.filter fun x => !gone x, tlb2 := s.tlb2.filter fun x => !gone x }

/-- The pages of a partition that TLBINV covers: those that overlap the range, of 64 KiB or larger ones that have been used (R188, R421). -/
def State.coveredPages (s : State) (part va len : Nat) : List (Nat × Nat) :=
  let first := va / 2 ^ 16 * 2 ^ 16
  (first, ceilDiv (va + len - first) (2 ^ 16) * 2 ^ 16) ::
    (s.bigPages.filter fun l => l.part == part && overlaps l.va l.size va len).map fun l => (l.va, l.size)

/-- Leaves of a partition that a test selects are invalidated: they leave every TLB, and no access that used one is left (R188). -/
def State.invalidate (s : State) (part : Nat) (p : Leaf → Bool) : State :=
  { s.dropLeaves part p with bigPages := s.bigPages.filter fun l => !(l.part == part && p l) }

/-- TLBINV (R188, R421). -/
def execTlbinv (o : Canon) (s : State) : Host.Outcome State Fault Refusal := run 0xE2 o s fun s => do
  let va := (s.a64 o).toNat % 2 ^ 57
  let len := (s.b64 o).toNat
  let part := s.cco.part
  let s0 ← s.releaseHome
  if o.mod.getLsbD 0 then .ok (.fall, (s0.settleUsed part fun _ _ => true).invalidate part fun _ => true)
  else if len = 0 then .ok (.fall, s0)
  else
    let pages := s0.coveredPages part va len
    .ok (.fall, (s0.settleUsed part fun a n => pages.any fun q => overlaps a n q.1 q.2).invalidate part fun l => overlaps l.va l.size va len)

/-- A request to another device that an invalidated buffer-table entry let out waits for its answer (R188). -/
def State.entryInUse (s : State) (part : Nat) (p : Nat → Bool) : Option RemoteReq :=
  s.fabric.reqs.find? fun r => r.answer.isNone && s.agPart r.agent == some part && p (ptrBuf (BitVec.ofNat 64 r.off))

/-- BTINV (R188, R301). -/
def execBtinv (o : Canon) (s : State) : Host.Outcome State Fault Refusal := run 0xE3 o s fun s =>
  let first := (s.a32 o).toNat % 2 ^ 16
  let n := (s.b32 o).toNat
  let all := o.mod.getLsbD 0
  let part := s.cco.part
  let covered (i : Nat) : Bool := all || (decide (first ≤ i) && decide (i < first + n))
  match s.entryInUse part covered with
  | some r => .error (.wait (.remote r.id) .none)
  | none => do
    let s0 ← s.releaseHome
    let s1 := s0.settleUsed part fun _ _ => all || decide (0 < n)
    .ok (.fall, { s1 with bufc := s1.bufc.filter fun b => !(b.2.1 == part && covered b.2.2.1) })

/-- SYSC (R408, R409). -/
def execSysc (o : Canon) (s : State) : Host.Outcome State Fault Refusal := run 0xE4 o s fun s =>
  let part := s.cco.part
  if bitsOf o.mod.toNat 3 0 = 1 then
    let p := s.pa part
    .ok (.fall, s.put32 o.d (BitVec.ofNat 32 (p.cores % 2 ^ 16 + if p.interactive then 2 ^ 16 else 0)))
  else
    let v := s.b64 o
    let (known, s1) := s.releaseBy s.me scSys
    .ok (.fall, s1.notify part (toLE 1 2 ++ toLE 1 part ++ toLE 6 0 ++ toLE 8 v.toNat ++ toLE 8 s1.svc.time.toNat ++ toLE 40 0) known)

/-- The pages of a region translate for reads and writes, in ascending order (R179, R273). -/
def State.regionOk (s : State) (c : Ctx) (e : BufEntry) (idx va0 off0 : Nat) : Nat → Nat → Nat → Except Trap State
  | 0, _, _ => .ok s
  | fuel + 1, va, last =>
    if last < va then .ok s
    else
      match s.byteAt c 0 e.kind (some e.domain) va (off0 + (va - va0)) false with
      | .error t => .error (t.inBuf idx)
      | .ok (_, s1) =>
        match s1.translate c va with
        | .ok (l, s2) => if l.res then s2.regionOk c e idx va0 off0 fuel (va + 64) last else s2.regionOk c e idx va0 off0 fuel (l.va + l.size) last
        | .error _ => .ok s1

/-- The region of a PXCH passes the port, and its buffer is local or memory-side (R273, R386). -/
def State.pxchRegion (s : State) (c : Ctx) (ptr : DWord) (ll : Nat) : Except Trap State := do
  let n := 2 ^ ll
  let (_, s1) ← s.portEntry c .read ptr n
  let (e, s2) ← s1.portEntry c .write ptr n
  if e.kind ≠ 0 ∧ e.kind ≠ 4 then .error (.fault 0x08 (bufDetail (ptrBuf ptr) 0))
  else s2.regionOk c e (ptrBuf ptr) (e.base + ptrOff ptr) (ptrOff ptr) (n / 2 ^ 16 + n / 64 + 2) (e.base + ptrOff ptr) (e.base + ptrOff ptr + n - 1)

/-- A PXCH begins: a region that fails ends it before it pairs (R273). -/
def State.pxchBegin (s : State) (o : Op) : State :=
  match o.body with
  | .pxch ptr ll _ _ _ =>
    match s.pxchRegion o.ctx ptr ll with
    | .error (.fault k d) => s.complete o.core o.serial (faultStatus k d) d
    | .error (.wait w r) => s.opWaits o w r
    | .ok s1 => s1
  | _ => s

/-- PXCH (R273, R385, R386). -/
def execPxch (o : Canon) (s : State) : Host.Outcome State Fault Refusal := run 0xD6 o s fun s =>
  let ptr := s.a64 o
  let v := (s.b32 o).toNat
  let ll := bitsOf v 5 0
  let nb := bitsOf v 10 6
  let hb := bitsOf v 16 11
  let tag := bitsOf v 31 17
  if ptrOff ptr % 256 ≠ 0 then .error (alignFault ptr)
  else if ll < 9 ∨ 48 < ll ∨ 21 < nb ∨ ll ≤ hb then .error (.fault 0x07 (bufDetail (ptrBuf ptr) 0))
  else if 16 ≤ (s.ops.filter fun x => x.core == s.cco.core && x.kind == 6 && x.phase != .done).length then .error (.wait .pxch .none)
  else
    let at_ := o.mod.getLsbD 0
    let (h, s1) := s.fork 6 false (if at_ then .held else .running) (if at_ then s.c64 o else s.svc.time) (.pxch ptr ll nb hb tag)
    let s2 := s1.putFuture o.d h
    .ok (.fall, if at_ then s2 else match s2.findOp (hCore h) (hSerial h) with | some x => s2.pxchBegin x | none => s2)

/-- 10 ms after the start (R273). -/
def pxchLimit (o : Op) : Nat := o.start.toNat + 10 ^ 7

/-- The offsets of the half that this device sends and receives: those whose bit HB is not its node bit (R273). -/
def State.pxchHalf (s : State) (ll nb hb : Nat) : List Int :=
  ((List.range (2 ^ ll)).filter fun x => bitOf x hb != bitOf s.node nb).map fun (x : Nat) => (x : Int)

/-- The two pair (R273). -/
def State.pairs (s : State) (o : Op) (ll nb hb tag : Nat) (p : PxchSide) : Bool :=
  p.node == Nat.xor s.node (2 ^ nb) && p.part == o.part && p.tag == tag && p.ll == ll && p.nb == nb && p.hb == hb

/-- The exchange of a pair: this device's half is read and sent, the partner's bytes are written over it; `half` lists the partner's bytes by the
offset they had there, 0 where it lists none. A transfer that fails leaves each piece old or new (R273); a port that carries none now refuses with retry (R281). -/
def State.pxchRun (s : State) (o : Op) (ptr : DWord) (ll nb hb tag : Nat) (ok : Bool) (half : List (Nat × BitVec 8)) : Ran :=
  match s.pxchRegion o.ctx ptr ll with
  | .error (.fault k d) => .done (faultStatus k d) d s
  | .error (.wait w r) => .wait w r s
  | .ok s0 =>
    let a : Agent := .op o.core o.serial
    let offs := s0.pxchHalf ll nb hb
    let (ps, s1) := s0.spots (fun st d => st.spot o.ctx .read (ea ptr d)) offs
    match s1.sideStop a 0 (awayPieces (ps.map fun p => (p, none))) with
    | .error (.wait w r) => .wait w r s1
    | .error (.fault k d) => .done (faultStatus k d) d s1
    | .ok () =>
      let (bs, s2) := s1.readSpots a o.part ps
      let sent := (offs.zip bs).filterMap fun x => x.2.map fun b => (x.1.toNat, b)
      let node := Nat.xor s2.node (2 ^ nb)
      let out := s2.sendMsg node s2.node tag sent.length fun port => .half port s2.node node o.part tag ll nb hb sent
      if out.isNone && s2.hasRoute node then .wait .retry .none s1
      else
      let done := ok && out.isSome
      let got (x : Int) : Byte := ((half.find? fun h => h.1 == Nat.xor x.toNat (2 ^ hb)).map (·.2)).getD 0
      let cells := (ps.zip offs).filterMap fun x => match x.1 with | .loc l => some (x.2.toNat, some (got x.2, l, none)) | _ => none
      let s4 := (out.getD s2).writePieces a o.part (!done) cells
      let lost := pageDetail (ptrOff ptr + ((offs.head?).map (·.toNat)).getD 0) 6 1 0 false
      if done then .done (engStatus 0 0) 0 s4 else .done (faultStatus 0x0A lost) lost s4

/-- PXCH_PAIRED for an operation (R273): from its start until 10 ms later, with the PXCH that pairs with it; what the partner's device knows becomes visible. -/
def State.finishPxch (s : State) (o : Op) (p : PxchSide) (half : List (Nat × BitVec 8)) : State :=
  match o.phase, o.body with
  | .running, .pxch ptr ll nb hb tag =>
    if s.svc.time.toNat < o.start.toNat ∨ pxchLimit o ≤ s.svc.time.toNat ∨ s.pairs o ll nb hb tag p = false then s
    else ((s.see (.op o.core o.serial) (s.madeHere p.known)).pxchRun o ptr ll nb hb tag p.ok half).finish o
  | _, _ => s

/-- PXCH_PAIRED (R273); a half for another node is relayed, when a port takes it (R22, R268). -/
def execPxchPaired (core : Nat) (serial : BitVec 20) (p : PxchSide) (half : List (Nat × BitVec 8)) (s : State) : Host.Outcome State Fault Refusal :=
  if p.dest ≠ s.node then
    .next (s.sendOut ⟨p.dest, p.node, p.tag, half.length, .half 0 p.node p.dest p.part p.tag p.ll p.nb p.hb half⟩)
  else s.onOp core serial fun s o => s.finishPxch o p half

/-- PXCH_TIMEOUT (R273): not paired by its start plus 10 ms. -/
def execPxchTimeout (core : Nat) (serial : BitVec 20) (s : State) : Host.Outcome State Fault Refusal :=
  s.onOp core serial fun s o => match o.phase, o.body with
    | .running, .pxch _ _ _ _ _ => if s.svc.time.toNat < pxchLimit o then s else s.complete o.core o.serial (engStatus 0x46 0) 0
    | _, _ => s

/-- AT_TIME_REACHED (R241): an operation held by .at starts. -/
def State.startHeld (s : State) (o : Op) : State :=
  if o.phase ≠ .held ∨ s.svc.time.toNat < o.start.toNat then s
  else match o.body with
  | .launch bytes _ _ => s.enterDev o bytes
  | .pxch _ _ _ _ _ => (s.updOp o.core o.serial fun x => { x with phase := .running }).pxchBegin { o with phase := .running }
  | _ => s.updOp o.core o.serial fun x => { x with phase := .running }

/-- AT_TIME_REACHED (R241). -/
def execAtTimeReached (core : Nat) (serial : BitVec 20) (s : State) : Host.Outcome State Fault Refusal := s.onOp core serial State.startHeld

/-- WAITT_EXPIRY (R241): the time base has reached a thread's time. -/
def execWaittExpiry (t : Nat) (s : State) : Host.Outcome State Fault Refusal :=
  .next (match (s.th t).run with
    | .blocked (.time w) => if w.toNat ≤ s.svc.time.toNat then s.setTh t { s.th t with run := .ready, listed := .no } else s
    | _ => s)

end Sys2Proof.Machine
end

