-- ==== Sys2Proof/Machine/Close.lean ====
section
/-! DEFINITION. The end of a step: the Curator's waiting work, REDs that fail, placement, the issue group, listing, one cycle (R22, R30, R246, R259, R260, R391). -/

namespace Sys2Proof.Machine

/-- A job of the Curator's line and those that follow from it: done, or left in the line; what a job waits for is asked for, and a job whose request fails ends as its access
would (R22, R51, R189, R190, R245). -/
def State.hubTurn (s : State) (j : HubJob) : State × List HubJob :=
  match j with
  | .reset part hctrl => (s.resetRest part hctrl, [])
  | .child _ core serial status => (s.complete core serial status 0, [])
  | _ => match State.hubRun 8 s [j] with
    | (s1, []) => (s1, [])
    | (s1, x :: js) => match s1.hubJob x with
      | .ok (s2, more) => (s2, more ++ js)
      | .error (w, q) => match s1.request (.hub x.part) w q with
        | (.ok _, s2) => (s2, x :: js)
        | (.error _, s2) => let (s3, more) := s2.hubFail x; (s3, more ++ js)

/-- The Curator's waiting work is tried again, in order within each partition (R22). -/
def State.hubDrain (s : State) : State :=
  let r := s.hubq.foldl (fun (r : State × List HubJob) j =>
    if r.2.any fun x => x.part == j.part then (r.1, r.2 ++ [j])
    else let (s1, js) := r.1.hubTurn j; (s1, r.2 ++ js)) ({ s with hubq := [] }, [])
  { r.1 with hubq := r.2 ++ r.1.hubq }

/-- Index entries that ended encodes owe their homes on other devices are freed there, as requests can be sent (R146, R270). -/
def State.holdSend (s : State) : State :=
  let r := s.fabric.letGo.foldl (fun (r : State × List HoldDue) d =>
    if !r.1.hasRoute d.node then r
    else match r.1.postRemote (.op d.core d.serial) d.node d.part d.va d.off 7 0 0 [] with
    | some (_, s1) => (s1, r.2)
    | none => (r.1, r.2 ++ [d])) (s, [])
  { r.1 with fabric := { r.1.fabric with letGo := r.2 } }

/-- A thread's RED to another device waits for an earlier one of its thread: to the same bytes, or any, on this device too, when it is a release (R205, R390). -/
def State.farRedHeld (s : State) (r : FarRed) : Bool :=
  (s.fabric.reds.any fun x => x.thread == r.thread && decide (x.id < r.id) && (r.release.isSome || (x.node == r.node && x.part == r.part && x.va / 8 == r.va / 8)))
    || (r.release.isSome && s.prov.reds.any fun x => x.thread == r.thread && decide (x.id < r.id))

/-- A RED to another device leaves when it can; one that no port leads to fails (R268, R390, R391). -/
def State.farRedSend (s : State) (r : FarRed) : State :=
  if r.req.isSome || s.farRedHeld r then s
  else if !s.hasRoute r.node then
    ({ s with fabric := { s.fabric with reds := s.fabric.reds.filter fun x => x.id != r.id } } : State).redFailure (s.th r.thread).coh 0x0A (remoteLost r.off 3)
  else match s.postRemote (.thread r.thread) r.node r.part r.va r.off 3 r.len r.mod r.data (r.release.map (·.known)) with
    | some (id, s1) => { s1 with fabric := { s1.fabric with reds := updFirst (fun x => x.id == r.id) (fun x => { x with req := some id }) s1.fabric.reds } }
    | none => s

/-- The placement that an event of this step calls for (R246). -/
def State.placeDue (s : State) : State := if s.due then { s.curate with due := false } else s

/-- End of a step: the Curator's waiting work, messages, freed index entries and REDs that wait for a port, REDs that fail, placement, the group's end, listing, one cycle. -/
def State.closeStep (s : State) : State :=
  let s1 := { s with cur := none }
  let s2 := if s1.hubq.isEmpty then s1 else s1.hubDrain
  let s2 := if s2.fabric.podDue.isEmpty then s2 else s2.podSend
  let s2 := if s2.fabric.letGo.isEmpty then s2 else s2.holdSend
  let s2 := s2.fabric.reds.foldl State.farRedSend (if s2.fabric.outDue.isEmpty then s2 else s2.sendDue)
  let s3 := if s2.prov.reds.isEmpty then s2 else s2.failReds
  let s4 := (s3.placeDue.endGroup).relist
  { s4 with cur := none, svc := s4.svc.tick, prov := { s4.prov with picks := s4.prov.picks + 64 } }

end Sys2Proof.Machine
end

