-- ==== Sys2Proof/Machine/Homes.lean ====
section
/-! DEFINITION. Events of fetch, Registrar, migration, homes, the fabric and the companion processor (R22, R30, R93, R189, R209, R263, R267-R270, R391). -/

namespace Sys2Proof.Machine

/-- Boot has not run, or has halted: only the management window answers (R278). -/
def State.halted (s : State) : Bool := !s.svc.booted

/-- INSTRUCTION_FILL (R93): the word at which a thread of the cohort stands is filled into the core's cache. -/
def execInstructionFill (coh : Nat) (pc : BitVec 64) (s : State) : Host.Outcome State Fault Refusal :=
  let c := s.co coh
  .next (if c.place != .resident || !((s.thsOf coh).any fun t => (s.th t).pc == pc && (s.th t).run != .exited) || (s.cached c.core c.part pc).isSome then s
    else match s.fill { agent := .core c.core, part := c.part, core := some c.core, quad := quadOf c.core, seq := some c.seq } c.core
        (s.fetchKnown c.part c.seq) pc with
    | .word _ _ s1 => s1
    | .wait _ _ => s)

/-- REGISTRAR_MERGE (R30). -/
def execRegistrarMerge (core : Nat) (s : State) : Host.Outcome State Fault Refusal :=
  .next { s with registrar := (s.registrar.filter fun e => e.core != core) ++ mergeEntries (s.registrar.filter fun e => e.core == core) }

/-- The key lies in a run of bytes. -/
def inRun (base size k : Nat) : Bool := decide (base ≤ k) && decide (k < base + size)

/-- A key inside a page that moves. -/
def moveKey (src dst size k : Nat) : Nat := if inRun src size k then k - src + dst else k

/-- Locations take other keys; the bytes themselves are placed by `mem`. -/
def State.rekey (s : State) (f : Nat → Nat) (mem : Memory) : State :=
  let p := s.prov
  { s with mem := mem, poison := s.poison.map f, pins := s.pins.map fun x => (x.1, f (x.2 * 256) / 256),
           held := s.held.map fun h => (h.1, h.2.1, f h.2.2),
           prov := { p with hist := p.hist.map fun h => { h with key := f h.key }, writes := p.writes.map fun w => { w with key := f w.key },
                            reds := p.reds.map fun r => { r with key := f r.key },
                            guesses := p.guesses.map fun g => { g with bytes := g.bytes.map (fun b => (f b.1, b.2)), reads := g.reads.map fun r => (f r.1, r.2) } } }

/-- What a run of bytes held is replaced: nothing is known of it any more. -/
def State.clearRun (s : State) (base size : Nat) : State :=
  { s with mem := s.mem.filter fun c => !inRun base size c.1, poison := s.poison.filter fun k => !inRun base size k,
           pins := s.pins.filter fun x => !inRun base size (x.2 * 256), prov := { s.prov with hist := s.prov.hist.filter fun h => !inRun base size h.key } }

/-- The page's bytes are copied to its new frame, where its locations and the order of their writes go on (R189): no location of the provenance model is written. The
copy holds what the leaf shows of lines under another key (R281). -/
def State.movePage (s : State) (m : Migration) : State :=
  let src := capKey m.leaf.frame
  let dst := hbmKey m.frame
  let mv := moveKey src dst m.leaf.size
  let s1 := s.clearRun dst m.leaf.size
  let loc (k : Nat) : Loc := { key := k, va := 0, mside := false, enc := m.leaf.enc }
  let lines := if m.leaf.enc || !s.svc.enc.isEmpty then (List.range (m.leaf.size / 64)).filter fun i => s.veiled m.leaf.part (loc (src + 64 * i)) else []
  let s2 := s1.rekey mv ((s1.mem.filter fun c => inRun src m.leaf.size c.1).foldl (fun mem c => Memory.set mem (mv c.1) c.2) s1.mem)
  lines.foldl (fun st i => (List.range 64).foldl (fun st j => st.reveil (dst + 64 * i + j) (s.veil m.leaf.part (loc (src + 64 * i + j)))) st) s2

/-- A leaf entry after migration: RES and ENC clear, FRAME the new frame (R186, R189). -/
def movedPte (e frame : Nat) : Nat :=
  let clear (x i : Nat) : Nat := if bitOf x i then x - 2 ^ i else x
  let e1 := clear (clear e 4) 8
  e1 % 2 ^ 16 + frame / 2 ^ 16 * 2 ^ 16 + e1 / 2 ^ 56 * 2 ^ 56

/-- Threads parked on a migration. -/
def State.parkedOn (s : State) (m : Nat) : List Nat :=
  (List.range s.threads.length).filter fun t => match (s.th t).run with | .blocked (.page x _) => x == m | _ => false

/-- The page arrives in its frame: the leaf is rewritten, TLBs drop the page, parked threads replay (R189). -/
def State.pageArrives (s : State) (m : Migration) : State :=
  let s1 := s.movePage m
  let n := if m.leaf.size = 2 ^ 16 then 1 else m.leaf.size / 2 ^ 16
  let rel (st : State) : Release := { agent := .hub m.leaf.part, part := m.leaf.part, scope := scSys, known := st.prov.hub }
  let s2 := (List.range n).foldl (fun (st : State) (i : Nat) =>
    let key := m.pte + 8 * i
    st.storePiece (.hub m.leaf.part) m.leaf.part 0 false ((List.range 8).map (key + ·)) (toLE 8 (movedPte (st.pteAt key) m.frame)) true [rel st] []) s1
  let s3 := s2.dropLeaves m.leaf.part fun l => decide (l.va < m.leaf.va + m.leaf.size) && decide (m.leaf.va < l.va + l.size)
  let s3 := { s3 with failedMoves := s3.failedMoves.filter fun x => x.2 != (m.leaf.part, m.leaf.va) }
  (s3.parkedOn m.id).foldl (fun st t => st.ready t) s3

/-- The page-table entries of a page that arrives are refused at their home now: the hub writes them again later (R22, R210). -/
def State.leafHeld (s : State) (m : Migration) : Bool :=
  (List.range (if m.leaf.size = 2 ^ 16 then 1 else m.leaf.size / 2 ^ 16)).any fun i => s.walkHeld (.hub m.leaf.part) (m.pte + 8 * i)

/-- A thread parked on a page whose transfer failed takes PAGE with cause 5 (R189). -/
def State.failPage (s : State) (t : Nat) : State :=
  match (s.th t).run with
  | .blocked (.page _ d) => s.takeFault t 0x0A (withCause d 5)
  | _ => s

/-- A page's transfer has failed: parked threads take PAGE, and every other agent that waits for it hears of it when it asks again (R189). -/
def State.pageFails (s : State) (m : Migration) : State :=
  let s1 := (s.parkedOn m.id).foldl State.failPage s
  { s1 with failedMoves := m.askers.map (fun a => (a, m.leaf.part, m.leaf.va)) ++ s1.failedMoves.filter fun x => !(m.askers.contains x.1 && x.2 == (m.leaf.part, m.leaf.va)) }

/-- MIGRATION_COMPLETE (R189): the copy has ended, or a transfer error ended it.
DESIGN CHOICE (log 80): an engine operation, the Curator or another agent that waits for a page whose transfer fails, of which R189 says nothing, meets PAGE with cause 5
as a thread does; a launch record, parameter block or completion record is then rejected with ACCESS (R27). -/
def execMigrationComplete (m : Nat) (ok : Bool) (s : State) : Host.Outcome State Fault Refusal :=
  .next (match s.migrations.find? fun x => x.id == m with
    | none => s
    | some x =>
      let s0 := { s with migrations := s.migrations.filter fun y => y.id != m }
      if !ok || s.poison.any fun k => inRun (capKey x.leaf.frame) x.leaf.size k then s0.pageFails x
      else if s.leafHeld x then s
      else s0.pageArrives x)

/-- REQUEST_RETRY (R22): a refused thread sends its request again. -/
def execRequestRetry (t : Nat) (s : State) : Host.Outcome State Fault Refusal :=
  .next (if (s.th t).run == .blocked .retry then s.ready t else s)

/-- WRITE_REACHES_HOME (R209): a plain write, with the writes of its bytes that are ordered before it; a refused line takes none (R210). -/
def execWriteReachesHome (w : Nat) (s : State) : Host.Outcome State Fault Refusal :=
  .next (match s.writeRec w with
    | none => s
    | some r =>
      if !isGlobal r.key || r.keys.any fun k => s.refused r.agent { key := k, va := 0, mside := false, enc := false } then s
      else s.arrive (r.keys.foldl (fun l k => union l (((s.histAt k).writes.filter fun x => x.wid == w).flatMap (·.before))) [w]))

/-- RED_AT_HOME (R391): after the earlier REDs of its thread to the same bytes; none executes while its home refuses it, or what must be there before it (R208, R210). -/
def execRedAtHome (r : Nat) (s : State) : Host.Outcome State Fault Refusal :=
  .next (match s.prov.reds.find? fun x => x.id == r with
    | none => s
    | some x =>
      let es := s.prov.reds.filter fun y => y.thread == x.thread && decide (y.id ≤ r) && decide (y.key < x.key + 8) && decide (x.key < y.key + 8)
      if es.any s.redWaits then s else es.foldl State.redNow s)

/-- Emit a message. -/
def State.emit (s : State) (m : Out) : State := { s with fabric := { s.fabric with out := s.fabric.out ++ [m] } }

/-- The access that a request's kind makes. -/
def kindAcc (kind : Nat) : Acc := match kind with | 0 | 5 | 6 => .read | 1 | 7 | 8 => .write | 4 => .fetch | _ => .atomic

/-- A write for an agent elsewhere at its home, in aligned pieces of up to `piece` bytes; what it makes known when it is a release (R200, R205). -/
def State.farStore (s : State) (c : Ctx) (ls : List Loc) (data : List Byte) (rel : Option Release) (piece : Nat := 8) : State :=
  let s0 := s.encWrite c.part ls
  let bs := s0.unmask c.part ls (slice data 0 ls.length)
  ((pieces piece ls.length (keysOf ls)).foldl (fun (r : State × Nat) p =>
    (r.1.storePiece c.agent c.part (vaOf ls + r.2) (sideOf ls) p (slice bs r.2 p.length) true rel.toList [], r.2 + p.length)) (s0, 0)).1

/-- The partition in whose scope instances an access lies: that of its agent, whatever partition the access names (R269). -/
def State.ownPart (s : State) (c : Ctx) : Nat := (s.agPart c.agent).getD c.part

/-- A request that is an acquire learns from the releases that it read (R205). -/
def State.farLearn (s : State) (c : Ctx) (mod : BitVec 18) (ws : List Nat) : State :=
  if mod.getLsbD 6 then s.see c.agent (s.learn c.agent (s.ownPart c) (modScope mod) ws) else s

/-- The most recent bytes at this home for an agent elsewhere, which has then observed them (R140, R146). -/
def State.farHome (s : State) (c : Ctx) (ls : List Loc) : List Byte × State :=
  let ws := ls.foldl (fun l x => union l ((((s.histAt x.key).writes.filter (·.home)).map (·.wid)).take 1)) []
  (s.unmask c.part ls (ls.map fun x => (s.histAt x.key).homeNewest), s.note c.agent ws)

/-- An encode of another device takes the index entry at this home and reads it, or finds it held (R146). -/
def State.farHold (s : State) (c : Ctx) (node who : Nat) (ls : List Loc) : List Byte × State :=
  if s.entryHeld ls then ([1], s)
  else
    let (b, s1) := s.farHome c ls
    (0 :: b, { s1 with held := (192 + node, who, (keysOf ls).headD 0) :: s1.held })

/-- An encode of another device frees its index entry here (R146). -/
def State.farLetGo (s : State) (node who key : Nat) : State :=
  { s with held := s.held.filter fun h => !(h.1 == 192 + node && h.2.1 == who && h.2.2 == key) }

/-- The places that a request names: those of its mask of bits [3:0], or all (R198, R313). -/
def named {α : Type} (mod : BitVec 18) (xs : List α) : List α :=
  if mod.toNat % 16 = 0 then xs else (xs.zip (List.range xs.length)).filterMap fun x => if bitOf mod.toNat x.2 then some x.1 else none

/-- Bytes at the places that a request names, 0 elsewhere. -/
def spread (mod : BitVec 18) (n : Nat) (bs : List Byte) : List Byte :=
  if mod.toNat % 16 = 0 then bs
  else (List.range n).map fun i => if bitOf mod.toNat i then nth 0 bs (((List.range i).filter (bitOf mod.toNat)).length) else 0

/-- The effect of a remote request at this home: the result, in the state after it (R146, R179, R198, R208, R270). -/
def State.homeEffect (s : State) (c : Ctx) (node who : Nat) (ls : List Loc) (kind n : Nat) (mod : BitVec 18) (data : List Byte) : List Byte × State :=
  let ks := keysOf ls
  let rel := s.modRelease c.agent (s.ownPart c) mod
  let piece := if mod.getLsbD 16 then 16 else 8
  match kind with
  | 0 =>
    if mod.getLsbD 15 then s.farHome c ls
    else
      let on := named mod ls
      let s0 := if mod.getLsbD 6 then s.promise c.agent (s.ownPart c) (modScope mod) ks else s
      let (b, ws, s1) := s0.loadBytes c.agent (keysOf on) 8
      (spread mod n (s.unmask c.part on b), s1.farLearn c mod ws)
  | 4 => s.fetchUnits c (s.seenBy c.agent) ls
  | 1 => ([], s.farStore c (named mod ls) (named mod data) rel piece)
  | 6 => s.farHold c node who ls
  | 5 | 8 => ([], s)
  | 7 => ([], (if data.isEmpty then s else s.farStore c ls data rel piece).farLetGo node who (ks.headD 0))
  | _ =>
    let m := mod.toNat
    let v := field data 0 n
    let new := field data n n
    let (old, ws, s1) := s.rmw c.agent c.part ls rel fun b => (atomNew (m % 16) (bitsOf m 5 4) (leNat b) v new).map (toLE n)
    (if kind = 3 then [] else old, s1.farLearn c mod ws)

/-- A home keeps the last 1,024 sequences of each source (R270). -/
def State.remember (s : State) (src seq : Nat) (result : List Byte) : State :=
  let mine := s.fabric.replay.filter fun r => r.src == src
  { s with fabric := { s.fabric with replay := ({ src := src, seq := seq, result := result } : Replay) ::
      (mine.take 1023 ++ s.fabric.replay.filter fun r => r.src != src) } }

/-- An answer of this device: 0 done, 1 a fault with the offset of the byte that failed, 2 retry, 3 a failure on the way (R22, R268, R270). It leaves like any message, and
stays until a port takes it (R281); an answer that no entry of the table carries is lost. -/
def State.sendAnswer (s : State) (dest seq kind fault : Nat) (detail : DWord) (data : List Byte) : State :=
  if s.hasRoute dest then s.sendOut ⟨dest, s.node, seq, data.length, .answer 0 s.node dest seq kind fault detail data⟩ else s

/-- The offset, in the bytes of a request, that a failure names. -/
def failedAt (d : DWord) : DWord := BitVec.ofNat 64 (bitsOf d.toNat 47 0)

/-- A request waits at this home: an atomic while what must reach its home first is refused there, a write of an index entry while an encode holds it (R208, R210, R306). -/
def State.farWaits (s : State) (c : Ctx) (ls : List Loc) (kind : Nat) (mod : BitVec 18) : Bool :=
  (kind == 1 && mod.getLsbD 16 && s.entryHeld ls) || ((kind == 2 || kind == 3) && s.homeRefused (s.knownBy c.agent))

/-- The bytes that a request names, checked as its access needs: those of FENCER alone are only translated (R179, R207). -/
def State.farPlace (s : State) (c : Ctx) (va kind n : Nat) (mod : BitVec 18) : Except Trap (List Loc × State) :=
  if kind = 5 then
    (s.rangeOk c { BufEntry.flat c.part [] with kind := 0 } none va 0 (n + 1) va (va + n - 1)).map fun _ => ([], s)
  else match s.bytesAt c (reqAcc kind) 0 none false n va 0 with
    | .error t => .error t
    | .ok (ls, s1) => (s1.guardLocs c (kindAcc kind) 0 (if kind < 2 then named mod ls else ls)).map fun _ => (ls, s1)

/-- A request is executed again when it comes again: it changes nothing (R270). -/
def readOnly (kind : Nat) : Bool := kind == 0 || kind == 4 || kind == 5 || kind == 8

/-- A remote request at its home (R179, R270), by an agent that issues for the partition `from_` (R269); it goes through the hub's TLB and buffer cache (DESIGN CHOICE, log
87). A request to a partition that is being reset is refused (R260). -/
def State.serveRemote (s : State) (src from_ who seq part va kind n : Nat) (mod : BitVec 18) (data : List Byte) (known : List Nat) : State :=
  let c : Ctx := { agent := .node src from_ who, part := part, core := none, quad := 48, seq := none }
  match (if readOnly kind then none else s.fabric.replay.find? fun r => r.src == src && r.seq == seq) with
  | some r => s.sendAnswer src seq 0 0 0 r.result
  | none =>
    if s.resetting part then s.sendAnswer src seq 2 0 0 []
    else match s.farPlace c va kind (if kind = 7 then max n 16 else n) mod with
    | .error (.wait w r) => match s.request c.agent w r with
      | (.ok _, s1) => s1.sendAnswer src seq 2 0 0 []
      | (.error (code, d), s1) => s1.sendAnswer src seq 1 code (failedAt d) []
    | .error (.fault code d) => s.sendAnswer src seq 1 code (failedAt d) []
    | .ok (ls, s1) =>
      let s2 := s1.see c.agent (s1.madeHere known)
      if kind = 2 && bitOf mod.toNat 17 && ls.any (fun l => !l.mside) then s1.sendAnswer src seq 1 0x08 0 []
      else if s2.farWaits c ls kind mod then s1.sendAnswer src seq 2 0 0 []
      else
        let (b, s2) := s2.homeEffect c src who ls kind n mod data
        (if readOnly kind then s2 else s2.remember src seq (if kind = 2 || kind == 6 then b else [])).sendAnswer src seq 0 0 0 b

/-- REMOTE_REQUEST (R268, R270): served here, or relayed; one that cannot be relayed fails at its source, and one whose port carries none is refused (R281). -/
def execRemoteRequest (src : Sender) (dest : BitVec 22) (seq : BitVec 32) (part : Nat) (va : BitVec 64) (kind n : Nat) (mod : BitVec 18)
    (data : List (BitVec 8)) (s : State) : Host.Outcome State Fault Refusal :=
  let node := src.node.toNat
  .next (if s.halted then s
    else if dest.toNat = s.node then s.serveRemote node src.part src.who seq.toNat part va.toNat kind n mod data src.known
    else if s.routePorts dest.toNat = 0 then s.sendAnswer node seq.toNat 3 0x0A 0 []
    else (s.sendMsg dest.toNat node seq.toNat data.length fun port =>
      .forward port node src.part src.who dest.toNat seq.toNat part va.toNat kind n mod data).getD (s.sendAnswer node seq.toNat 2 0 0 []))

/-- A request to another device. -/
def State.findReq (s : State) (r : Nat) : Option RemoteReq := s.fabric.reqs.find? fun x => x.id == r

/-- Update a request. -/
def State.updReq (s : State) (r : Nat) (f : RemoteReq → RemoteReq) : State :=
  { s with fabric := { s.fabric with reqs := updFirst (fun x => x.id == r) f s.fabric.reqs } }

/-- A request is done with. -/
def State.dropReq (s : State) (r : Nat) : State := { s with fabric := { s.fabric with reqs := s.fabric.reqs.filter fun x => x.id != r } }

/-- The requester can still use the answer. -/
def State.wanted (s : State) (r : RemoteReq) : Bool :=
  match r.agent with
  | .thread t => match (s.th t).run with | .exited | .stopped => false | _ => true
  | .op c n => match s.findOp c n with | some o => o.phase != .done | none => false
  | _ => true

/-- The request still has to be made: its requester is there, or it is a RED, or it takes or frees an index entry (R146, R260, R390). -/
def State.stillDue (s : State) (r : RemoteReq) : Bool := s.wanted r || r.kind == 3 || r.kind == 6 || (r.kind == 7 && r.data.isEmpty)

/-- The answer of a request: fault code and detail, or the bytes and what an acquire learns (R179, R180, R205, R391). -/
def State.answered (s : State) (r : RemoteReq) (code : Nat) (detail : DWord) (data : List Byte) (learned : List Nat) : State :=
  let woken (st : State) : State := st.wake fun _ t => t.run == .blocked (.remote r.id)
  if r.kind = 3 then
    let s0 := s.dropReq r.id
    let s1 := { s0 with fabric := { s0.fabric with reds := s0.fabric.reds.filter fun x => x.req != some r.id } }
    let coh : Nat := match r.agent with | .thread t => (s.th t).coh | _ => s.cohorts.length
    woken (if code = 0 then s1 else s1.redFailure coh code detail)
  else
    let x : RemoteReq := { r with answer := some (if code = 0 then 0 else 1, code, detail, data), learned := learned }
    let s1 := if r.kind = 6 ∧ (code = 0x0A ∨ (x.granted && !s.wanted r)) then s.owesHold r else s
    if s.wanted r then woken (s1.updReq r.id fun _ => x) else woken (s1.dropReq r.id)

/-- The detail of a remote failure: the pointer's offset at the byte that failed (R180). -/
def remoteDetail (r : RemoteReq) (code : Nat) (detail : DWord) : DWord :=
  match code with
  | 0x0A => remoteLost (r.off + detail.toNat) r.kind
  | 0x17 | 0x08 => BitVec.ofNat 64 (r.off + detail.toNat)
  | _ => detail

/-- A request leaves again with the same sequence; `fresh` says that a refusal came before, so that the limit of 10 ms starts again. One that no port can carry fails, one that
its port refuses waits as one that its home refuses does, and one that is no longer to be made is dropped (R260, R268, R270, R281). -/
def State.resend (s : State) (r : RemoteReq) (fresh : Bool) : State :=
  let now := s.svc.time.toNat
  if !s.stillDue r then s.dropReq r.id
  else if !s.hasRoute r.node then s.answered r 0x0A (remoteLost r.off r.kind) [] []
  else match s.sendMsg r.node s.node r.seq r.data.length fun port => .request port r.node r.agent r.seq r.part r.va r.kind r.len r.mod r.data with
  | none => s.updReq r.id fun y => { y with sent := now, again := now }
  | some s1 => s1.updReq r.id fun y => { y with sent := if fresh then now else y.sent, again := now }

/-- What the answer of an acquire makes known: releases of this device that it read, by their sequences at that home, and what releases of other devices told (R205). -/
def State.farKnown (s : State) (r : RemoteReq) (rels known : List Nat) : List Nat :=
  if r.mod.getLsbD 6 then
    let part := (s.agPart r.agent).getD r.part
    (s.fabric.releases.filter fun x => x.node == r.node && rels.contains x.seq
        && s.synced part (modScope r.mod) r.agent x.release).foldl (fun l x => union l x.release.known) (s.madeHere known)
  else []

/-- REMOTE_ANSWER (R268, R270): 0 done, 1 a fault, 2 retry, 3 a failure on the way; one for another node is relayed, when a port takes it. -/
def execRemoteAnswer (h : AnswerHead) (kind : Nat) (fault : BitVec 8) (detail : BitVec 64) (data : List (BitVec 8)) (s : State) :
    Host.Outcome State Fault Refusal :=
  let dest := h.dest.toNat
  .next (if dest ≠ s.node then
      s.sendOut ⟨dest, h.src.toNat, h.seq.toNat, data.length, .answer 0 h.src.toNat dest h.seq.toNat kind fault.toNat detail data⟩
    else match s.fabric.reqs.find? fun x => x.node == h.src.toNat && x.seq == h.seq.toNat && x.answer.isNone with
    | none => s
    | some x =>
      match kind with
      | 0 => s.answered x 0 0 data (s.farKnown x h.rels h.known)
      | 1 => s.answered x (max 1 fault.toNat) (remoteDetail x fault.toNat detail) [] []
      | 2 => s.resend x true
      | _ => s.answered x 0x0A (remoteLost x.off x.kind) [] [])

/-- REMOTE_RESEND (R270): 20 µs without an answer. -/
def execRemoteResend (r : Nat) (s : State) : Host.Outcome State Fault Refusal :=
  .next (match s.findReq r with
    | none => s
    | some x => if x.answer.isSome || decide (s.svc.time.toNat < x.again + 20000) then s else s.resend x false)

/-- REMOTE_REQUEST_TIMEOUT (R270): 10 ms without an answer of any kind. -/
def execRemoteRequestTimeout (r : Nat) (s : State) : Host.Outcome State Fault Refusal :=
  .next (match s.findReq r with
    | none => s
    | some x => if x.answer.isSome || decide (s.svc.time.toNat < x.sent + 10 ^ 7) then s else s.answered x 0x0A (remoteLost x.off x.kind) [] [])

/-- A write of the companion processor at its homes, a release at .sys when `order` (R262). -/
def State.hostStore (s : State) (c : Ctx) (order : Bool) (bytes : List Byte) (ps : List (Target × Nat × Nat)) : State :=
  let rel : Option Release := if order then some { agent := c.agent, part := c.part, scope := scSys, known := s.knownBy c.agent } else none
  ps.foldl (fun st p => match p.1 with
    | .here ls => st.farStore c ls (slice bytes p.2.1 p.2.2) rel
    | .away _ _ _ _ => st) s

/-- The companion processor's access: the bytes read, in the state after it, or the trap (R179, R262, R263). -/
def State.hostAccess (s : State) (c : Ctx) (ptr : DWord) (write order : Bool) (n : Nat) (data : List Byte) : Except Trap (List Byte × State) := do
  if write then
    let (ps, stop, s1) ← s.portPlan c .write ptr n
    s1.writeStop c ptr ps stop
    s1.sendParts c (slice data 0 n) ps
    .ok ([], s1.hostStore c order (slice data 0 n) ps)
  else if order then s.acquireRead c ptr n scSys
  else (s.readMem c ptr n 8).map fun r => (r.1, r.2.2)

/-- The companion processor has taken the first `heard` notifications of a partition: each was a release at .sys (R264). -/
def State.hostHears (s : State) (part heard : Nat) : State :=
  s.see (.host part) (((s.prov.notices.filter fun x => x.1 == part).take heard).foldl (fun l x => union l x.2) [])

/-- COMPANION_REQUEST (R263): the answer goes out; a refused request has none yet, and the companion processor sends it again. -/
def execCompanionRequest (host : HostSide) (ptr : BitVec 64) (write order : Bool) (n : Nat) (data : List (BitVec 8)) (s : State) :
    Host.Outcome State Fault Refusal :=
  let part := host.part
  let a : Agent := .host part
  .next (if s.halted || !(s.pa part).present || s.resetting part then s
    else
      let s0 := s.hostHears part host.heard
      match s0.hostAccess { agent := a, part := part, core := none, quad := 48, seq := none } ptr write order n data with
      | .ok (b, s1) => (s1.dropAnswers a).emit (.host part 0 b)
      | .error (.fault code _) => (s0.dropAnswers a).emit (.host part code [])
      | .error (.wait w r) => match s0.request a w r with | (.ok _, s1) => s1 | (.error (code, _), s1) => s1.emit (.host part code []))

end Sys2Proof.Machine
end

