-- ==== Sys2Proof/Machine/Int.lean ====
section
/-! DEFINITION. The integer group (R107, R317, R332-R335, R380). -/

namespace Sys2Proof.Machine

/-- SG of mod [0] (R333). -/
def sgOf (o : Canon) : Bool := o.mod.getLsbD 0
/-- SAT of mod [1] (R333). -/
def satOf (o : Canon) : Bool := o.mod.getLsbD 1

/-- Narrow an exact integer to 32 bits: sat or wrap (R107, R334). -/
def narrow32 (sat sg : Bool) (x : Int) : Word := BitVec.ofInt 32 (if sat then satInt sg 32 x else x)

/-- A 32-bit operand as int32 or uint32 (R334). -/
def asInt (sg : Bool) (v : Word) : Int := if sg then v.toInt else v.toNat

/-- Operands A, B, C of an integer instruction. -/
def State.iA (s : State) (o : Canon) : Int := asInt (sgOf o) (s.a32 o)
/-- Operand B. -/
def State.iB (s : State) (o : Canon) : Int := asInt (sgOf o) (s.b32 o)
/-- Operand C. -/
def State.iC (s : State) (o : Canon) : Int := asInt (sgOf o) (s.c32 o)

/-- The body of an integer instruction whose exact value is `x` (R334). -/
def intBody (o : Canon) (x : State → Int) : Body := plain fun s => s.put32 o.d (narrow32 (satOf o) (sgOf o) (x s))

/-- Quotient of R334; all ones for a zero divisor. -/
def idivX (a b : Int) : Int := if b = 0 then 2 ^ 32 - 1 else a.tdiv b
/-- Remainder of R334. -/
def iremX (a b : Int) : Int := if b = 0 then a else a - b * a.tdiv b
/-- High half of R334. -/
def imulhX (a b : Int) : Int := (a * b) / 2 ^ 32

/-- The integer comparison of R333. -/
def icmp (code : Nat) (a b : Int) : Bool :=
  match code with
  | 0 => a == b
  | 1 => a != b
  | 2 => decide (a < b)
  | 3 => decide (a ≤ b)
  | 4 => decide (b < a)
  | _ => decide (b ≤ a)

/-- IADD body. -/
def iaddBody (o : Canon) : Body := intBody o fun s => s.iA o + s.iB o
/-- ISUB body. -/
def isubBody (o : Canon) : Body := intBody o fun s => s.iA o - s.iB o
/-- IMUL body. -/
def imulBody (o : Canon) : Body := intBody o fun s => s.iA o * s.iB o
/-- IMAD body. -/
def imadBody (o : Canon) : Body := intBody o fun s => s.iA o * s.iB o + s.iC o
/-- IMIN body. -/
def iminBody (o : Canon) : Body := intBody o fun s => min (s.iA o) (s.iB o)
/-- IMAX body. -/
def imaxBody (o : Canon) : Body := intBody o fun s => max (s.iA o) (s.iB o)
/-- ISET body (R333, R334). -/
def isetBody (o : Canon) : Body := plain fun s => s.putBool o.d (icmp (bitsOf o.mod.toNat 6 4) (s.iA o) (s.iB o))

/-- IADD (R334). -/
def execIadd (o : Canon) (s : State) : Host.Outcome State Fault Refusal := run 0x00 o s (iaddBody o)
/-- IADD, short form (R92). -/
def execIaddShort (g : BitVec 4) (d a : BitVec 6) (b : BitVec 8) (s : State) : Host.Outcome State Fault Refusal :=
  run 0x00 (Short.alu g d a b 0) s (iaddBody (Short.alu g d a b 0))
/-- ISUB (R334). -/
def execIsub (o : Canon) (s : State) : Host.Outcome State Fault Refusal := run 0x01 o s (isubBody o)
/-- ISUB, short form (R92). -/
def execIsubShort (g : BitVec 4) (d a : BitVec 6) (b : BitVec 8) (s : State) : Host.Outcome State Fault Refusal :=
  run 0x01 (Short.alu g d a b 0) s (isubBody (Short.alu g d a b 0))
/-- IMUL (R334). -/
def execImul (o : Canon) (s : State) : Host.Outcome State Fault Refusal := run 0x02 o s (imulBody o)
/-- IMUL, short form (R92). -/
def execImulShort (g : BitVec 4) (d a : BitVec 6) (b : BitVec 8) (s : State) : Host.Outcome State Fault Refusal :=
  run 0x02 (Short.alu g d a b 0) s (imulBody (Short.alu g d a b 0))
/-- IMULH (R334). -/
def execImulh (o : Canon) (s : State) : Host.Outcome State Fault Refusal := run 0x03 o s (intBody o fun s => imulhX (s.iA o) (s.iB o))
/-- IMAD (R334). -/
def execImad (o : Canon) (s : State) : Host.Outcome State Fault Refusal := run 0x04 o s (imadBody o)
/-- IMAD, short form: c := d (R92). -/
def execImadShort (g : BitVec 4) (d a : BitVec 6) (b : BitVec 8) (s : State) : Host.Outcome State Fault Refusal :=
  run 0x04 (Short.aluC g d a b 0) s (imadBody (Short.aluC g d a b 0))
/-- IDIV (R334). -/
def execIdiv (o : Canon) (s : State) : Host.Outcome State Fault Refusal := run 0x05 o s (intBody o fun s => idivX (s.iA o) (s.iB o))
/-- IREM (R334). -/
def execIrem (o : Canon) (s : State) : Host.Outcome State Fault Refusal := run 0x06 o s (intBody o fun s => iremX (s.iA o) (s.iB o))
/-- IMIN (R334). -/
def execImin (o : Canon) (s : State) : Host.Outcome State Fault Refusal := run 0x07 o s (iminBody o)
/-- IMIN, short signed form (R92). -/
def execIminShort (g : BitVec 4) (d a : BitVec 6) (b : BitVec 8) (s : State) : Host.Outcome State Fault Refusal :=
  run 0x07 (Short.alu g d a b 1) s (iminBody (Short.alu g d a b 1))
/-- IMAX (R334). -/
def execImax (o : Canon) (s : State) : Host.Outcome State Fault Refusal := run 0x08 o s (imaxBody o)
/-- IMAX, short signed form (R92). -/
def execImaxShort (g : BitVec 4) (d a : BitVec 6) (b : BitVec 8) (s : State) : Host.Outcome State Fault Refusal :=
  run 0x08 (Short.alu g d a b 1) s (imaxBody (Short.alu g d a b 1))
/-- IABS (R334). -/
def execIabs (o : Canon) (s : State) : Host.Outcome State Fault Refusal := run 0x09 o s (intBody o fun s => ((s.iB o).natAbs : Int))
/-- INEG (R334). -/
def execIneg (o : Canon) (s : State) : Host.Outcome State Fault Refusal := run 0x0A o s (intBody o fun s => -(s.iB o))
/-- ISET (R333, R334). -/
def execIset (o : Canon) (s : State) : Host.Outcome State Fault Refusal := run 0x1B o s (isetBody o)
/-- ISET.lt.sg, short form (R92). -/
def execIsetLtSgShort (g : BitVec 4) (p : BitVec 3) (a : BitVec 6) (b : BitVec 8) (s : State) : Host.Outcome State Fault Refusal :=
  run 0x1B (Short.set g p a b 0x21) s (isetBody (Short.set g p a b 0x21))
/-- ISET.eq, short form (R92). -/
def execIsetEqShort (g : BitVec 4) (p : BitVec 3) (a : BitVec 6) (b : BitVec 8) (s : State) : Host.Outcome State Fault Refusal :=
  run 0x1B (Short.set g p a b 0x00) s (isetBody (Short.set g p a b 0x00))
/-- ISET.lt.us, short form (R92). -/
def execIsetLtUsShort (g : BitVec 4) (p : BitVec 3) (a : BitVec 6) (b : BitVec 8) (s : State) : Host.Outcome State Fault Refusal :=
  run 0x1B (Short.set g p a b 0x20) s (isetBody (Short.set g p a b 0x20))
/-- ISET.ne, short form (R92). -/
def execIsetNeShort (g : BitVec 4) (p : BitVec 3) (a : BitVec 6) (b : BitVec 8) (s : State) : Host.Outcome State Fault Refusal :=
  run 0x1B (Short.set g p a b 0x10) s (isetBody (Short.set g p a b 0x10))

/-- Element `e` of a packed operand of `w`-bit integers (R106). -/
def packed (sg : Bool) (w : Nat) (v : Word) (e : Nat) : Int := readInt sg w (v.toNat / 2 ^ (w * e))

/-- Put `w`-bit elements together, element 0 lowest (R106). -/
def pack (w : Nat) : List Nat → Nat
  | [] => 0
  | x :: xs => x % 2 ^ w + 2 ^ w * pack w xs

/-- Element width of PADD (R379). -/
def paddWidth (m : Nat) : Nat := match bitsOf m 1 0 with | 0 => 8 | 1 => 16 | _ => 4

/-- PADD body (R380). -/
def paddBody (o : Canon) : Body := plain fun s =>
  let m := o.mod.toNat
  let w := paddWidth m
  let sg := bitOf m 2
  let el (e : Nat) : Nat :=
    let x := packed sg w (s.a32 o) e; let y := packed sg w (s.b32 o) e
    let z := if bitOf m 4 then x - y else x + y
    wrapInt w (if bitOf m 3 then satInt sg w z else z)
  s.put32 o.d (BitVec.ofNat 32 (pack w ((List.range (32 / w)).map el)))

/-- PADD (R380). -/
def execPadd (o : Canon) (s : State) : Host.Outcome State Fault Refusal := run 0x1D o s (paddBody o)
/-- PADD, short form (R92). -/
def execPaddShort (g : BitVec 4) (d a : BitVec 6) (b : BitVec 8) (s : State) : Host.Outcome State Fault Refusal :=
  run 0x1D (Short.alu g d a b 0) s (paddBody (Short.alu g d a b 0))

/-- A 64-bit operand as int64 or uint64. -/
def asInt64 (sg : Bool) (v : DWord) : Int := if sg then v.toInt else v.toNat

/-- IADD (64-bit) body (R335). -/
def iadd64Body (o : Canon) : Body := plain fun s =>
  let a := asInt64 (sgOf o) (s.a64 o (sgOf o)); let b := asInt64 (sgOf o) (s.b64 o (sgOf o))
  let x := if o.mod.getLsbD 4 then a - b else a + b
  s.put64 o.d (BitVec.ofInt 64 (if satOf o then satInt (sgOf o) 64 x else x))

/-- IADD (64-bit) (R335). -/
def execIadd64Bit (o : Canon) (s : State) : Host.Outcome State Fault Refusal := run 0x1E o s (iadd64Body o)

/-- DP4 (R317). -/
def execDp4 (o : Canon) (s : State) : Host.Outcome State Fault Refusal := run 0x1F o s (plain fun s =>
  let x := (List.range 4).foldl (fun (acc : Int) e => acc + packed (o.mod.getLsbD 0) 8 (s.a32 o) e * packed (o.mod.getLsbD 1) 8 (s.b32 o) e) (s.c32 o).toInt
  s.put32 o.d (narrow32 (o.mod.getLsbD 2) true x))

end Sys2Proof.Machine
end

