-- ==== Sys2Proof/Machine/Logic.lean ====
section
/-! DEFINITION. Logic, shifts, bit fields, selection, moves (R289, R297, R299, R308, R366, R367, R377, R378, R382, R383, R395, R402, R403, R435). -/

namespace Sys2Proof.Machine

/-- W64 of mod [2]. -/
def w64Of (o : Canon) : Bool := o.mod.getLsbD 2

/-- Bitwise operation over 32 or 64 bits (R289). -/
def bitBody (o : Canon) (f32 : Word → Word → Word) (f64 : DWord → DWord → DWord) : Body := plain fun s =>
  if w64Of o then s.put64 o.d (f64 (s.a64 o false) (s.b64 o false)) else s.put32 o.d (f32 (s.a32 o) (s.b32 o))

/-- AND body. -/
def andBody (o : Canon) : Body := bitBody o (· &&& ·) (· &&& ·)
/-- OR body. -/
def orBody (o : Canon) : Body := bitBody o (· ||| ·) (· ||| ·)
/-- XOR body. -/
def xorBody (o : Canon) : Body := bitBody o (· ^^^ ·) (· ^^^ ·)

/-- AND (R289). -/
def execAnd (o : Canon) (s : State) : Host.Outcome State Fault Refusal := run 0x0B o s (andBody o)
/-- AND, short form (R92). -/
def execAndShort (g : BitVec 4) (d a : BitVec 6) (b : BitVec 8) (s : State) : Host.Outcome State Fault Refusal :=
  run 0x0B (Short.alu g d a b 0) s (andBody (Short.alu g d a b 0))
/-- OR (R378). -/
def execOr (o : Canon) (s : State) : Host.Outcome State Fault Refusal := run 0x0C o s (orBody o)
/-- OR, short form (R92). -/
def execOrShort (g : BitVec 4) (d a : BitVec 6) (b : BitVec 8) (s : State) : Host.Outcome State Fault Refusal :=
  run 0x0C (Short.alu g d a b 0) s (orBody (Short.alu g d a b 0))
/-- XOR (R435). -/
def execXor (o : Canon) (s : State) : Host.Outcome State Fault Refusal := run 0x0D o s (xorBody o)
/-- XOR, short form (R92). -/
def execXorShort (g : BitVec 4) (d a : BitVec 6) (b : BitVec 8) (s : State) : Host.Outcome State Fault Refusal :=
  run 0x0D (Short.alu g d a b 0) s (xorBody (Short.alu g d a b 0))
/-- NOT (R377). -/
def execNot (o : Canon) (s : State) : Host.Outcome State Fault Refusal := run 0x0E o s (plain fun s =>
  if w64Of o then s.put64 o.d (~~~(s.b64 o false)) else s.put32 o.d (~~~(s.b32 o)))

/-- Shift left over `w` bits (R403). -/
def shlBits (w : Nat) (a : BitVec w) (n : Nat) : BitVec w := if n < w then a <<< n else 0
/-- Shift right over `w` bits (R403). -/
def shrBits (w : Nat) (sg : Bool) (a : BitVec w) (n : Nat) : BitVec w :=
  if n < w then (if sg then a.sshiftRight n else a >>> n) else if sg && a.msb then BitVec.allOnes w else 0
/-- Rotate over `w` bits (R395). -/
def rotBits (w : Nat) (right : Bool) (a : BitVec w) (n : Nat) : BitVec w := if right then a.rotateRight (n % w) else a.rotateLeft (n % w)

/-- SHL body (R403). -/
def shlBody (o : Canon) : Body := plain fun s =>
  let n := (s.b32 o).toNat
  if w64Of o then s.put64 o.d (shlBits 64 (s.a64 o false) n) else s.put32 o.d (shlBits 32 (s.a32 o) n)
/-- SHR body (R403). -/
def shrBody (o : Canon) : Body := plain fun s =>
  let n := (s.b32 o).toNat
  let sg := o.mod.getLsbD 0
  if w64Of o then s.put64 o.d (shrBits 64 sg (s.a64 o sg) n) else s.put32 o.d (shrBits 32 sg (s.a32 o) n)

/-- SHL (R403). -/
def execShl (o : Canon) (s : State) : Host.Outcome State Fault Refusal := run 0x0F o s (shlBody o)
/-- SHL, short form (R92). -/
def execShlShort (g : BitVec 4) (d a : BitVec 6) (b : BitVec 8) (s : State) : Host.Outcome State Fault Refusal :=
  run 0x0F (Short.alu g d a b 0) s (shlBody (Short.alu g d a b 0))
/-- SHR (R403). -/
def execShr (o : Canon) (s : State) : Host.Outcome State Fault Refusal := run 0x10 o s (shrBody o)
/-- SHR.us, short form (R92). -/
def execShrUsShort (g : BitVec 4) (d a : BitVec 6) (b : BitVec 8) (s : State) : Host.Outcome State Fault Refusal :=
  run 0x10 (Short.alu g d a b 0) s (shrBody (Short.alu g d a b 0))
/-- SHR.sg, short form (R92). -/
def execShrSgShort (g : BitVec 4) (d a : BitVec 6) (b : BitVec 8) (s : State) : Host.Outcome State Fault Refusal :=
  run 0x10 (Short.alu g d a b 1) s (shrBody (Short.alu g d a b 1))
/-- ROT (R395). -/
def execRot (o : Canon) (s : State) : Host.Outcome State Fault Refusal := run 0x11 o s (plain fun s =>
  let n := (s.b32 o).toNat
  let right := o.mod.getLsbD 1
  if w64Of o then s.put64 o.d (rotBits 64 right (s.a64 o false) n) else s.put32 o.d (rotBits 32 right (s.a32 o) n))

/-- POPC body (R383). -/
def popcBody (o : Canon) : Body := plain fun s => s.put32 o.d (BitVec.ofNat 32 (popCount 32 (s.b32 o).toNat))
/-- POPC (R383). -/
def execPopc (o : Canon) (s : State) : Host.Outcome State Fault Refusal := run 0x12 o s (popcBody o)
/-- POPC, short form (R92). -/
def execPopcShort (g : BitVec 4) (d : BitVec 6) (b : BitVec 8) (s : State) : Host.Outcome State Fault Refusal :=
  run 0x12 (Short.alu1 g d b 0) s (popcBody (Short.alu1 g d b 0))

/-- Leading zeros of 32 bits (R308). -/
def clz32 (v : Nat) : Nat := if v = 0 then 32 else 31 - Nat.log2 v
/-- CLZ (R308). -/
def execClz (o : Canon) (s : State) : Host.Outcome State Fault Refusal := run 0x13 o s (plain fun s => s.put32 o.d (BitVec.ofNat 32 (clz32 (s.b32 o).toNat)))
/-- BREV (R299). -/
def execBrev (o : Canon) (s : State) : Host.Outcome State Fault Refusal := run 0x14 o s (plain fun s => s.put32 o.d (s.b32 o).reverse)

/-- Position and length of a bit field (R297). -/
def fieldPos (v : Word) : Nat × Nat := (bitsOf v.toNat 7 0, min (bitsOf v.toNat 15 8) 32)
/-- The extracted field (R297). -/
def bfeX (sg : Bool) (x : Word) (pos len : Nat) : Int :=
  let f := x.toNat / 2 ^ pos % 2 ^ len
  if sg && decide (0 < len) && bitOf f (len - 1) then (f : Int) - 2 ^ len else f
/-- BFE (R297). -/
def execBfe (o : Canon) (s : State) : Host.Outcome State Fault Refusal := run 0x15 o s (plain fun s =>
  let (pos, len) := fieldPos (s.b32 o)
  s.put32 o.d (BitVec.ofInt 32 (bfeX (o.mod.getLsbD 0) (s.a32 o) pos len)))
/-- The insertion of R297. -/
def bfiX (base ins : Word) (pos len : Nat) : Word :=
  let m := BitVec.ofNat 32 ((2 ^ len - 1) * 2 ^ pos)
  (base &&& ~~~m) ||| (BitVec.ofNat 32 (ins.toNat * 2 ^ pos) &&& m)
/-- BFI (R297). -/
def execBfi (o : Canon) (s : State) : Host.Outcome State Fault Refusal := run 0x16 o s (plain fun s =>
  let (pos, len) := fieldPos (s.c32 o)
  s.put32 o.d (bfiX (s.a32 o) (s.b32 o) pos len))
/-- SEL (R402). -/
def execSel (o : Canon) (s : State) : Host.Outcome State Fault Refusal := run 0x17 o s (plain fun s =>
  let c := s.rdP 4 o.c o.imm
  if w64Of o then s.put64 o.d (if c then s.a64 o false else s.b64 o false) else s.put32 o.d (if c then s.a32 o else s.b32 o))
/-- MOV body (R366). -/
def movBody (o : Canon) : Body := plain fun s => if w64Of o then s.put64 o.d (s.b64 o false) else s.put32 o.d (s.b32 o)
/-- MOV (R366). -/
def execMov (o : Canon) (s : State) : Host.Outcome State Fault Refusal := run 0x18 o s (movBody o)
/-- MOV, short form (R92). -/
def execMovShort (g : BitVec 4) (d : BitVec 6) (b : BitVec 8) (s : State) : Host.Outcome State Fault Refusal :=
  run 0x18 (Short.alu1 g d b 0) s (movBody (Short.alu1 g d b 0))
/-- MOVI (low) body (R367). -/
def moviBody (o : Canon) : Body := plain fun s =>
  if isK o.d.toNat then s.put64 o.d (if o.mod.getLsbD 0 then o.imm.signExtend 64 else o.imm.setWidth 64) else s.put32 o.d o.imm
/-- MOVI (low) (R367). -/
def execMoviLow (o : Canon) (s : State) : Host.Outcome State Fault Refusal := run 0x19 o s (moviBody o)
/-- MOVI, short form (R92). -/
def execMoviShort (g : BitVec 4) (d : BitVec 6) (n : BitVec 8) (s : State) : Host.Outcome State Fault Refusal :=
  run 0x19 (Short.movi g d n) s (moviBody (Short.movi g d n))
/-- MOVI (high-half): the even register or the lower half keeps its value (R367). -/
def execMoviHighHalf (o : Canon) (s : State) : Host.Outcome State Fault Refusal := run 0x1A o s (plain fun s =>
  if isG o.d.toNat then s.putG (o.d.toNat + 1) o.imm else s.put64 o.d (pair (lo32 (s.kval 1 (kIdx o.d))) o.imm))
/-- PLOP (R382). -/
def execPlop (o : Canon) (s : State) : Host.Outcome State Fault Refusal := run 0x1C o s (plain fun s =>
  let t (v : Word) : Nat := if v = 0 then 0 else 1
  s.putBool o.d (bitOf o.mod.toNat (t (s.a32 o) + 2 * t (s.b32 o) + 4 * t (s.c32 o))))

end Sys2Proof.Machine
end

