-- ==== Sys2Proof/Machine/Shake.lean ====
section
/-! DEFINITION. SHAKE256, the digest that Mirdar makes (R277, R279). PRESUMED (log 52): SHAKE256 is that of FIPS 202. -/

namespace Sys2Proof.Machine

/-- The lanes that turn, by number x + 5 y, in the order that gives their amounts: (x, y) is followed by (y, 2 x + 3 y modulo 5). -/
def laneWalk : Nat → Nat → Nat → List Nat
  | 0, _, _ => []
  | n + 1, x, y => (x + 5 * y) :: laneWalk n y ((2 * x + 3 * y) % 5)

/-- By how much a lane turns: the t-th lane of the walk from (1, 0) by the (t + 1)-th triangular number; lane 0 stays. -/
def laneTurn (lane : Nat) : Nat := ((laneWalk 24 1 0).findIdx? (· == lane)).elim 0 fun t => (t + 1) * (t + 2) / 2 % 64

/-- One step of the shift register x⁸ + x⁶ + x⁵ + x⁴ + 1, from which the round constants come. -/
def shiftNext (r : Nat) : Nat := if r < 128 then 2 * r else Nat.xor (2 * r) 0x171

/-- Seven steps of the shift register: the round's constant, whose bits 2 ^ j − 1 the register gives, and the register after it. -/
def roundConst (r : Nat) : DWord × Nat :=
  (List.range 7).foldl (fun z j => (z.1 ||| (BitVec.ofNat 64 (z.2 % 2) <<< (2 ^ j - 1)), shiftNext z.2)) (0, r)

/-- One round of Keccak-f[1600] on 25 lanes, with the shift register beside them. -/
def keccakRound (st : List DWord × Nat) : List DWord × Nat :=
  let lane (l : List DWord) (x y : Nat) : DWord := nth 0 l (x % 5 + 5 * y)
  let parity (x : Nat) : DWord := [0, 1, 2, 3, 4].foldl (fun v y => v ^^^ lane st.1 x y) 0
  let cols := [0, 1, 2, 3, 4].map fun x => parity (x + 4) ^^^ (parity (x + 1)).rotateLeft 1
  let turned := (List.range 25).map fun j => (nth 0 st.1 j ^^^ nth 0 cols (j % 5)).rotateLeft (laneTurn j)
  let moved := (List.range 25).map fun i => lane turned (i % 5 + 3 * (i / 5)) (i % 5)
  let bent := (List.range 25).map fun i => let y := i / 5; nth 0 moved i ^^^ (~~~lane moved (i + 1) y &&& lane moved (i + 2) y)
  let (rc, r) := roundConst st.2
  (bent.set 0 (nth 0 bent 0 ^^^ rc), r)

/-- Keccak-f[1600]: 24 rounds. -/
def keccak (a : List DWord) : List DWord := ((List.range 24).foldl (fun st _ => keccakRound st) (a, 1)).1

/-- The bytes of a message with SHAKE256's padding to a multiple of 136 bytes. -/
def shakePad (m : List Byte) : List Byte :=
  let n := m.length / 136 * 136 + 136
  if n = m.length + 1 then m ++ [0x9F] else m ++ [0x1F] ++ List.replicate (n - m.length - 2) 0 ++ [0x80]

/-- Absorb blocks of 136 bytes. -/
def shakeAbsorb : Nat → List DWord → List Byte → List DWord
  | 0, a, _ => a
  | n + 1, a, m =>
    let words := (List.range 17).map fun i => BitVec.ofNat 64 (field m (8 * i) 8)
    shakeAbsorb n (keccak ((List.range 25).map fun i => nth 0 a i ^^^ nth 0 words i)) (m.drop 136)

/-- The first 64 bytes of SHAKE256. -/
def shake256 (m : List Byte) : List Byte :=
  let p := shakePad m
  ((shakeAbsorb (p.length / 136) (List.replicate 25 0) p).flatMap fun w => toLE 8 w.toNat).take 64

end Sys2Proof.Machine
end

