-- ==== Sys2Proof/Machine/Mgmt.lean ====
section
/-! DEFINITION. Management: the window, HBM4E health, time, boot, Mirdar, encryption, power and ports (R240, R265, R266, R268, R272, R274-R283). -/

namespace Sys2Proof.Machine

/-- Bits of a byte of the management window that a plain management write changes (R242, R265, R268, R280). -/
def windowMask (off : Nat) : Nat :=
  if off = 0x100 ∨ off = 0x101 then 0xFF
  else if off = 0x102 then 0x3F
  else if off = 0x103 then 0x1F
  else if off = 0x108 ∨ off = 0x110 ∨ off = 0x111 then 0xFF
  else if 0x1000 ≤ off ∧ off < 0x2000 then (if 0x78 ≤ off % 256 ∧ off % 256 < 0x80 then 0 else 0xFF)
  else if 0x2000 ≤ off ∧ off < 0x2100 then (if off % 16 < 8 then 0xFF else 0)
  else if 0x3000 ≤ off ∧ off < 0x4000 then
    (match off % 16 with | 0 | 1 | 4 | 5 => 0xFF | 2 => 0x3F | 3 => 0x1F | 7 => 0x80 | _ => 0)
  else if 0x4000 ≤ off ∧ off < 0x4008 then 0xFF
  else if 0x4010 ≤ off ∧ off < 0x4030 then 0xFF
  else 0

/-- Write bytes of the window under their masks. -/
def State.winWrite (s : State) (mask : Nat → Nat) (off : Nat) (data : List Byte) : State :=
  ((data.foldl (fun (r : State × Nat) b =>
    let m : Byte := BitVec.ofNat 8 (mask r.2)
    let old := Memory.get r.1.window r.2
    ({ r.1 with window := Memory.set r.1.window r.2 ((old &&& ~~~m) ||| (b &&& m)) }, r.2 + 1)) (s, off))).1

/-- NDROP counters that a write covers with zeros are cleared (R265). -/
def State.clearDrops (s : State) (off : Nat) (data : List Byte) : State :=
  (List.range 16).foldl (fun st i =>
    let d := 0x2008 + 16 * i
    if off ≤ d ∧ d + 4 ≤ off + data.length ∧ field data (d - off) 4 = 0 then st.setWin d 4 0 else st) s

/-- A write of the window that sets CTRL.RESET in a partition's configuration record (R242). -/
def asksReset (off : Nat) (data : List Byte) (part : Nat) : Bool :=
  let at_ := cfgOff part + 0x70
  decide (off ≤ at_) && (nth 0#8 data (at_ - off)).getLsbD 0

/-- MGMT_WINDOW_WRITE (R265); CTRL.RESET = 1 resets the partition (R260). -/
def execMgmtWindowWrite (off : Nat) (data : List (BitVec 8)) (s : State) : Host.Outcome State Fault Refusal :=
  .next (((List.range 16).filter (asksReset off data)).foldl State.resetPart ((s.winWrite windowMask off data).clearDrops off data))

/-- NODEID_WRITE (R268): ignored while a partition is valid. -/
def execNodeidWrite (v : BitVec 64) (s : State) : Host.Outcome State Fault Refusal :=
  .next (if s.parts.any (·.present) then s else s.setWin 0x118 8 (v.toNat % 2 ^ 22))

/-- Channels of a domain (R182). -/
def domainHas (d ch : Nat) : Bool := if d = 0 then true else if d < 3 then ch / 128 == d - 1 else ch / 32 == d - 3

/-- RBASE and NROWS of a domain. -/
def State.dom (s : State) (d : Nat) : Nat × Nat := (s.win (0x40 + 16 * d) 4, s.win (0x44 + 16 * d) 4)

/-- No two domains share a row of a channel, and none reaches the first row beyond a logical channel (R265). -/
def State.domapOk (s : State) : Bool :=
  (List.range 11).all fun a =>
    let (ra, na) := s.dom a
    (na == 0 || decide (ra + na ≤ 10986328)) && (List.range 11).all fun b =>
      let (rb, nb) := s.dom b
      a == b || !((List.range 8).any fun k => domainHas a (32 * k) && domainHas b (32 * k)) || na == 0 || nb == 0 || decide (ra + na ≤ rb) || decide (rb + nb ≤ ra)

/-- The first channel of a domain (R183). -/
def domFirst (d : Nat) : Nat := if d = 0 then 0 else if d < 3 then 128 * (d - 1) else 32 * (d - 3)

/-- The address of a row's line through a domain: the inverse of R183's channel and R275's row. -/
def State.lineKey (s : State) (d ch row : Nat) : Nat :=
  let n := domChannels d
  let hi := (row - (s.dom d).1) * n
  d * 2 ^ 44 + (hi + Nat.xor (ch - domFirst d) (foldBits hi 36 n.log2)) * 256

/-- The key of the line that a logical channel holds at a row: its address in the domain that has the row, else a key that no address reaches (R275). -/
def State.rowKey (s : State) (ch row : Nat) : Nat :=
  match (List.range 11).find? fun d => domainHas d ch && decide ((s.dom d).1 ≤ row) && decide (row < (s.dom d).1 + (s.dom d).2) with
  | some d => s.lineKey d ch row
  | none => 2 ^ 58 + (ch * 2 ^ 32 + row) * 256

/-- The key that a stored byte takes when DOMMAP changes: its channel and row stay (R275). -/
def rowMoves (old new : State) (k : Nat) : Nat :=
  if k < 2 ^ 48 then new.rowKey (channelOf k) (old.rowOf k) + k % 256
  else if 2 ^ 58 ≤ k ∧ k < 2 ^ 59 then new.rowKey ((k - 2 ^ 58) / 256 / 2 ^ 32) ((k - 2 ^ 58) / 256 % 2 ^ 32) + k % 256
  else k

/-- DOMMAP_WRITE (R265): applied, or refused with DOMMAP unchanged. Rows keep their bytes: an address reaches those of the row that it now has (R275). -/
def execDommapWrite (off : Nat) (data : List (BitVec 8)) (s : State) : Host.Outcome State Fault Refusal :=
  let s1 := s.winWrite (fun x => if 0x40 ≤ x ∧ x < 0xF0 ∧ x % 16 < 8 then 0xFF else 0) off data
  .next (if !s1.domapOk then s
    else if (List.range 11).all fun d => s.dom d == s1.dom d then s1
    else let f := rowMoves s s1; (s1.rekey f (Memory.moved s1.mem f)).failReds)

/-- Set a bit of DEVSTAT (R266). -/
def State.setDev (s : State) (bit : Nat) (v : Bool) : State :=
  let x := s.win 0 8
  if bitOf x bit == v then s else s.setWin 0 8 (if v then x + 2 ^ bit else x - 2 ^ bit)

/-- Replace the bits [hi:lo] of CHSTAT (R274). -/
def State.setCh (s : State) (ch hi lo v : Nat) : State :=
  let x := s.chstat ch
  s.setWin (0x400 + 8 * ch) 8 (x - bitsOf x hi lo * 2 ^ lo + v % 2 ^ (hi + 1 - lo) * 2 ^ lo)

/-- REFBAL (R274). -/
def State.refbal (s : State) (ch : Nat) : Int := readInt true 5 (s.chstat ch)

/-- REFRESH (R274): `due` says that tREFI has passed; the balance stays within 8. -/
def execRefresh (ch : Nat) (due : Bool) (r : Refreshed) (s : State) : Host.Outcome State Fault Refusal :=
  let b : Int := s.refbal ch + (if due then 1 else 0) - r.run
  .next (if ch < 256 ∧ -8 ≤ b ∧ b ≤ 8 then
      (s.setCh ch 4 0 (wrapInt 5 b)).setCh ch 23 8 (min (bitsOf (s.chstat ch) 23 8 + r.corrected) 65535)
    else s)

/-- The channels of a parity group. -/
def groupOf (g : Nat) : List Nat := (List.range 16).map (16 * g + ·)

/-- A channel starts to retire, or, as the second of its group, is lost (R275, R276). -/
def State.startRetire (s : State) (ch : Nat) : State :=
  let g := ch / 16
  if bitOf (s.chstat ch) 5 || s.svc.rebuilding.contains ch || s.svc.failed.contains ch then s
  else if (s.live g).length < 16 || s.svc.rebuilding.any fun x => x / 16 == g then
    (({ s with svc := { s.svc with failed := ch :: s.svc.failed } } : State).setDev 2 true |>.setDev 0 true).failReds
  else (groupOf g).foldl (fun st c => st.setCh c 6 6 1) { s with svc := { s.svc with rebuilding := ch :: s.svc.rebuilding } }

/-- RETIRE (R276): management writes RETIRE. -/
def execRetire (ch : Nat) (s : State) : Host.Outcome State Fault Refusal := .next (if ch < 256 then s.startRetire ch else s)

/-- UNCORRECTABLE_ERROR (R275, R276): rebuilt from parity and counted; the channel retires at the threshold. -/
def execUncorrectableError (ch row : Nat) (s : State) : Host.Outcome State Fault Refusal :=
  .next (if 256 ≤ ch ∨ 11718750 ≤ row ∨ bitOf (s.chstat ch) 5 then s
    else
      let n := min (bitsOf (s.chstat ch) 31 24 + 1) 255
      let s1 := s.setCh ch 31 24 n
      if s1.win 0x108 1 ≤ n then s1.startRetire ch else s1)

/-- CHANNEL_REBUILD_DONE (R276): the group's map switches in one step; lines beyond the new limit are lost. -/
def execChannelRebuildDone (grp : Nat) (s : State) : Host.Outcome State Fault Refusal :=
  .next (match s.svc.rebuilding.find? fun ch => ch / 16 == grp with
    | none => s
    | some ch =>
      let s1 := (groupOf grp).foldl (fun st c => st.setCh c 6 6 0) { s with svc := { s.svc with rebuilding := s.svc.rebuilding.filter fun x => x / 16 != grp } }
      (((s1.setCh ch 5 5 1).setDev 1 true).setDev 0 true).failReds)

/-- This device is the lowest node of its pod (R269). -/
def State.lowestNode (s : State) : Bool := s.node == bitsOf (s.win 0x100 8) 21 0 || bitsOf (s.win 0x100 8) 28 24 == 0

/-- TIME_SYNC (R272): the difference from the reference is corrected by rate. -/
def execTimeSync (ref : BitVec 64) (s : State) : Host.Outcome State Fault Refusal :=
  .next (if s.lowestNode then s else { s with svc := { s.svc with trim := (ref.toNat : Int) - s.svc.time.toNat } })

/-- POD_JOIN (R272): the time base takes the reference, or stands until the reference catches up. -/
def execPodJoin (ref : BitVec 64) (s : State) : Host.Outcome State Fault Refusal :=
  .next (if s.parts.any (·.present) then s
    else if s.svc.time.toNat ≤ ref.toNat then { s with svc := { s.svc with time := ref, hold := 0, trim := 0 } }
    else { s with svc := { s.svc with hold := s.svc.time - ref, trim := 0 } })

/-- ESTIMATOR_SAMPLE (R282): the sums of each partition, in MB/s and mW. -/
def execEstimatorSample (bw pw : List Nat) (s : State) : Host.Outcome State Fault Refusal := .next { s with svc := { s.svc with bw := bw, pw := pw } }

/-- The module power cap in W (R265). -/
def State.pcap (s : State) : Nat := let c := s.win 0x110 2; if c = 0 then 2200 else c

/-- The clock in steps of 100 MHz, with THROTTLE (R266, R283). -/
def State.setClock (s : State) (c : Nat) : State := ({ s with svc := { s.svc with clock := c } } : State).setDev 3 (decide (c < 18))

/-- THERMAL_THROTTLE (R283). -/
def execThermalThrottle (temp power : Nat) (s : State) : Host.Outcome State Fault Refusal :=
  .next (if 105 ≤ temp ∨ s.pcap < power then s.setClock (max 9 (s.svc.clock - 1)) else s)

/-- THROTTLE_END (R283): one step back toward 1.8 GHz. -/
def execThrottleEnd (temp power : Nat) (s : State) : Host.Outcome State Fault Refusal :=
  .next (if temp < 105 ∧ power ≤ s.pcap then s.setClock (min 18 (s.svc.clock + 1)) else s)

/-- THERMAL_SHUTDOWN (R283): every partition is reset, REPLACE is set. -/
def execThermalShutdown (temp : Nat) (s : State) : Host.Outcome State Fault Refusal :=
  .next (if temp < 115 then s else ((List.range 16).foldl State.resetPart s).setDev 0 true)

/-- FABRIC_PORT_TRAINING (R266, R268). -/
def execFabricPortTraining (port : Nat) (up : Bool) (s : State) : Host.Outcome State Fault Refusal := .next (if port < 16 then s.setDev (9 + port) up else s)

/-- PORT_KEY_INSTALL (R281). -/
def execPortKeyInstall (port : Nat) (s : State) : Host.Outcome State Fault Refusal :=
  .next { s with fabric := { s.fabric with portFlits := s.fabric.portFlits.filter fun x => x.1 != port } }

/-- BLOCK_REENCRYPTION_DONE (R281). -/
def execBlockReencryptionDone (b : Nat) (s : State) : Host.Outcome State Fault Refusal :=
  .next { s with svc := { s.svc with enc := s.svc.enc.map fun x => if x.block == b then { x with busy := false } else x } }

/-- A required boot step (R278). -/
def bootRequired (step : Nat) : Bool := decide (step ≤ 4)

/-- The outcome of a boot step: 0 passed, 1 failed, 2 skipped, 3 passed from the fallback image; step 0 has no image (R278). -/
def bootStep (step : Nat) (failedBefore primary fallback : Bool) : Nat :=
  if step = 0 then (if primary then 0 else 1)
  else if !bootRequired step then (if failedBefore then 2 else if primary then 0 else 1)
  else if failedBefore then (if fallback then 3 else 1)
  else if primary then 0 else if fallback then 3 else 1

/-- The outcomes of a start, in step order; the steps after a required step that failed are skipped (R278). -/
def bootRun (before : Nat → Bool) (primary fallback : List Bool) : List Nat → List Nat
  | [] => []
  | i :: is =>
    let o := bootStep i (before i) (nth false primary i) (nth false fallback i)
    if bootRequired i && o == 1 then o :: is.map fun _ => 2 else o :: bootRun before primary fallback is

/-- The outcome of a step at the previous start. -/
def Services.failedBefore (v : Services) (step : Nat) : Bool :=
  v.history.any fun e => e.count == v.bootCount && e.step == step && e.outcome == 1

/-- The image for a step among those of a start. -/
def imageOf (images : List Image) (step : Nat) : Option Image := images.find? fun i => i.step == step

/-- An image's signature holds over the rest of it, and its security version is not below the fused minimum (R277). -/
def Image.sound (i : Image) : Bool := Config.imageSigned (shake256 i.rest) i.signature && decide (Config.minSecurity ≤ i.security)

/-- Whether each step passes from a set of images: its image is sound and the step itself succeeds; step 0 has no image (R277, R278). -/
def stepsPass (images : List Image) (ok : List Bool) : List Bool :=
  (List.range 7).map fun i => nth false ok i && (i == 0 || ((imageOf images i).map Image.sound).getD false)

/-- The version that the history records: that of the image tried last (R278). -/
def bootVersion (primary fallback : List Image) (step outcome : Nat) : BitVec 64 :=
  let p := imageOf primary step
  let f := imageOf fallback step
  (((if outcome = 3 ∨ outcome = 1 then f.orElse fun _ => p else p)).map (·.version)).getD 0

/-- BOOT (R278): at power-on, with the boot history of earlier starts; a required step that fails in both images halts boot. `ok` says of each step whether it succeeds
from the primary and from the fallback image. Resets that management asked for before boot follow (R260). DESIGN CHOICE (log 88): the source that R280 reports for a
step that failed is 2, with a digest of zeros. -/
def execBoot (primary fallback : List Image) (ok : List (Bool × Bool)) (s : State) : Host.Outcome State Fault Refusal :=
  let v := s.svc
  let outs := bootRun v.failedBefore (stepsPass primary (ok.map (·.1))) (stepsPass fallback (ok.map (·.2))) (List.range 7)
  let count := v.bootCount + 1
  let entries := (List.range 7).map fun i =>
    ({ count := count, step := i, outcome := nth 0 outs i, version := bootVersion primary fallback i (nth 0 outs i) } : BootEntry)
  let all := v.history ++ entries
  let fail := (List.range 5).any fun i => nth 0 outs i == 1
  let source (o : Nat) : Nat := match o with | 3 => 1 | 0 => 0 | _ => 2
  let image (i : Nat) : List Byte := match nth 0 outs i with
    | 0 => ((imageOf primary i).map fun x => shake256 x.whole).getD []
    | 3 => ((imageOf fallback i).map fun x => shake256 x.whole).getD []
    | _ => []
  let s0 := if v.booted then State.reset else s
  let svc := { s0.svc with
    bootCount := count, history := all.drop (all.length - 64), booted := !fail,
    sources := (List.range 6).map fun i => source (nth 0 outs (i + 1)), running := (List.range 6).map fun i => image (i + 1) }
  let s1 := ({ s0 with svc := svc } : State).setDev 4 fail
  let asked := (List.range 16).filter fun p => bitOf (s1.win (cfgOff p + 0x70) 8) 0
  .next (asked.foldl State.resetPart s1)

/-- The identity public key of 1,952 B (R277). -/
def publicKey : List Byte := slice Config.identityKey 0 1952

/-- A signature of 3,309 B by the identity key (R277, R280). -/
def identitySig (m : List Byte) : List Byte := slice (Config.identitySign m) 0 3309

/-- A request waits in the mailbox (R280). -/
def State.mailPending (s : State) : Bool := s.win 0x4004 4 != s.win 0x400C 4 && s.win 0x4008 4 != 1

/-- Mirdar takes the request: STATUS says busy, and CMD, NONCE and SEQ are read (R280). -/
def State.mailTaken (s : State) : State :=
  { s with svc := { s.svc with mail := some (s.win 0x4000 4, Memory.getAll s.window 0x4010 32, s.win 0x4004 4) } }.setWin 0x4008 4 1

/-- Answer the request taken: RESP, RLEN, RSEQ, then STATUS (R280). -/
def State.mailAnswer (s : State) (resp : List Byte) (seq status : Nat) : State :=
  let s1 : State := { s with window := Memory.setAll s.window 0x4200 resp, svc := { s.svc with mail := none } }
  ((s1.setWin 0x4030 4 resp.length).setWin 0x400C 4 seq).setWin 0x4008 4 status

/-- Mirdar's next act on a request whose CMD satisfies a test: it takes the request, or answers the one it has taken (R280). -/
def State.mirdar (s : State) (cmd : Nat → Bool) (answer : List Byte → List Byte × Nat) : State :=
  match s.svc.mail with
  | none => if s.mailPending && cmd (s.win 0x4000 4) then s.mailTaken else s
  | some (c, nonce, seq) => if cmd c then (let (resp, status) := answer nonce; s.mailAnswer resp seq status) else s

/-- A boot-history entry's bytes (R278). -/
def BootEntry.bytes (e : BootEntry) : List Byte := toLE 4 e.count ++ toLE 1 e.step ++ toLE 1 e.outcome ++ toLE 2 0 ++ toLE 8 e.version.toNat

/-- The report up to its signature (R280). DESIGN CHOICE (log 89): entries that the boot history does not have yet stand as zeros after those it has. -/
def State.report (s : State) (nonce : List Byte) : List Byte :=
  let image (i : Nat) : List Byte := toLE 1 i ++ toLE 1 (nth 2 s.svc.sources (i - 1)) ++ toLE 6 0 ++ slice (nth [] s.svc.running (i - 1)) 0 64
  nonce ++ shake256 publicKey ++ toLE 8 (s.win 0 8) ++ toLE 8 s.svc.time.toNat
    ++ (List.range 6).flatMap (fun i => image (i + 1)) ++ slice (s.svc.history.flatMap BootEntry.bytes) 0 1024

/-- ATTESTATION_REPORT (R279, R280). -/
def execAttestationReport (s : State) : Host.Outcome State Fault Refusal :=
  .next (s.mirdar (· == 1) fun nonce => let r := s.report nonce; (r ++ identitySig r, 2))

/-- IDENTITY_PUBLIC_KEY (R280). -/
def execIdentityPublicKey (s : State) : Host.Outcome State Fault Refusal := .next (s.mirdar (· == 2) fun _ => (publicKey, 2))

/-- MIRDAR_CMD_REFUSED (R280). -/
def execMirdarCmdRefused (s : State) : Host.Outcome State Fault Refusal := .next (s.mirdar (fun c => c != 1 && c != 2) fun _ => ([], 3))

end Sys2Proof.Machine
end

