-- ==== Sys2Proof/Machine/Dispatch.lean ====
section
/-! DEFINITION. The dispatch: one arm for each constructor of Instr. -/

namespace Sys2Proof.Machine

/-- The meaning of every instruction and event. -/
def exec (i : Instr) (s : State) : Host.Outcome State Fault Refusal :=
  match i with
  | .iadd o => Sys2Proof.Machine.execIadd o s
  | .iaddShort g d a b => Sys2Proof.Machine.execIaddShort g d a b s
  | .isub o => Sys2Proof.Machine.execIsub o s
  | .isubShort g d a b => Sys2Proof.Machine.execIsubShort g d a b s
  | .imul o => Sys2Proof.Machine.execImul o s
  | .imulShort g d a b => Sys2Proof.Machine.execImulShort g d a b s
  | .imulh o => Sys2Proof.Machine.execImulh o s
  | .imad o => Sys2Proof.Machine.execImad o s
  | .imadShort g d a b => Sys2Proof.Machine.execImadShort g d a b s
  | .idiv o => Sys2Proof.Machine.execIdiv o s
  | .irem o => Sys2Proof.Machine.execIrem o s
  | .imin o => Sys2Proof.Machine.execImin o s
  | .iminShort g d a b => Sys2Proof.Machine.execIminShort g d a b s
  | .imax o => Sys2Proof.Machine.execImax o s
  | .imaxShort g d a b => Sys2Proof.Machine.execImaxShort g d a b s
  | .iabs o => Sys2Proof.Machine.execIabs o s
  | .ineg o => Sys2Proof.Machine.execIneg o s
  | .and o => Sys2Proof.Machine.execAnd o s
  | .andShort g d a b => Sys2Proof.Machine.execAndShort g d a b s
  | .or o => Sys2Proof.Machine.execOr o s
  | .orShort g d a b => Sys2Proof.Machine.execOrShort g d a b s
  | .xor o => Sys2Proof.Machine.execXor o s
  | .xorShort g d a b => Sys2Proof.Machine.execXorShort g d a b s
  | .not o => Sys2Proof.Machine.execNot o s
  | .shl o => Sys2Proof.Machine.execShl o s
  | .shlShort g d a b => Sys2Proof.Machine.execShlShort g d a b s
  | .shr o => Sys2Proof.Machine.execShr o s
  | .shrUsShort g d a b => Sys2Proof.Machine.execShrUsShort g d a b s
  | .shrSgShort g d a b => Sys2Proof.Machine.execShrSgShort g d a b s
  | .rot o => Sys2Proof.Machine.execRot o s
  | .popc o => Sys2Proof.Machine.execPopc o s
  | .popcShort g d b => Sys2Proof.Machine.execPopcShort g d b s
  | .clz o => Sys2Proof.Machine.execClz o s
  | .brev o => Sys2Proof.Machine.execBrev o s
  | .bfe o => Sys2Proof.Machine.execBfe o s
  | .bfi o => Sys2Proof.Machine.execBfi o s
  | .sel o => Sys2Proof.Machine.execSel o s
  | .mov o => Sys2Proof.Machine.execMov o s
  | .movShort g d b => Sys2Proof.Machine.execMovShort g d b s
  | .moviLow o => Sys2Proof.Machine.execMoviLow o s
  | .moviShort g d n => Sys2Proof.Machine.execMoviShort g d n s
  | .moviHighHalf o => Sys2Proof.Machine.execMoviHighHalf o s
  | .iset o => Sys2Proof.Machine.execIset o s
  | .isetLtSgShort g p a b => Sys2Proof.Machine.execIsetLtSgShort g p a b s
  | .isetEqShort g p a b => Sys2Proof.Machine.execIsetEqShort g p a b s
  | .isetLtUsShort g p a b => Sys2Proof.Machine.execIsetLtUsShort g p a b s
  | .isetNeShort g p a b => Sys2Proof.Machine.execIsetNeShort g p a b s
  | .plop o => Sys2Proof.Machine.execPlop o s
  | .padd o => Sys2Proof.Machine.execPadd o s
  | .paddShort g d a b => Sys2Proof.Machine.execPaddShort g d a b s
  | .iadd64Bit o => Sys2Proof.Machine.execIadd64Bit o s
  | .dp4 o => Sys2Proof.Machine.execDp4 o s
  | .fadd o => Sys2Proof.Machine.execFadd o s
  | .faddShort g d a b => Sys2Proof.Machine.execFaddShort g d a b s
  | .fsub o => Sys2Proof.Machine.execFsub o s
  | .fsubShort g d a b => Sys2Proof.Machine.execFsubShort g d a b s
  | .fmul o => Sys2Proof.Machine.execFmul o s
  | .fmulShort g d a b => Sys2Proof.Machine.execFmulShort g d a b s
  | .ffma o => Sys2Proof.Machine.execFfma o s
  | .ffmaShort g d a b => Sys2Proof.Machine.execFfmaShort g d a b s
  | .fmin o => Sys2Proof.Machine.execFmin o s
  | .fminShort g d a b => Sys2Proof.Machine.execFminShort g d a b s
  | .fmax o => Sys2Proof.Machine.execFmax o s
  | .fmaxShort g d a b => Sys2Proof.Machine.execFmaxShort g d a b s
  | .fset o => Sys2Proof.Machine.execFset o s
  | .fsetLtShort g p a b => Sys2Proof.Machine.execFsetLtShort g p a b s
  | .fsetEqShort g p a b => Sys2Proof.Machine.execFsetEqShort g p a b s
  | .fsf o => Sys2Proof.Machine.execFsf o s
  | .fsfRcpShort g d b => Sys2Proof.Machine.execFsfRcpShort g d b s
  | .fsfRsqrtShort g d b => Sys2Proof.Machine.execFsfRsqrtShort g d b s
  | .fcvt o => Sys2Proof.Machine.execFcvt o s
  | .fcvtShort g d b => Sys2Proof.Machine.execFcvtShort g d b s
  | .fcvtPack o => Sys2Proof.Machine.execFcvtPack o s
  | .icvt o => Sys2Proof.Machine.execIcvt o s
  | .icvtShort g d b => Sys2Proof.Machine.execIcvtShort g d b s
  | .pfma o => Sys2Proof.Machine.execPfma o s
  | .cfma o => Sys2Proof.Machine.execCfma o s
  | .fclass o => Sys2Proof.Machine.execFclass o s
  | .dp2 o => Sys2Proof.Machine.execDp2 o s
  | .frnd o => Sys2Proof.Machine.execFrnd o s
  | .fscl o => Sys2Proof.Machine.execFscl o s
  | .bra o => Sys2Proof.Machine.execBra o s
  | .braShort g disp => Sys2Proof.Machine.execBraShort g disp s
  | .jmp o => Sys2Proof.Machine.execJmp o s
  | .callRelative o => Sys2Proof.Machine.execCallRelative o s
  | .callRegister o => Sys2Proof.Machine.execCallRegister o s
  | .ret o => Sys2Proof.Machine.execRet o s
  | .retShort g => Sys2Proof.Machine.execRetShort g s
  | .exit o => Sys2Proof.Machine.execExit o s
  | .exitShort g => Sys2Proof.Machine.execExitShort g s
  | .nop o => Sys2Proof.Machine.execNop o s
  | .nopShort g => Sys2Proof.Machine.execNopShort g s
  | .yield o => Sys2Proof.Machine.execYield o s
  | .yieldShort g => Sys2Proof.Machine.execYieldShort g s
  | .trap o => Sys2Proof.Machine.execTrap o s
  | .brk o => Sys2Proof.Machine.execBrk o s
  | .lser o => Sys2Proof.Machine.execLser o s
  | .lsend o => Sys2Proof.Machine.execLsend o s
  | .idem o => Sys2Proof.Machine.execIdem o s
  | .idemend o => Sys2Proof.Machine.execIdemend o s
  | .waitt o => Sys2Proof.Machine.execWaitt o s
  | .tset o => Sys2Proof.Machine.execTset o s
  | .tsign o => Sys2Proof.Machine.execTsign o s
  | .tsignShort never cv => Sys2Proof.Machine.execTsignShort never cv s
  | .vote o => Sys2Proof.Machine.execVote o s
  | .lanex o => Sys2Proof.Machine.execLanex o s
  | .tred o => Sys2Proof.Machine.execTred o s
  | .tscan o => Sys2Proof.Machine.execTscan o s
  | .bar o => Sys2Proof.Machine.execBar o s
  | .barCoreShort never id => Sys2Proof.Machine.execBarCoreShort never id s
  | .barArrive o => Sys2Proof.Machine.execBarArrive o s
  | .ldKBase o => Sys2Proof.Machine.execLdKBase o s
  | .ldW32Short g d k n => Sys2Proof.Machine.execLdW32Short g d k n s
  | .ldW64Short g d k n => Sys2Proof.Machine.execLdW64Short g d k n s
  | .ldGBaseIndexed o => Sys2Proof.Machine.execLdGBaseIndexed o s
  | .stKBase o => Sys2Proof.Machine.execStKBase o s
  | .stW32Short g d k n => Sys2Proof.Machine.execStW32Short g d k n s
  | .stW64Short g d k n => Sys2Proof.Machine.execStW64Short g d k n s
  | .stGBaseIndexed o => Sys2Proof.Machine.execStGBaseIndexed o s
  | .ldacq o => Sys2Proof.Machine.execLdacq o s
  | .strel o => Sys2Proof.Machine.execStrel o s
  | .lds o => Sys2Proof.Machine.execLds o s
  | .ldsShort g d a n => Sys2Proof.Machine.execLdsShort g d a n s
  | .ldsQuadPeer o => Sys2Proof.Machine.execLdsQuadPeer o s
  | .sts o => Sys2Proof.Machine.execSts o s
  | .stsShort g d a n => Sys2Proof.Machine.execStsShort g d a n s
  | .atomHome o => Sys2Proof.Machine.execAtomHome o s
  | .atomCompareSwap o => Sys2Proof.Machine.execAtomCompareSwap o s
  | .atomMemorySide o => Sys2Proof.Machine.execAtomMemorySide o s
  | .red o => Sys2Proof.Machine.execRed o s
  | .fence o => Sys2Proof.Machine.execFence o s
  | .fencer o => Sys2Proof.Machine.execFencer o s
  | .pref o => Sys2Proof.Machine.execPref o s
  | .vset o => Sys2Proof.Machine.execVset o s
  | .vget o => Sys2Proof.Machine.execVget o s
  | .vld o => Sys2Proof.Machine.execVld o s
  | .vldShort g d a vw => Sys2Proof.Machine.execVldShort g d a vw s
  | .vst o => Sys2Proof.Machine.execVst o s
  | .vstShort g d a vw => Sys2Proof.Machine.execVstShort g d a vw s
  | .vzero o => Sys2Proof.Machine.execVzero o s
  | .reqnt o => Sys2Proof.Machine.execReqnt o s
  | .mmaFloat o => Sys2Proof.Machine.execMmaFloat o s
  | .mmaInteger o => Sys2Proof.Machine.execMmaInteger o s
  | .cmma o => Sys2Proof.Machine.execCmma o s
  | .mchb o => Sys2Proof.Machine.execMchb o s
  | .mche o => Sys2Proof.Machine.execMche o s
  | .mcopy o => Sys2Proof.Machine.execMcopy o s
  | .mtrans o => Sys2Proof.Machine.execMtrans o s
  | .lrmul o => Sys2Proof.Machine.execLrmul o s
  | .lradd o => Sys2Proof.Machine.execLradd o s
  | .lrcut o => Sys2Proof.Machine.execLrcut o s
  | .lrkeep o => Sys2Proof.Machine.execLrkeep o s
  | .lrfact o => Sys2Proof.Machine.execLrfact o s
  | .lrdense o => Sys2Proof.Machine.execLrdense o s
  | .lrmma o => Sys2Proof.Machine.execLrmma o s
  | .lrrank o => Sys2Proof.Machine.execLrrank o s
  | .lrscale o => Sys2Proof.Machine.execLrscale o s
  | .ctload o => Sys2Proof.Machine.execCtload o s
  | .ctstore o => Sys2Proof.Machine.execCtstore o s
  | .catlook o => Sys2Proof.Machine.execCatlook o s
  | .catset o => Sys2Proof.Machine.execCatset o s
  | .catinv o => Sys2Proof.Machine.execCatinv o s
  | .tileld o => Sys2Proof.Machine.execTileld o s
  | .tiledec o => Sys2Proof.Machine.execTiledec o s
  | .tilest o => Sys2Proof.Machine.execTilest o s
  | .tileap o => Sys2Proof.Machine.execTileap o s
  | .tilechk o => Sys2Proof.Machine.execTilechk o s
  | .cpy o => Sys2Proof.Machine.execCpy o s
  | .cpyMulticast o => Sys2Proof.Machine.execCpyMulticast o s
  | .fwait o => Sys2Proof.Machine.execFwait o s
  | .fwaitShort g d a => Sys2Proof.Machine.execFwaitShort g d a s
  | .fwaitMulti o => Sys2Proof.Machine.execFwaitMulti o s
  | .ftest o => Sys2Proof.Machine.execFtest o s
  | .fcancel o => Sys2Proof.Machine.execFcancel o s
  | .qcfg o => Sys2Proof.Machine.execQcfg o s
  | .qpush o => Sys2Proof.Machine.execQpush o s
  | .qpop o => Sys2Proof.Machine.execQpop o s
  | .mrcfg o => Sys2Proof.Machine.execMrcfg o s
  | .msend o => Sys2Proof.Machine.execMsend o s
  | .mwait o => Sys2Proof.Machine.execMwait o s
  | .route o => Sys2Proof.Machine.execRoute o s
  | .rret o => Sys2Proof.Machine.execRret o s
  | .rtcfg o => Sys2Proof.Machine.execRtcfg o s
  | .launch o => Sys2Proof.Machine.execLaunch o s
  | .lstat o => Sys2Proof.Machine.execLstat o s
  | .gtbr o => Sys2Proof.Machine.execGtbr o s
  | .pxch o => Sys2Proof.Machine.execPxch o s
  | .csrr o => Sys2Proof.Machine.execCsrr o s
  | .csrw o => Sys2Proof.Machine.execCsrw o s
  | .tlbinv o => Sys2Proof.Machine.execTlbinv o s
  | .btinv o => Sys2Proof.Machine.execBtinv o s
  | .sysc o => Sys2Proof.Machine.execSysc o s
  | .instructionFill coh pc => Sys2Proof.Machine.execInstructionFill coh pc s
  | .registrarMerge core => Sys2Proof.Machine.execRegistrarMerge core s
  | .podBarrierRelease part tag m => Sys2Proof.Machine.execPodBarrierRelease part tag m s
  | .launchAbort part seq => Sys2Proof.Machine.execLaunchAbort part seq s
  | .launchAcceptance part => Sys2Proof.Machine.execLaunchAcceptance part s
  | .dispatchTick => Sys2Proof.Machine.execDispatchTick s
  | .cohortComplete coh => Sys2Proof.Machine.execCohortComplete coh s
  | .save coh => Sys2Proof.Machine.execSave coh s
  | .drainTimeout coh => Sys2Proof.Machine.execDrainTimeout coh s
  | .ctrlReset part => Sys2Proof.Machine.execCtrlReset part s
  | .hostResetRequest part => Sys2Proof.Machine.execHostResetRequest part s
  | .migrationComplete m ok => Sys2Proof.Machine.execMigrationComplete m ok s
  | .copyComplete core serial => Sys2Proof.Machine.execCopyComplete core serial s
  | .tileDecodeComplete core serial => Sys2Proof.Machine.execTileDecodeComplete core serial s
  | .tileEncodeComplete core serial => Sys2Proof.Machine.execTileEncodeComplete core serial s
  | .tilechkComplete core serial => Sys2Proof.Machine.execTilechkComplete core serial s
  | .matrixOpComplete core => Sys2Proof.Machine.execMatrixOpComplete core s
  | .chainComplete core serial => Sys2Proof.Machine.execChainComplete core serial s
  | .lowRankAsyncComplete core serial => Sys2Proof.Machine.execLowRankAsyncComplete core serial s
  | .messagePlacement core serial => Sys2Proof.Machine.execMessagePlacement core serial s
  | .routeDelivery quad entry => Sys2Proof.Machine.execRouteDelivery quad entry s
  | .rretArrival core serial => Sys2Proof.Machine.execRretArrival core serial s
  | .routeTimeout quad entry => Sys2Proof.Machine.execRouteTimeout quad entry s
  | .atTimeReached core serial => Sys2Proof.Machine.execAtTimeReached core serial s
  | .waittExpiry t => Sys2Proof.Machine.execWaittExpiry t s
  | .pxchPaired core serial p half => Sys2Proof.Machine.execPxchPaired core serial p half s
  | .pxchTimeout core serial => Sys2Proof.Machine.execPxchTimeout core serial s
  | .requestRetry t => Sys2Proof.Machine.execRequestRetry t s
  | .remoteRequest src dest seq part va kind n mod data => Sys2Proof.Machine.execRemoteRequest src dest seq part va kind n mod data s
  | .remoteResend r => Sys2Proof.Machine.execRemoteResend r s
  | .remoteRequestTimeout r => Sys2Proof.Machine.execRemoteRequestTimeout r s
  | .companionRequest host ptr write order n data => Sys2Proof.Machine.execCompanionRequest host ptr write order n data s
  | .timeSync ref => Sys2Proof.Machine.execTimeSync ref s
  | .refresh ch due r => Sys2Proof.Machine.execRefresh ch due r s
  | .uncorrectableError ch row => Sys2Proof.Machine.execUncorrectableError ch row s
  | .retire ch => Sys2Proof.Machine.execRetire ch s
  | .channelRebuildDone grp => Sys2Proof.Machine.execChannelRebuildDone grp s
  | .dommapWrite off data => Sys2Proof.Machine.execDommapWrite off data s
  | .nodeidWrite v => Sys2Proof.Machine.execNodeidWrite v s
  | .mgmtWindowWrite off data => Sys2Proof.Machine.execMgmtWindowWrite off data s
  | .attestationReport => Sys2Proof.Machine.execAttestationReport s
  | .identityPublicKey => Sys2Proof.Machine.execIdentityPublicKey s
  | .mirdarCmdRefused => Sys2Proof.Machine.execMirdarCmdRefused s
  | .boot primary fallback ok => Sys2Proof.Machine.execBoot primary fallback ok s
  | .estimatorSample bw pw => Sys2Proof.Machine.execEstimatorSample bw pw s
  | .thermalThrottle temp power => Sys2Proof.Machine.execThermalThrottle temp power s
  | .thermalShutdown temp => Sys2Proof.Machine.execThermalShutdown temp s
  | .remoteAnswer h kind fault detail data => Sys2Proof.Machine.execRemoteAnswer h kind fault detail data s
  | .writeReachesHome w => Sys2Proof.Machine.execWriteReachesHome w s
  | .redAtHome r => Sys2Proof.Machine.execRedAtHome r s
  | .fabricPortTraining port up => Sys2Proof.Machine.execFabricPortTraining port up s
  | .podJoin ref => Sys2Proof.Machine.execPodJoin ref s
  | .throttleEnd temp power => Sys2Proof.Machine.execThrottleEnd temp power s
  | .blockReencryptionDone b => Sys2Proof.Machine.execBlockReencryptionDone b s
  | .portKeyInstall port => Sys2Proof.Machine.execPortKeyInstall port s

end Sys2Proof.Machine
end

