-- ==== Sys2Proof/Machine/Turns.lean ====
section
/-! DEFINITION. The turn of whoever acts next, and which predictions of loads stand (R202). -/

namespace Sys2Proof.Machine

/-- Whoever acts next acts, then the step closes; a load is predicted where the test says so. -/
def State.turn (s : State) (stands : State → Bool) : Host.Outcome State Fault Refusal :=
  match s.nextTurn with
  | .quiet s1 => .next s1.closeStep
  | .look yes no => .next (if stands yes then yes.closeStep else no.closeStep)
  | .run i s1 =>
    match exec i s1 with
    | .next s2 => .next s2.closeStep
    | .fault r => .fault r
    | .refused r => .refused r

/-- Within a number of steps every predicted load has been made and committed; while one is not, further predictions stand with it (R202). -/
def commits : Nat → State → Bool
  | 0, s => !s.predicting
  | n + 1, s =>
    if !s.predicting then true
    else if s.agenda.isEmpty && s.group.isNone then false
    else match s.turn fun _ => true with
      | .next s1 => commits n s1
      | _ => false

/-- The turns that follow commit the predictions: a load takes no value that no write permitted to it supplies (R202, assumption log 11). -/
def State.certain (s : State) : Bool := commits (64 * (s.agenda.length + 1)) s.closeStep

end Sys2Proof.Machine
end

