-- ==== Sys2Proof/Machine/Step.lean ====
section
/-! DEFINITION. One step of the machine: whoever acts next acts, then the step closes. -/

namespace Sys2Proof.Machine

/-- One step: an instruction of one thread, or an event, or a quiet cycle (assumption log 2 to 4). -/
def step (s : State) : Host.Outcome State Fault Refusal := s.turn State.certain

/-- The state with an instruction's bytes stored where the next step fetches (assumption log 10). -/
def State.withFetchWord (s : State) (nbits w : Nat) : State := s.withCode (toLE (max (nbits / 8) 12) w)

end Sys2Proof.Machine
end

