-- ==== Sys2Proof/Safety.lean ====
section
/-! DEFINITION. What counts as a safe run, the well-formedness that every step keeps, and the terms in which the obligations speak of one instruction. -/

namespace Sys2Proof.Machine

/-- A state reached from `s` by steps that all answer a next state. -/
inductive Reaches : State → State → Prop where
  | refl (s : State) : Reaches s s
  | step {a b c : State} : Reaches a b → Machine.step b = .next c → Reaches a c

/-- The byte stores keep their canonical form. -/
def State.wf (s : State) : Prop := Memory.wf s.mem = true ∧ Memory.wf s.window = true

/-- A run is safe: no step of it stops. -/
def SafeFrom (s : State) : Prop := ∀ t, Reaches s t → ∃ u, Machine.step t = .next u

/-- How often a thread stands in the Registrar's entries, the ready queue and the open issue group. -/
def State.standings (s : State) (t : Nat) : Nat :=
  (s.registrar.flatMap (·.tids)).count t + s.readyq.count t + ((s.group.map (·.left)).getD []).count t

/-- Between steps no thread executes; each ready thread of a cohort that runs stands in exactly one place of issue and every other thread in none; `listed` says
which place it is; and an entry lists only threads of its core and cohort at its PC (R30). -/
def State.Listed (s : State) : Prop :=
  s.cur = none ∧ ∀ t, t < s.threads.length →
    s.standings t = (if s.stands t then 1 else 0)
    ∧ ((s.th t).listed = .registrar ↔ (∃ e ∈ s.registrar, t ∈ e.tids) ∨ t ∈ s.readyq)
    ∧ ((s.th t).listed = .issuing ↔ ∃ g, s.group = some g ∧ t ∈ g.left)
    ∧ ∀ e ∈ s.registrar, t ∈ e.tids → e.core = (s.co (s.th t).coh).core ∧ e.coh = (s.th t).coh ∧ e.pc = (s.th t).pc

/-- Thread `t` executes: the thread and its cohort are in the tables. -/
abbrev State.Runs (s : State) (t : Nat) : Prop := s.cur = some t ∧ t < s.threads.length ∧ (s.th t).coh < s.cohorts.length

/-- Thread `t` executes a word whose guard is true (R85), that names no register at or beyond GREGS (R55), that does not have to come after an earlier RED of the thread
that another device has not answered or that its home refuses for now (R22, R390), and none of whose sources holds a pending future (R74). -/
abbrev State.Ready (s : State) (t op : Nat) (o : Canon) : Prop :=
  s.Runs t ∧ (s.th t).guard o.guard = true ∧ regBound (s.co (s.th t).coh).gregs (namedRegs op o) = none
    ∧ s.redsHold t op o = none ∧ ((sourceRegs op o).all fun r => !((s.redsDone t op o).th t).isPend r) = true

/-- The thread goes on after its instruction has had its effect: answers it has used are dropped, and its PC moves as the flow says (R76, R77). -/
def State.after (s : State) (t : Nat) (o : Canon) (fl : Flow) : State := (s.dropAnswers (.thread t)).goOn t o.len.toNat fl

/-- From every state in which the thread is ready to execute it, the instruction completes with this effect and goes on in this way; an instruction that comes after the
thread's earlier REDs does so from the state that they leave (R390). -/
def Does (i : Instr) (op : Nat) (o : Canon) (fl : State → Flow) (f : State → State) : Prop :=
  ∀ s t, s.Ready t op o → exec i s = .next ((f (s.redsDone t op o)).after t o (fl (s.redsDone t op o)))

/-- From every state in which the thread is ready to execute it, and for every effect that `pre` allows there, the instruction completes with that
effect and the thread goes on as `fl` says. -/
def Performs (i : Instr) (op : Nat) (o : Canon) (fl : Flow) (pre : State → State → Prop) : Prop :=
  ∀ s t s2, s.Ready t op o → pre (s.redsDone t op o) s2 → exec i s = .next (s2.after t o fl)

/-- The instruction completes with this effect at the fall-through. -/
def Computes (i : Instr) (op : Nat) (o : Canon) (f : State → State) : Prop := Does i op o (fun _ => .fall) f

/-- The 32-bit integer written for an exact value: saturated under SAT, else its low 32 bits (R107, R121, R334). -/
def written32 (sat sg : Bool) (x : Int) : Word :=
  let lo : Int := if sg then -(2 ^ 31) else 0
  let hi : Int := if sg then 2 ^ 31 - 1 else 2 ^ 32 - 1
  BitVec.ofInt 32 (if sat then max lo (min hi x) else x)

/-- The 64-bit integer written for an exact value (R335). -/
def written64 (sat sg : Bool) (x : Int) : DWord :=
  let lo : Int := if sg then -(2 ^ 63) else 0
  let hi : Int := if sg then 2 ^ 63 - 1 else 2 ^ 64 - 1
  BitVec.ofInt 64 (if sat then max lo (min hi x) else x)

/-- A 32-bit value as int32 under `sg`, else as uint32 (R334). -/
def int32 (sg : Bool) (v : Word) : Int := if sg then v.toInt else v.toNat

/-- A 64-bit value as int64 under `sg`, else as uint64 (R335). -/
def int64 (sg : Bool) (v : DWord) : Int := if sg then v.toInt else v.toNat

/-- The integer instruction writes this exact value of its operands, under the SG and SAT of its mod field (R333, R334). -/
def Integer (i : Instr) (op : Nat) (o : Canon) (x : Int → Int → Int → Int) : Prop :=
  let sg := o.mod.getLsbD 0
  Computes i op o fun s => s.put32 o.d (written32 (o.mod.getLsbD 1) sg (x (int32 sg (s.a32 o)) (int32 sg (s.b32 o)) (int32 sg (s.c32 o))))

/-- A CMP B by the CMP field of ISET (R333). -/
def cmpHolds (code : Nat) (a b : Int) : Bool :=
  match code with
  | 0 => decide (a = b)
  | 1 => decide (a ≠ b)
  | 2 => decide (a < b)
  | 3 => decide (a ≤ b)
  | 4 => decide (a > b)
  | _ => decide (a ≥ b)

/-- ISET writes 1 or 0 as the comparison holds (R333, R334). -/
def Compares (i : Instr) (op : Nat) (o : Canon) : Prop :=
  let sg := o.mod.getLsbD 0
  Computes i op o fun s => s.put32 o.d (if cmpHolds (o.mod.toNat / 16 % 8) (int32 sg (s.a32 o)) (int32 sg (s.b32 o)) then 1#32 else 0#32)

/-- A logic instruction writes `f32` of its 32-bit operands, or with W64 `f64` of its 64-bit operands, imm32 zero-extended (R289). -/
def Bitwise (i : Instr) (op : Nat) (o : Canon) (f32 : Word → Word → Word) (f64 : DWord → DWord → DWord) : Prop :=
  Computes i op o fun s =>
    if o.mod.getLsbD 2 then s.put64 o.d (f64 (s.a64 o false) (s.b64 o false)) else s.put32 o.d (f32 (s.a32 o) (s.b32 o))

/-- The exact value of an FP32 operand after flushing (R110). -/
def fpIn (ftz : Bool) (v : Nat) : FNum := FF.fp32.value (FF.fp32.flushIn ftz v)

/-- An exact value rounded once to FP32, with its flags: NV also for an invalid operation and for a signalling NaN among the operands (R110, R117,
R121). -/
def rounded (mode : Rm) (ftz : Bool) (x : FNum) (invalid : Bool) (ops : List Nat) : Nat × Flags :=
  let r := FF.fp32.flushOut ftz (roundNum .fp32 mode false x)
  (r.1, ops.foldl (fun f v => f ||| FF.fp32.snanFlag v) r.2 ||| flagIf invalid NV)

/-- The instruction writes an FP32 result, raises the flags met, and goes on (R117, R319). -/
def Floats (i : Instr) (op : Nat) (o : Canon) (f : State → Nat × Flags) : Prop :=
  Computes i op o fun s => (s.put32 o.d (BitVec.ofNat 32 (f s).1)).raise (f s).2

/-- A load of 2^W bytes from an aligned address that the port admits writes them to d, extended under SG (R348). -/
def Loads (i : Instr) (op : Nat) (o : Canon) (indexed : Bool) : Prop :=
  Performs i op o .fall fun s s2 =>
    ptrOff (s.memAddr o indexed) % 2 ^ wOf o = 0
    ∧ ∃ bytes ws s1, s.readMem s.tctx (s.memAddr o indexed) (2 ^ wOf o) (min (2 ^ wOf o) 8) = .ok (bytes, ws, s1)
      ∧ s2 = s1.deliver o.d (wOf o) (o.mod.getLsbD 3) bytes

/-- A store of 2^W bytes of its data registers to an aligned address that the port admits (R405). -/
def Stores (i : Instr) (op : Nat) (o : Canon) (indexed : Bool) : Prop :=
  Performs i op o .fall fun s s2 =>
    ptrOff (s.memAddr o indexed) % 2 ^ wOf o = 0
    ∧ s.writeMem s.tctx (s.memAddr o indexed) (s.storeData o.d (wOf o)) (min (2 ^ wOf o) 8) = .ok s2

/-- The offset of a scratchpad access (R351, R407). -/
def State.scrOff (s : State) (o : Canon) : Nat := (s.a32 o + o.imm).toNat

/-- A load from the cohort's own scratchpad (R351). -/
def ScratchLoads (i : Instr) (op : Nat) (o : Canon) : Prop :=
  Performs i op o .fall fun s s2 =>
    s.scrOff o % 2 ^ wOf o = 0 ∧ s.cco.scrFail (s.scrOff o) (2 ^ wOf o) = none ∧ s.cco.place ≠ .gone
    ∧ s2 = (let r := s.scrRead (.thread s.me) s.cco.uid (s.scrOff o) (2 ^ wOf o) (min (2 ^ wOf o) 8)
            r.2.deliver o.d (wOf o) (o.mod.getLsbD 3) r.1)

/-- A store to the cohort's own scratchpad (R407). -/
def ScratchStores (i : Instr) (op : Nat) (o : Canon) : Prop :=
  Performs i op o .fall fun s s2 =>
    s.scrOff o % 2 ^ wOf o = 0 ∧ s.cco.scrFail (s.scrOff o) (2 ^ wOf o) = none
    ∧ s2 = s.scrWrite (.thread s.me) s.cco.uid (s.scrOff o) (s.storeData o.d (wOf o)) (min (2 ^ wOf o) 8)

/-- The engine command queue of the thread's core has room (R222). -/
def State.queueRoom (s : State) : Prop := (s.ops.filter fun x => x.core == s.cco.core && x.holdsEntry).length < 32

/-- A new operation is issued: its handle goes to d (R212, R214). -/
def State.issued (s : State) (kind : Nat) (entry : Bool) (phase : Phase) (start : DWord) (d : BitVec 8) (body : OpBody) : State :=
  (s.fork kind entry phase start body).2.putFuture d (s.fork kind entry phase start body).1

/-- For the opcode of a team instruction: the field that names the convergence register (3 b, 4 c), and whether the team must be lane-complete (R37, R39). -/
def teamForm : Nat → Option (Nat × Bool)
  | 0x51 => some (3, false)
  | 0x53 => some (4, true)
  | 0x4A | 0x52 | 0x54 | 0x55 | 0x85 | 0x90 | 0x91 | 0x92 | 0x93 | 0x94 => some (4, false)
  | 0xA0 | 0xA1 | 0xA2 | 0xA3 | 0xA4 | 0xA5 | 0xA6 | 0xA7 | 0xA8 => some (4, false)
  | _ => none

/-- The instruction's convergence register. -/
def cvOf (cvf : Nat) (o : Canon) : Nat := cvIdx (if cvf = 3 then o.b else o.c)

/-- The state in which thread `t` has signed at its cohort's register `i` with the values it supplies, and is blocked there (R37). -/
def State.signs (s : State) (t op : Nat) (o : Canon) (i : Nat) (vals : List Nat) : State :=
  let coh := (s.th t).coh
  let p := ((s.co coh).point i).getD { pc := (s.th t).pc.toNat, op := op, word := o, signed := [] }
  (s.setCo coh ((s.co coh).setPoint i (some { p with signed := ((s.th t).tid, vals) :: p.signed.filter fun x => x.1 != (s.th t).tid }))).block t (.team i)

/-- The signing point of a register of thread `t`'s cohort; an empty one where none is open. -/
def State.pointOf (s : State) (t i : Nat) : SignPt := ((s.co (s.th t).coh).point i).getD { pc := 0, op := 0, word := ⟨0, 0, 0, 0, 0, 0, 0, 0⟩, signed := [] }

/-- A team instruction (R37, R38): a member that may sign signs and blocks; when every member has signed or exited and the effect `eff` of the
signed members answers a state, the point closes and those members go on, or stay where the effect has placed them, or take the fault that it ends in. -/
def TeamRuns (i : Instr) (op : Nat) (o : Canon) (cvf : Nat) (all : Bool) (vals : State → List Nat) (eff : TeamCtx → State → TeamOut → Prop) : Prop :=
  let n := cvOf cvf o
  ∀ s0 t, s0.Ready t op o →
    let s := s0.redsDone t op o
    s.signFail t op n (s.cval cvf n) all = none →
    let coh := (s.th t).coh
    let s1 := s.signs t op o n (vals s)
    let p := s1.pointOf t n
    (s1.allSigned coh n p = false → exec i s0 = .next (s1.after t o .placed))
    ∧ (s1.allSigned coh n p = true → ∀ t0 ts out,
        s1.signedOf coh n p = t0 :: ts → eff { coh := coh, cv := n, pt := p, ms := t0 :: ts } { s1 with cur := some t0 } out →
        exec i s0 = .next ((match out with
          | .resume s2 => (((s2.dropAnswers (.thread t0)).closePoint coh n).resumeAll (t0 :: ts) p.word.len.toNat)
          | .placed s2 => (s2.dropAnswers (.thread t0)).closePoint coh n
          | .faults s2 code detail => (({ s2 with cur := s1.cur }.dropAnswers (.thread t0)).closePoint coh n).takeFaults (t0 :: ts) code detail).after t o
            .placed))

/-- A team instruction's fault (R37, R171): when every member has signed or exited and the effect of the signed members ends in a fault, the point closes and each of
them takes it. -/
def TeamFaults (i : Instr) (op : Nat) (o : Canon) (cvf : Nat) (all : Bool) (vals : State → List Nat) (eff : TeamCtx → State → Nat → DWord → Prop) : Prop :=
  let n := cvOf cvf o
  ∀ s0 t, s0.Ready t op o →
    let s := s0.redsDone t op o
    s.signFail t op n (s.cval cvf n) all = none →
    let coh := (s.th t).coh
    let s1 := s.signs t op o n (vals s)
    let p := s1.pointOf t n
    s1.allSigned coh n p = true → ∀ t0 ts code detail,
      s1.signedOf coh n p = t0 :: ts → eff { coh := coh, cv := n, pt := p, ms := t0 :: ts } { s1 with cur := some t0 } code detail →
      exec i s0 = .next ((((s1.dropAnswers (.thread t0)).closePoint coh n).takeFaults (t0 :: ts) code detail).after t o .placed)

/-- The bytes that a write of placed bytes may change: their own, and those of the 4 KiB blocks that hold its encrypted lines, which come under a key of the
partition with new counters (R281). -/
def Touches (ls : List Loc) (k : Nat) : Prop := k ∈ keysOf ls ∨ ∃ l ∈ ls, l.enc = true ∧ k / 2 ^ 12 = (2 ^ 56 + (l.key - 2 ^ 56)) / 2 ^ 12

/-- What an instruction of thread `t` leaves as it was: every byte but those that `stored` admits, with the byte store in its canonical form; every general register but
those in `dest`; the thread's predicates, mode and exception registers; its cohort but for view registers; every other thread and cohort; and the operations,
launches, partitions, rings and the management window. -/
def Frame (s s' : State) (t : Nat) (stored : Nat → Prop) (dest : List Nat) : Prop :=
  let th := s.th t
  let th' := s'.th t
  (∀ k, ¬ stored k → Memory.get s'.mem k = Memory.get s.mem k) ∧ Memory.wf s'.mem = true
  ∧ (∀ r, r ∉ dest → th'.gv r = th.gv r ∧ th'.isPend r = th.isPend r)
  ∧ th'.p = th.p ∧ th.fstat &&& th'.fstat = th.fstat ∧ th'.rmode = th.rmode ∧ th'.fcode = th.fcode ∧ th'.fpc = th.fpc ∧ th'.fdetail = th.fdetail
  ∧ th'.region = th.region ∧ (∀ u, u ≠ t → s'.th u = s.th u) ∧ (∀ c, c ≠ th.coh → s'.co c = s.co c)
  ∧ { s'.co th.coh with vw := (s.co th.coh).vw, unext := (s.co th.coh).unext } = s.co th.coh
  ∧ s'.ops = s.ops ∧ s'.launches = s.launches ∧ s'.parts = s.parts ∧ s'.rings = s.rings ∧ s'.window = s.window

end Sys2Proof.Machine
end

