-- ==== Sys2Proof/Certificates/Slice0/Obligations.lean ====
section
/-! DEFINITION. The statements about the model, for the provers. `Does`, `Performs`, `Computes` and their like (Sys2Proof/Safety.lean) say that an
instruction completes: from every state in which a thread is ready to execute it, `exec` answers the next state that the statement spells out whole, so
everything that the statement does not name is unchanged. -/

section

open Sys2Proof Sys2Proof.Machine

/-- O1. The bytes that the spec gives for IADD g5, g3, -2, (!p2) IADD g5, g3, 1000, IMAD g4, g5, 7, TSIGN cv2, LD.w32 g2, [k0 + g1*4] and ST.w32 g2,
[k0 + 8] decode to these instructions. -/
def Obligations.SampleWordsDecode : Prop :=
  decode [0x00#8, 0x50#8, 0x0C#8, 0xDD#8] = .ok (.iaddShort 0 5 3 0xDD, [])
  ∧ decode [0x02#8, 0x68#8, 0xC1#8, 0xC0#8, 0x3F#8, 0#8, 0#8, 0#8, 0xE8#8, 0x03#8, 0#8, 0#8]
      = .ok (.iadd ⟨2, 0xA, 5, 3, 0xFF, 0, 0, 1000⟩, [])
  ∧ decode [0x0C#8, 0x40#8, 0x14#8, 0xE6#8] = .ok (.imadShort 0 4 5 0xE6, [])
  ∧ decode [0xB0#8, 0#8, 0#8, 0x7A#8] = .ok (.tsignShort false 2, [])
  ∧ decode [0x85#8, 0x81#8, 0x00#8, 0x50#8, 0x00#8, 0x80#8, 0x40#8, 0x00#8] = .ok (.ldGBaseIndexed ⟨1, 0, 2, 0x40, 1, 0, 0x102, 0⟩, [])
  ∧ decode [0x98#8, 0x20#8, 0x00#8, 0x02#8] = .ok (.stW32Short 0 2 0 2, [])

/-- O2. For every well-formed instruction of a thread, long or short, with every operand at every value that its encoding admits, the decoder reads
its encoded bytes back as the same instruction and leaves the bytes that follow. -/
def Obligations.DecodeInvertsEncode : Prop :=
  ∀ (i : Instr) (rest : List Byte), i.wellFormed = true → isEvent i = false → decode (encode i ++ rest) = .ok (i, rest)

/-- O3. When the decoder answers an instruction, that instruction is a well-formed instruction of a thread, and its encoding followed by the rest is
the bytes that were read: no bit of an accepted word is dropped. -/
def Obligations.DecodeGivesTheWordBack : Prop :=
  ∀ (bs : List Byte) (i : Instr) (rest : List Byte), decode bs = .ok (i, rest) →
    i.wellFormed = true ∧ isEvent i = false ∧ encode i ++ rest = bs

/-- O4. A short word with an opcode from 0x30 on and a long word with an unassigned opcode are refused as ILLEGAL_OPCODE with that opcode, and a word
with length code 3 as ILLEGAL_ENCODING with REASON 1, FIELD 8 and LEN 3, each with its guard. -/
def Obligations.UnassignedOpcodesRefused : Prop :=
  ∀ (b0 b1 b2 b3 : Byte) (rest : List Byte),
    let w := leNat [b0, b1, b2, b3]
    let unassigned (n : Nat) : Prop := (0x31 ≤ n ∧ n ≤ 0x3F) ∨ n = 0x4F ∨ (0x58 ≤ n ∧ n ≤ 0x5F) ∨ (0x70 ≤ n ∧ n ≤ 0x7F) ∨ (0x86 ≤ n ∧ n ≤ 0x8F)
      ∨ (0x97 ≤ n ∧ n ≤ 0x9F) ∨ (0xA9 ≤ n ∧ n ≤ 0xAF) ∨ (0xBA ≤ n ∧ n ≤ 0xBF) ∨ (0xCC ≤ n ∧ n ≤ 0xCF) ∨ (0xD7 ≤ n ∧ n ≤ 0xDF) ∨ 0xE5 ≤ n
    (w % 4 = 0 → 0x30 ≤ w / 4 % 64 → decode (b0 :: b1 :: b2 :: b3 :: rest) = .error (.illegalOpcode (w / 4 % 64) true (BitVec.ofNat 4 (w / 2 ^ 8))))
    ∧ (w % 4 ≠ 0 → w % 4 ≠ 3 → 4 * (w % 4) ≤ rest.length → unassigned (w / 4 % 256) →
        decode (b0 :: b1 :: b2 :: b3 :: rest) = .error (.illegalOpcode (w / 4 % 256) false (BitVec.ofNat 4 (w / 2 ^ 10))))
    ∧ (w % 4 = 3 → decode (b0 :: b1 :: b2 :: b3 :: rest) = .error (.illegalEncoding 1 8 3 (BitVec.ofNat 4 (w / 2 ^ 10))))

/-- O5. Each short instruction executes as the opcode, operand selectors, mod value and imm32 that its row of the short opcode table names, with the
displacement and counts scaled as the row says. -/
def Obligations.ShortFormsExpand : Prop :=
  ∀ (g : BitVec 4) (d a : BitVec 6) (b : BitVec 8) (p : BitVec 3) (k : BitVec 5) (disp : BitVec 20) (never : Bool) (cv : BitVec 3) (id vw : BitVec 4),
    canonOf (.iaddShort g d a b) = some (0x00, ⟨0, g, d.setWidth 8, a.setWidth 8, b, 0, 0, 0⟩)
    ∧ canonOf (.isubShort g d a b) = some (0x01, ⟨0, g, d.setWidth 8, a.setWidth 8, b, 0, 0, 0⟩)
    ∧ canonOf (.imulShort g d a b) = some (0x02, ⟨0, g, d.setWidth 8, a.setWidth 8, b, 0, 0, 0⟩)
    ∧ canonOf (.imadShort g d a b) = some (0x04, ⟨0, g, d.setWidth 8, a.setWidth 8, b, d.setWidth 8, 0, 0⟩)
    ∧ canonOf (.iminShort g d a b) = some (0x07, ⟨0, g, d.setWidth 8, a.setWidth 8, b, 0, 1, 0⟩)
    ∧ canonOf (.imaxShort g d a b) = some (0x08, ⟨0, g, d.setWidth 8, a.setWidth 8, b, 0, 1, 0⟩)
    ∧ canonOf (.andShort g d a b) = some (0x0B, ⟨0, g, d.setWidth 8, a.setWidth 8, b, 0, 0, 0⟩)
    ∧ canonOf (.orShort g d a b) = some (0x0C, ⟨0, g, d.setWidth 8, a.setWidth 8, b, 0, 0, 0⟩)
    ∧ canonOf (.xorShort g d a b) = some (0x0D, ⟨0, g, d.setWidth 8, a.setWidth 8, b, 0, 0, 0⟩)
    ∧ canonOf (.shlShort g d a b) = some (0x0F, ⟨0, g, d.setWidth 8, a.setWidth 8, b, 0, 0, 0⟩)
    ∧ canonOf (.shrUsShort g d a b) = some (0x10, ⟨0, g, d.setWidth 8, a.setWidth 8, b, 0, 0, 0⟩)
    ∧ canonOf (.shrSgShort g d a b) = some (0x10, ⟨0, g, d.setWidth 8, a.setWidth 8, b, 0, 1, 0⟩)
    ∧ canonOf (.movShort g d b) = some (0x18, ⟨0, g, d.setWidth 8, 0, b, 0, 0, 0⟩)
    ∧ canonOf (.moviShort g d b) = some (0x19, ⟨0, g, d.setWidth 8, 0, 0, 0, 0, b.setWidth 32⟩)
    ∧ canonOf (.isetLtSgShort g p a b) = some (0x1B, ⟨0, g, 0x60 + p.setWidth 8, a.setWidth 8, b, 0, 0x21, 0⟩)
    ∧ canonOf (.isetEqShort g p a b) = some (0x1B, ⟨0, g, 0x60 + p.setWidth 8, a.setWidth 8, b, 0, 0x00, 0⟩)
    ∧ canonOf (.isetLtUsShort g p a b) = some (0x1B, ⟨0, g, 0x60 + p.setWidth 8, a.setWidth 8, b, 0, 0x20, 0⟩)
    ∧ canonOf (.isetNeShort g p a b) = some (0x1B, ⟨0, g, 0x60 + p.setWidth 8, a.setWidth 8, b, 0, 0x10, 0⟩)
    ∧ canonOf (.paddShort g d a b) = some (0x1D, ⟨0, g, d.setWidth 8, a.setWidth 8, b, 0, 0, 0⟩)
    ∧ canonOf (.popcShort g d b) = some (0x12, ⟨0, g, d.setWidth 8, 0, b, 0, 0, 0⟩)
    ∧ canonOf (.faddShort g d a b) = some (0x20, ⟨0, g, d.setWidth 8, a.setWidth 8, b, 0, 0, 0⟩)
    ∧ canonOf (.fsubShort g d a b) = some (0x21, ⟨0, g, d.setWidth 8, a.setWidth 8, b, 0, 0, 0⟩)
    ∧ canonOf (.fmulShort g d a b) = some (0x22, ⟨0, g, d.setWidth 8, a.setWidth 8, b, 0, 0, 0⟩)
    ∧ canonOf (.ffmaShort g d a b) = some (0x23, ⟨0, g, d.setWidth 8, a.setWidth 8, b, d.setWidth 8, 0, 0⟩)
    ∧ canonOf (.fminShort g d a b) = some (0x24, ⟨0, g, d.setWidth 8, a.setWidth 8, b, 0, 0, 0⟩)
    ∧ canonOf (.fmaxShort g d a b) = some (0x25, ⟨0, g, d.setWidth 8, a.setWidth 8, b, 0, 0, 0⟩)
    ∧ canonOf (.fsetLtShort g p a b) = some (0x26, ⟨0, g, 0x60 + p.setWidth 8, a.setWidth 8, b, 0, 0x20, 0⟩)
    ∧ canonOf (.fsetEqShort g p a b) = some (0x26, ⟨0, g, 0x60 + p.setWidth 8, a.setWidth 8, b, 0, 0x00, 0⟩)
    ∧ canonOf (.fsfRcpShort g d b) = some (0x27, ⟨0, g, d.setWidth 8, 0, b, 0, 0x00, 0⟩)
    ∧ canonOf (.fsfRsqrtShort g d b) = some (0x27, ⟨0, g, d.setWidth 8, 0, b, 0, 0x10, 0⟩)
    ∧ canonOf (.icvtShort g d b) = some (0x2A, ⟨0, g, d.setWidth 8, 0, b, 0, 0, 0⟩)
    ∧ canonOf (.fcvtShort g d b) = some (0x28, ⟨0, g, d.setWidth 8, 0, b, 0, 0x10, 0⟩)
    ∧ canonOf (.braShort g disp) = some (0x40, ⟨0, g, 0, 0, 0, 0, 0, BitVec.ofInt 32 (4 * disp.toInt)⟩)
    ∧ canonOf (.retShort g) = some (0x44, ⟨0, g, 0, 0, 0, 0, 0, 0⟩)
    ∧ canonOf (.exitShort g) = some (0x45, ⟨0, g, 0, 0, 0, 0, 0, 0⟩)
    ∧ canonOf (.nopShort g) = some (0x46, ⟨0, g, 0, 0, 0, 0, 0, 0⟩)
    ∧ canonOf (.yieldShort g) = some (0x47, ⟨0, g, 0, 0, 0, 0, 0, 0⟩)
    ∧ canonOf (.ldW32Short g d k b) = some (0x60, ⟨0, g, d.setWidth 8, 0x40 + k.setWidth 8, 0, 0, 2, 4 * b.setWidth 32⟩)
    ∧ canonOf (.stW32Short g d k b) = some (0x62, ⟨0, g, d.setWidth 8, 0x40 + k.setWidth 8, 0, 0, 2, 4 * b.setWidth 32⟩)
    ∧ canonOf (.ldsShort g d a b) = some (0x66, ⟨0, g, d.setWidth 8, a.setWidth 8, 0, 0, 2, 4 * b.setWidth 32⟩)
    ∧ canonOf (.stsShort g d a b) = some (0x68, ⟨0, g, d.setWidth 8, a.setWidth 8, 0, 0, 2, 4 * b.setWidth 32⟩)
    ∧ canonOf (.ldW64Short g d k b) = some (0x60, ⟨0, g, d.setWidth 8, 0x40 + k.setWidth 8, 0, 0, 3, 8 * b.setWidth 32⟩)
    ∧ canonOf (.stW64Short g d k b) = some (0x62, ⟨0, g, d.setWidth 8, 0x40 + k.setWidth 8, 0, 0, 3, 8 * b.setWidth 32⟩)
    ∧ canonOf (.fwaitShort g d a) = some (0xC2, ⟨0, g, d.setWidth 8, a.setWidth 8, 0, 0, 0, 0⟩)
    ∧ canonOf (.tsignShort never cv) = some (0x51, ⟨0, if never then 8 else 0, 0, 0, 0x78 + cv.setWidth 8, 0, 0, 0⟩)
    ∧ canonOf (.barCoreShort never id) = some (0x56, ⟨0, if never then 8 else 0, 0, 0, 0, 0, id.setWidth 18, 0⟩)
    ∧ canonOf (.vldShort g d a vw) = some (0x82, ⟨0, g, d.setWidth 8, a.setWidth 8, 0x68 + vw.setWidth 8, 0, 0, 0⟩)
    ∧ canonOf (.vstShort g d a vw) = some (0x83, ⟨0, g, d.setWidth 8, a.setWidth 8, 0x68 + vw.setWidth 8, 0, 0, 0⟩)

/-- O6. When an issue group is open and its next member is ready and fetches instruction i, the step is exec of i for that member, followed by the
close of the step (group end, relisting, the cycle tick); with no group, an event at the head of the model's agenda is run in the same way, and a core
at its head opens a group of that core's oldest entry (the agenda is the model's own, assumption log 2 and 3). A load is predicted only where the turns
that follow commit the prediction (assumption log 11). A member that reaches a marked word takes the word's
fault, whatever its guard is, but for guard 0b1000, which makes the word a no-operation unless it was marked because its bytes cannot be fetched. -/
def Obligations.StepRunsTheFetchedInstruction : Prop :=
  (∀ (s s1 : State) (g : Group) (t : Nat) (rest : List Nat) (i : Instr) (len : Nat),
    s.group = some g → g.left = t :: rest →
    let s0 : State := { s with group := some { g with left := rest } }
    (s0.th t).run = .ready → (s0.th t).listed = .issuing → s0.fetch t = .word (.ins i) len s1 →
    step s = match exec i { s1 with cur := some t } with
      | .next s2 => .next s2.closeStep
      | .fault r => .fault r
      | .refused r => .refused r)
  ∧ (∀ (s : State) (i : Instr) (rest : List Turn), s.group = none → s.agenda = .event i :: rest → isEvent i = true →
    step s = match exec i { s with agenda := rest, cur := none } with
      | .next s2 => .next s2.closeStep
      | .fault r => .fault r
      | .refused r => .refused r)
  ∧ (∀ (s : State) (c : Nat) (rest : List Turn) (e : RegEntry), s.group = none → s.agenda = .core c :: rest →
    ({ s with agenda := rest } : State).oldest (fun x => x.core == c) = some e →
    s.nextTurn = (({ s with agenda := rest } : State).form e).issueGroup)
  ∧ (∀ (s s1 : State) (g : Group) (t : Nat) (rest : List Nat) (code : Nat) (detail : DWord) (guard : BitVec 4) (unfetched : Bool) (len : Nat),
    s.group = some g → g.left = t :: rest →
    let s0 : State := { s with group := some { g with left := rest } }
    (s0.th t).run = .ready → (s0.th t).listed = .issuing → s0.fetch t = .word (.mark code detail guard unfetched) len s1 →
    (unfetched = true ∨ guard ≠ 0b1000#4 → step s = .next (s1.takeFault t code detail).closeStep)
    ∧ (unfetched = false → guard = 0b1000#4 → step s = .next (s1.goOn t len .fall).closeStep))
  ∧ (∀ (s : State) (t : Nat) (bytes : List Byte) (rest : List Turn), s.group = none → s.agenda = .predict t bytes :: rest →
    s.guess = none → s.prov.guesses = [] →
    let no : State := { s with agenda := rest }
    let yes : State := { no with guess := some (t, bytes) }
    (yes.certain = true → step s = .next yes.closeStep) ∧ (yes.certain = false → step s = .next no.closeStep)
    ∧ (yes.certain = commits (64 * (rest.length + 1)) yes.closeStep))

/-- O7. A thread's next word is the one its core's instruction cache holds for its PC. When it holds none, the 4 bytes fetched at the PC through the
memory port give the length, and the bytes after them are fetched at the PC plus 4; the instruction or the mark of R94 and R95 that they decode to is
the thread's word and goes into the cache, and bytes that the port refuses, or that lie beyond the last offset, mark the word with its fault. That every such miss fills, and that the
cache drops its oldest words beyond 4,096 for a core, are the model's choices (assumption log 26 and 65). -/
def Obligations.FetchDecodesTheBytes : Prop :=
  ∀ (s : State) (t : Nat),
    let co := s.co (s.th t).coh
    let pc := (s.th t).pc
    let c : Ctx := { agent := .thread t, part := co.part, core := some co.core, quad := quadOf co.core, seq := some co.seq }
    let known := s.fetchKnown co.part co.seq
    (∀ w, s.cached co.core co.part pc = some w → s.fetch t = .word w.word w.len s)
    ∧ (∀ k d, s.cached co.core co.part pc = none → s.fetchBytes c known pc 4 = .error (.fault k d) → s.fetch t = .word (.mark k d 0 true) 0 s)
    ∧ (∀ (b4 : List Byte) (s1 : State), s.cached co.core co.part pc = none → s.fetchBytes c known pc 4 = .ok (b4, s1) →
        let n := fillBytes (leNat (b4.take 1) % 4)
        (n ≠ 4 → 2 ^ 48 ≤ ptrOff pc + 4 → s.fetch t = .word (.mark 0x07 (mkPtr (ptrBuf pc) (2 ^ 48 - 1)) 0 true) 0 s1)
        ∧ (∀ k d, n ≠ 4 → ptrOff pc + 4 < 2 ^ 48 → s1.fetchBytes c known (ea pc 4) (n - 4) = .error (.fault k d) → s.fetch t = .word (.mark k d 0 true) 0 s1)
        ∧ (∀ (rest : List Byte) (s2 : State), (n = 4 ∧ rest = [] ∧ s2 = s1) ∨ (n ≠ 4 ∧ ptrOff pc + 4 < 2 ^ 48 ∧ s1.fetchBytes c known (ea pc 4) (n - 4) = .ok (rest, s2)) →
            let filled (w : Filled) (len : Nat) : Prop :=
              s.fetch t = .word w len (s2.cacheWord { core := co.core, part := co.part, pc := pc, len := len, word := w })
            (∀ i r, decode (b4 ++ rest) = .ok (i, r) → filled (.ins i) (lenOf i))
            ∧ (∀ opc short g, decode (b4 ++ rest) = .error (.illegalOpcode opc short g) →
                filled (.mark 0x01 (BitVec.ofNat 64 (opc + if short then 256 else 0)) g false) (n / 4 - 1))
            ∧ (∀ r f len g, decode (b4 ++ rest) = .error (.illegalEncoding r f len g) →
                filled (.mark 0x02 (BitVec.ofNat 64 (r + f * 16 + len * 256)) g false) (n / 4 - 1))))

/-- O8. No state, reachable or not, makes a step fault or refuse: every instruction, every marked word, every event and every quiet cycle has a next
state. -/
def Obligations.StepAlwaysAnswers : Prop :=
  ∀ s : State, ∃ s' : State, step s = .next s'

/-- O9. After any step from any state no thread executes; each ready thread of a cohort that runs stands in exactly one place of issue (an entry of
the Registrar, the ready queue or the open issue group) and every other thread in none; a thread is marked as listed exactly when an entry or the
ready queue has it, and as issuing exactly when the group has it still to run; an entry lists only threads of its core and cohort at its PC. -/
def Obligations.StepListsReadyThreads : Prop :=
  ∀ s s' : State, step s = .next s' → s'.Listed

/-- O10. A step keeps both byte stores, that of all memories and that of the management window, in their canonical form: keys rise, and no byte is
listed that equals what an unlisted one reads as. -/
def Obligations.StepKeepsTheStores : Prop :=
  ∀ s s' : State, s.wf → step s = .next s' → s'.wf

/-- O11. At reset UETHRESH is 4, NODEID and so %node is 0, the clock is 1.8 GHz (18 steps of 100 MHz), the cycle count is 0, all sixteen partitions
are absent and no launch exists; the state meets the invariants that steps keep. -/
def Obligations.ResetLeaves : Prop :=
  State.reset.win 0x108 1 = 4 ∧ State.reset.node = 0 ∧ State.reset.svc.clock = 18 ∧ State.reset.svc.cyc = 0
  ∧ State.reset.parts.length = 16 ∧ (∀ p, (State.reset.pa p).present = false) ∧ State.reset.launches = [] ∧ State.reset.threads = []
  ∧ State.reset.Listed ∧ State.reset.wf

/-- O12. When a cohort starts, each thread's PC is the entry, its general registers are 0 without pending tags, p0 is true and p1 to p7 false, %fstat
is 0 and %rmode RNE; the k registers hold the arguments and then 0, the views the view records and then the null view, no convergence register is
VALID, queues and code-table slots are unconfigured and %divcnt is 0. -/
def Obligations.CohortStartState : Prop :=
  (∀ (coh tid gregs : Nat) (pc : DWord) (seen : List Nat),
    let th := Thread.start coh tid gregs pc seen
    th.pc = pc ∧ (∀ n, th.gv n = 0 ∧ th.isPend n = false) ∧ th.pv 0 = true ∧ (∀ n, 0 < n → n < 8 → th.pv n = false)
    ∧ th.fstat = 0 ∧ Rm.ofBits th.rmode.toNat = .rne ∧ th.run = .ready)
  ∧ (∀ (uid lin core part seq : Nat) (r : LaunchRec) (views : List View) (args : List DWord) (cyc tid n : Nat),
    let c := Cohort.begin uid lin core part seq r views args cyc
    (∀ i, i < 32 → (c.kc i).read tid n = (args[i]?).getD 0)
    ∧ (∀ i, i < 16 → (c.vc i).read tid n = (views[i]?).getD View.null)
    ∧ (∀ i, i < 8 → ((c.cc i).read tid n).valid = false ∧ (c.tc i).read tid n = none)
    ∧ (∀ i, i < 16 → c.queues[i]? = some none)
    ∧ c.divcnt.read tid n = 0)

/-- O13. A guard is false when the predicate it names, inverted under its bit 3, is false. Every instruction whose guard is false leaves its thread
ready at the fall-through PC and changes nothing else, whatever its operands hold; BRA besides counts in its group's vote. -/
def Obligations.FalseGuardOnlyPassesOn : Prop :=
  (∀ (th : Thread) (g : BitVec 4), th.guard g = (th.pv (g.toNat % 8) != g.getLsbD 3))
  ∧ (∀ (i : Instr) (op : Nat) (o : Canon) (s : State) (t : Nat), canonOf i = some (op, o) → op ≠ 0x40 → s.cur = some t → (s.th t).guard o.guard = false →
      exec i s = .next (s.setTh t { s.th t with pc := fallPc (s.th t).pc o.len.toNat, run := .ready, listed := .no }))
  ∧ (∀ (i : Instr) (o : Canon) (s : State) (t : Nat), canonOf i = some (0x40, o) → s.cur = some t → (s.th t).guard o.guard = false →
      exec i s = .next ((s.vote o false).setTh t { s.th t with pc := fallPc (s.th t).pc o.len.toNat, run := .ready, listed := .no }))

/-- O14. An instruction whose guard is true and that names a general register at or beyond GREGS takes REG_BOUND, with the lowest such register's
number in the detail, before anything else; the detail's register is at or beyond GREGS, and there is one exactly when some named register is. -/
def Obligations.RegisterBoundFaults : Prop :=
  (∀ (i : Instr) (op : Nat) (o : Canon) (s : State) (t r f : Nat), canonOf i = some (op, o) → s.cur = some t → (s.th t).guard o.guard = true →
    regBound (s.co (s.th t).coh).gregs (namedRegs op o) = some (r, f) →
    exec i s = .next (s.trap t (.fault 0x03 (BitVec.ofNat 64 (r % 64 + f * 64)))))
  ∧ (∀ (gregs : Nat) (rs : List (Nat × Nat)),
    (∀ r f, regBound gregs rs = some (r, f) → (r, f) ∈ rs ∧ gregs ≤ r ∧ ∀ x ∈ rs, gregs ≤ x.1 → r ≤ x.1)
    ∧ (regBound gregs rs = none ↔ ∀ x ∈ rs, x.1 < gregs))

/-- O15. An instruction whose guard is true and one of whose source registers holds a pending future of an operation that has not completed blocks its
thread on that operation, with its PC and its destination unchanged, in the state that the thread's earlier REDs leave where
the instruction comes after them; a register counts so exactly when its tag is set and its handle names an
operation that is not done. Settling a register whose operation has completed leaves the status in it with the tag clear. A general-register write
clears the tag and holds the value written, a handle write sets the tag, and every other register keeps its value and its tag. -/
def Obligations.FuturesInRegisters : Prop :=
  (∀ (i : Instr) (op : Nat) (o : Canon) (s : State) (t : Nat) (w : Op), canonOf i = some (op, o) → s.cur = some t → (s.th t).guard o.guard = true →
    regBound (s.co (s.th t).coh).gregs (namedRegs op o) = none → s.redsHold t op o = none →
    let s0 := s.redsDone t op o
    (sourceRegs op o).findSome? (s0.unsettled t) = some w →
    exec i s = .next ({ s0.setTh t { s0.th t with run := .blocked (.future w.core w.serial), listed := .no, since := s0.count } with count := s0.count + 1 }))
  ∧ (∀ (s : State) (t n : Nat) (w : Op), s.unsettled t n = some w ↔
      (s.th t).isPend n = true ∧ s.findOp (hCore ((s.th t).gv n)) (hSerial ((s.th t).gv n)) = some w ∧ w.phase ≠ .done)
  ∧ (∀ (s : State) (t n : Nat) (w : Op), t < s.threads.length → n < 64 → n < (s.th t).g.length → (s.th t).isPend n = true →
    s.findOp (hCore ((s.th t).gv n)) (hSerial ((s.th t).gv n)) = some w → w.phase = .done →
    ((s.settle t n).th t).gv n = w.status ∧ ((s.settle t n).th t).isPend n = false
    ∧ ∀ m, m ≠ n → ((s.settle t n).th t).gv m = (s.th t).gv m ∧ ((s.settle t n).th t).isPend m = (s.th t).isPend m)
  ∧ (∀ (th : Thread) (n : Nat) (v : Word), n < 64 → n < th.g.length →
    (th.setG n v).gv n = v ∧ (th.setG n v).isPend n = false ∧ (th.setFuture n v).gv n = v ∧ (th.setFuture n v).isPend n = true
    ∧ ∀ m, m ≠ n → (th.setG n v).gv m = th.gv m ∧ (th.setG n v).isPend m = th.isPend m
        ∧ (th.setFuture n v).gv m = th.gv m ∧ (th.setFuture n v).isPend m = th.isPend m)

/-- O16. Every thread reads p0 as true, and a write of p0 changes nothing, without a fault. A predicate used as a 32-bit source reads as 0 or 1, and a
32-bit value written to a predicate stores its bit 0; any other predicate reads back what was written and no second predicate changes. -/
def Obligations.PredicateZeroReadsTrue : Prop :=
  (∀ th : Thread, th.pv 0 = true)
  ∧ (∀ (th : Thread) (b : Bool), th.setP 0 b = th)
  ∧ (∀ (th : Thread) (n : Nat) (b : Bool), 0 < n → n < 8 → (th.setP n b).pv n = b ∧ ∀ m, m ≠ n → (th.setP n b).pv m = th.pv m)
  ∧ (∀ (s : State) (f : Nat) (sel : BitVec 8) (imm : Word), isP sel.toNat = true →
      s.rd32 f sel imm = if s.cth.pv (sel.toNat - 0x60) then 1#32 else 0#32)
  ∧ (∀ (s : State) (sel : BitVec 8) (v : Word), isP sel.toNat = true → s.put32 sel v = s.setCth (s.cth.setP (sel.toNat - 0x60) (v.getLsbD 0)))

/-- O17. A general register reads its value and a pair its two registers, low half first; a k register reads 64 bits, or its low half as a 32-bit
source; a predicate reads 0 or 1 as a 32-bit source; a special register reads its low 32 bits; a small immediate is its selector minus 0xDF,
sign-extended; 0xFF reads imm32, sign- or zero-extended to 64 bits. A field that takes a 64-bit operand refuses predicates, special registers and every
view and convergence selector as ILLEGAL_ENCODING (reason 6). -/
def Obligations.SourceOperandsRead : Prop :=
  ∀ (s : State) (f : Nat) (sel : BitVec 8) (imm : Word) (sg : Bool),
    let n := sel.toNat
    (n < 0x40 → s.rd32 f sel imm = s.cth.gv n ∧ s.rd64 f sel imm sg = s.cth.gv (n + 1) ++ s.cth.gv n)
    ∧ (0x40 ≤ n → n < 0x60 → s.rd64 f sel imm sg = s.kval f (n - 0x40) ∧ s.rd32 f sel imm = (s.kval f (n - 0x40)).setWidth 32)
    ∧ (0x60 ≤ n → n < 0x68 → s.rd32 f sel imm = if s.cth.pv (n - 0x60) then 1#32 else 0#32)
    ∧ (0x60 ≤ n → n < 0xC0 → ∀ c ∈ [Cls.g2, .p64, .p64small, .p64ff], clsFail c n imm = some 6)
    ∧ (0x80 ≤ n → n < 0x9B → s.rd32 f sel imm = (s.special f n).setWidth 32)
    ∧ (0xC0 ≤ n → n < 0xFF → s.rd32 f sel imm = BitVec.ofInt 32 ((n : Int) - 0xDF) ∧ s.rd64 f sel imm sg = BitVec.ofInt 64 ((n : Int) - 0xDF))
    ∧ (n = 0xFF → s.rd32 f sel imm = imm ∧ s.rd64 f sel imm sg = if sg then imm.signExtend 64 else imm.setWidth 64)

/-- O18. A 32-bit result written to a general register is its value, with its tag clear; a 64-bit result fills a pair, low half in the even register;
every other general register is unchanged. A k register takes all 64 bits, a 32-bit result zero-extended, and the thread that wrote it reads the new
value from then on. -/
def Obligations.ResultsWritten : Prop :=
  ∀ (s : State) (t : Nat) (sel : BitVec 8) (v : Word) (x : DWord) (f : Nat), s.Runs t →
    let n := sel.toNat
    (n < 0x40 → n < (s.th t).g.length →
      ((s.put32 sel v).th t).gv n = v ∧ ((s.put32 sel v).th t).isPend n = false
      ∧ ∀ m, m ≠ n → ((s.put32 sel v).th t).gv m = (s.th t).gv m ∧ ((s.put32 sel v).th t).isPend m = (s.th t).isPend m)
    ∧ (n < 0x3F → n + 1 < (s.th t).g.length →
      ((s.put64 sel x).th t).gv n = x.setWidth 32 ∧ ((s.put64 sel x).th t).gv (n + 1) = (x >>> 32).setWidth 32
      ∧ ((s.put64 sel x).th t).isPend n = false ∧ ((s.put64 sel x).th t).isPend (n + 1) = false
      ∧ ∀ m, m ≠ n → m ≠ n + 1 → ((s.put64 sel x).th t).gv m = (s.th t).gv m)
    ∧ (0x40 ≤ n → n < 0x60 → n - 0x40 < (s.co (s.th t).coh).k.length →
      (s.put64 sel x).kval f (n - 0x40) = x ∧ (s.put32 sel v).kval f (n - 0x40) = v.setWidth 64)

/-- O19. A fault of a thread whose cohort has a handler, away from the handler's entry, sets %fcode, %fpc and %fdetail, puts the PC at KENTRY +
HANDLER and leaves the thread ready with everything else of it unchanged; the cohort fault record counts it and keeps the first entry; memory, the
other threads and the other cohorts are unchanged. -/
def Obligations.FaultEntersTheHandler : Prop :=
  ∀ (s : State) (t code : Nat) (detail : DWord), t < s.threads.length → (s.th t).coh < s.cohorts.length →
    let th := s.th t
    let c := s.co th.coh
    let entry := mkPtr (ptrBuf c.kentry) (ptrOff c.kentry + c.handler.toNat)
    c.handler ≠ 0xFFFFFFFF → th.pc ≠ entry →
    let s' := s.takeFault t code detail
    s'.th t = { th with fcode := BitVec.ofNat 32 code, fpc := th.pc, fdetail := detail, pc := entry, run := .ready, listed := .no }
    ∧ (∀ u, u ≠ t → s'.th u = s.th u)
    ∧ (s'.co th.coh).faults = min (c.faults + 1) (2 ^ 32 - 1)
    ∧ (∀ x, c.first = some x → (s'.co th.coh).first = some x)
    ∧ (c.first = none → ((s'.co th.coh).first.map fun x => (x.tid, x.code, x.kind, x.pc, x.detail)) = some (th.tid, code, 1, th.pc.toNat, detail))
    ∧ (∀ d, d ≠ th.coh → s'.co d = s.co d)
    ∧ s'.mem = s.mem ∧ s'.prov = s.prov ∧ s'.ops = s.ops

/-- O20. A fault without a handler, or at the handler's entry, enters the cohort fault record and stops the cohort; a launch with ABORT set is then
being aborted. Stopping a cohort stops each of its threads that has not exited, takes them out of issue, cancels its copy and tile operations, frees its core with
its holds, its pins, its rings and its unfinished matrix work, and makes all that its threads know visible as a release at .pkg does; a copy that it cancels,
held or running, a TILELD or TILECHK, a TILEDEC that has begun no write on another device, and a TILEST or TILEAP that does not hold its entry yet complete
with the status CANCELLED. That a stop empties all pins of the core is the model's reading (assumption log 29, DEDUCED), and that it leaves the matrix engine's
unfinished work undone too (log 31, DEDUCED). -/
def Obligations.UnhandledFaultStopsTheCohort : Prop :=
  let cancels (s : State) (o : Op) : Prop :=
    (∃ name v vw ahead cts, o.body = .tileLd name v vw ahead cts)
    ∨ ((∀ r ∈ s.fabric.reqs, r.agent = .op o.core o.serial → r.kind ≠ 1) ∧ ∃ name dst scr lvl cts, o.body = .tileDec name dst scr lvl cts)
    ∨ (∃ name report n cts, o.body = .tileChk name report n cts)
    ∨ (∃ multi dsp ssp mask dst src xb ny nz srs drs sps dps, o.body = .copy multi dsp ssp mask dst src xb ny nz srs drs sps dps)
    ∨ (o.phase = .running ∧ ∃ name v vw x y raw cts, o.body = .tileSt name v vw x y raw cts ∨ o.body = .tileAp name v vw x y raw cts)
  (∀ (s : State) (t code : Nat) (detail : DWord),
    let c := (s.th t).coh
    ((s.co c).handler = 0xFFFFFFFF ∨ (s.th t).pc = (s.co c).handlerPc) →
    s.takeFault t code detail =
      (((s.setCo c ((s.co c).fault (s.firstFault (s.co c) (s.th t).tid code 1 (s.th t).pc.toNat detail))).updLaunch (s.co c).part (s.co c).seq
        fun l => if bitOf l.lr.ctrl 4 then { l with aborting := true } else l).stopCohort c))
  ∧ (∀ (s : State) (c : Nat), c < s.cohorts.length → (s.co c).place ≠ .gone →
    let s' := s.stopCohort c
    (s'.co c).place = .gone ∧ (s'.co c).taken = .no ∧ (s'.co c).holds = []
    ∧ (∀ t, t < s.threads.length → (s.th t).coh = c →
        (s'.th t).run = (if (s.th t).run = .exited then .exited else .stopped) ∧ (∀ w ∈ s.knownBy (.thread t), w ∈ s'.seenBy (.hub (s.co c).part)))
    ∧ (∀ e ∈ s'.registrar, e.coh ≠ c) ∧ (∀ g, s'.group = some g → g.coh ≠ c) ∧ (∀ r ∈ s'.rings, r.coh ≠ c) ∧ (∀ m ∈ s'.matops, m.coh ≠ c)
    ∧ ((s.co c).place = .resident → ∀ p ∈ s'.pins, p.1 ≠ (s.co c).core))
  ∧ (∀ (s : State) (c : Nat), (s.co c).place ≠ .gone → ∃ s1 s5 : State, s1.ops = s.ops ∧ s1.cohorts = s.cohorts ∧ s1.fabric = s.fabric ∧ s1.mem = s.mem ∧ s1.prov = s.prov
    ∧ (∀ t, t < s.threads.length → (s.th t).coh = c → (s1.th t).run = if (s.th t).run = .exited then .exited else .stopped)
    ∧ (let s2 := ((s1.cancelCohort c).releaseCohort c).freeRings c
       let co := s2.co c
       s5.ops = s2.ops ∧ s5.mem = s2.mem ∧ s5.prov = s2.prov
       ∧ s.stopCohort c = (s5.faultLaunch co.part co.seq co.faults co.first).settleLaunch co.part co.seq))
  ∧ (∀ (s : State) (c : Nat) (o : Op), (s.ops.map fun x => (x.core, x.serial)).Nodup → s.ops.length ≤ 4096 → o ∈ s.ops → o.uid = (s.co c).uid →
    (o.kind = 0 ∨ o.kind = 2) → o.phase ≠ .done → cancels s o →
    ∃ y, (s.cancelCohort c).findOp o.core o.serial = some y ∧ y.phase = .done ∧ y.status = engStatus 0x47 0)
  ∧ (∀ (s : State) (o : Op), s.findOp o.core o.serial = some o → o.phase ≠ .done → (s.ops.filter fun y => y.core == o.core && y.phase == .done).length < 4096 →
    cancels s o →
    ∃ y, (s.cancelEngine o).findOp o.core o.serial = some y ∧ y.phase = .done ∧ y.status = engStatus 0x47 0)

/-- O21. BRA, JMP, both CALL and RET whose target offset is not a multiple of 4 take ALIGN with the target in the detail; nothing is written and the
PC is unchanged when the fault is taken. -/
def Obligations.MisalignedTargetFaults : Prop :=
  ∀ (i : Instr) (op : Nat) (o : Canon) (s : State) (t : Nat), canonOf i = some (op, o) → s.Ready t op o →
    let rel := (((ptrOff (s.th t).pc : Int) + o.imm.toInt) % (2 ^ 48 : Int)).toNat
    let reg := ptrOff (s.a64 o)
    let bad (target : Nat) : Prop := exec i s = .next (s.trap t (.fault 0x06 (mkPtr (ptrBuf (s.th t).pc) target)))
    ((op = 0x40 ∨ op = 0x42) → rel % 4 ≠ 0 → bad rel)
    ∧ ((op = 0x41 ∨ op = 0x43 ∨ op = 0x44) → reg % 4 ≠ 0 → bad reg)

/-- O22. A ready thread at a team instruction takes TEAM with cause 1 when the register is not VALID, 2 when the thread is not a member, 3 when the
register has an open signing point of another PC or instruction, 4 when LANEX names a team that is not lane-complete and 5 when LSER names a team
whose region is entered, in the state that the thread's earlier REDs leave; TSET on a register with an open signing point, region or chain takes cause 6. -/
def Obligations.TeamFaultCauses : Prop :=
  (∀ (i : Instr) (op : Nat) (o : Canon) (cvf : Nat) (all : Bool) (s0 : State) (t : Nat),
    canonOf i = some (op, o) → teamForm op = some (cvf, all) → s0.Ready t op o →
    let s := s0.redsDone t op o
    let n := cvOf cvf o
    let r := s.cval cvf n
    let co := s.co (s.th t).coh
    let member : Prop := (s.th t).slot = r.slot.toNat ∧ r.mask.getLsbD (s.th t).lane = true
    let team (cause : Nat) : Prop := exec i s0 = .next (s.trap t (.fault 0x12 (BitVec.ofNat 64 (cause + n * 16))))
    (r.valid = false → team 1)
    ∧ (r.valid = true → ¬member → team 2)
    ∧ (r.valid = true → member → co.region n = none → ∀ p, co.point n = some p → (p.pc ≠ (s.th t).pc.toNat ∨ p.op ≠ op) → team 3)
    ∧ (r.valid = true → member → co.region n = none → co.point n = none → all = true → r.mask ≠ 0xFFFFFFFF → team 4)
    ∧ (r.valid = true → member → op = 0x4A → (co.region n).isSome = true → team 5))
  ∧ (∀ (o : Canon) (s : State) (t : Nat), s.Ready t 0x50 o →
    let co := s.co (s.th t).coh
    ((co.point (cvIdx o.d)).isSome = true ∨ (co.region (cvIdx o.d)).isSome = true ∨ (co.chain (cvIdx o.d)).isSome = true) →
    exec (.tset o) s = .next (s.trap t (.fault 0x12 (BitVec.ofNat 64 (6 + cvIdx o.d * 16)))))

/-- O23. IADD, ISUB, IMUL, IMAD, IMULH, IDIV, IREM, IMIN, IMAX, IABS, INEG and ISET, long and short, complete on every operand: d receives the exact
value of the operands read under SG, saturated to the format under SAT and otherwise modulo 2^32 (ISET 1 or 0), and nothing else changes: no flag, no
fault. -/
def Obligations.IntegerResults : Prop :=
  (∀ o : Canon,
    Integer (.iadd o) 0x00 o (fun a b _ => a + b)
    ∧ Integer (.isub o) 0x01 o (fun a b _ => a - b)
    ∧ Integer (.imul o) 0x02 o (fun a b _ => a * b)
    ∧ Integer (.imulh o) 0x03 o (fun a b _ => Int.fdiv (a * b) (2 ^ 32))
    ∧ Integer (.imad o) 0x04 o (fun a b c => a * b + c)
    ∧ Integer (.idiv o) 0x05 o (fun a b _ => if b = 0 then 2 ^ 32 - 1 else a.tdiv b)
    ∧ Integer (.irem o) 0x06 o (fun a b _ => if b = 0 then a else a - b * a.tdiv b)
    ∧ Integer (.imin o) 0x07 o (fun a b _ => if a ≤ b then a else b)
    ∧ Integer (.imax o) 0x08 o (fun a b _ => if a ≤ b then b else a)
    ∧ Integer (.iabs o) 0x09 o (fun _ b _ => if b < 0 then -b else b)
    ∧ Integer (.ineg o) 0x0A o (fun _ b _ => -b)
    ∧ Compares (.iset o) 0x1B o)
  ∧ (∀ (g : BitVec 4) (d a : BitVec 6) (b : BitVec 8) (p : BitVec 3),
    Integer (.iaddShort g d a b) 0x00 (Short.alu g d a b 0) (fun a b _ => a + b)
    ∧ Integer (.isubShort g d a b) 0x01 (Short.alu g d a b 0) (fun a b _ => a - b)
    ∧ Integer (.imulShort g d a b) 0x02 (Short.alu g d a b 0) (fun a b _ => a * b)
    ∧ Integer (.imadShort g d a b) 0x04 (Short.aluC g d a b 0) (fun a b c => a * b + c)
    ∧ Integer (.iminShort g d a b) 0x07 (Short.alu g d a b 1) (fun a b _ => if a ≤ b then a else b)
    ∧ Integer (.imaxShort g d a b) 0x08 (Short.alu g d a b 1) (fun a b _ => if a ≤ b then b else a)
    ∧ Compares (.isetLtSgShort g p a b) 0x1B (Short.set g p a b 0x21)
    ∧ Compares (.isetEqShort g p a b) 0x1B (Short.set g p a b 0x00)
    ∧ Compares (.isetLtUsShort g p a b) 0x1B (Short.set g p a b 0x20)
    ∧ Compares (.isetNeShort g p a b) 0x1B (Short.set g p a b 0x10))

/-- O24. IADD (64-bit) writes A + B, or A - B with NEGB, of the 64-bit operands read under SG, saturated or modulo 2^64; DP4 writes C plus the four
products of bytes read under ASG and BSG, saturated to int32 or modulo 2^32. Nothing else changes. -/
def Obligations.WideIntegerResults : Prop :=
  ∀ o : Canon,
    Computes (.iadd64Bit o) 0x1E o (fun s =>
      let sg := o.mod.getLsbD 0
      let a := int64 sg (s.a64 o sg)
      let b := int64 sg (s.b64 o sg)
      s.put64 o.d (written64 (o.mod.getLsbD 1) sg (if o.mod.getLsbD 4 then a - b else a + b)))
    ∧ Computes (.dp4 o) 0x1F o (fun s =>
      let byte (sg : Bool) (v : Word) (e : Nat) : Int := if sg then (v.extractLsb' (8 * e) 8).toInt else (v.extractLsb' (8 * e) 8).toNat
      let p (e : Nat) : Int := byte (o.mod.getLsbD 0) (s.a32 o) e * byte (o.mod.getLsbD 1) (s.b32 o) e
      s.put32 o.d (written32 (o.mod.getLsbD 2) true ((s.c32 o).toInt + p 0 + p 1 + p 2 + p 3)))

/-- O25. PADD, long and short, completes on every operand, and for each element e of the width that EW names, the result's element is the exact sum
(difference with SUB) of the operands' elements read under SG, saturated to the element's format under SAT and otherwise modulo 2^w; nothing else
changes. -/
def Obligations.PackedAddResults : Prop :=
  ∀ (i : Instr) (o : Canon), canonOf i = some (0x1D, o) → o.mod.toNat % 4 ≠ 3 →
    let w := if o.mod.toNat % 4 = 0 then 8 else if o.mod.toNat % 4 = 1 then 16 else 4
    let sg := o.mod.getLsbD 2
    let elem (v : Word) (e : Nat) : Int :=
      let u := v.toNat / 2 ^ (w * e) % 2 ^ w
      if sg ∧ 2 ^ (w - 1) ≤ u then (u : Int) - 2 ^ w else u
    ∀ (s : State) (t : Nat), s.Ready t 0x1D o → ∃ r : Word,
      exec i s = .next ((s.put32 o.d r).after t o .fall)
      ∧ ∀ e, e < 32 / w →
        let x := if o.mod.getLsbD 4 then elem (s.a32 o) e - elem (s.b32 o) e else elem (s.a32 o) e + elem (s.b32 o) e
        let lo : Int := if sg then -(2 ^ (w - 1)) else 0
        let hi : Int := if sg then 2 ^ (w - 1) - 1 else 2 ^ w - 1
        ((r.toNat / 2 ^ (w * e) % 2 ^ w : Nat) : Int) = (if o.mod.getLsbD 3 then max lo (min hi x) else x) % 2 ^ w

/-- O26. What a copy leaves. The simple case: a CPY whose source bytes and destination bytes the memory port or the local space places on this device, in unencrypted memory of which
no write of the source bytes is known, whose destination bytes are distinct and none of whose sources is a destination, completes with the status OK, and byte
(x, y, z) of the box at the destination is then byte (x, y, z) of the source as it was; a multicast CPY leaves the same at that offset of every named member's
scratchpad. No other byte changes. A cancelled one leaves each naturally aligned 4-byte piece of each destination old or new as a whole. Known writes, encryption, a source on another device: each source
byte is the one write of it that the copy may read, as the partition sees it, or the byte of the other device's answer, and the partition then sees the destination
hold those bytes. Boxes that overlap: each destination byte comes from a box byte whose destination it is, directly or through bytes that the copy has written
itself. A destination on another device: the copy asks that device to write exactly the bytes it has read, waits for the answers, and changes no byte here. -/
def Obligations.CopyResults : Prop :=
  (∀ (xb ny nz : Nat) (srs drs sps dps : Int) (p : Int × Int), p ∈ boxBytes xb ny nz srs drs sps dps ↔
    ∃ x y z : Nat, x < xb ∧ y < ny ∧ z < nz ∧ p = ((z : Int) * sps + (y : Int) * srs + x, (z : Int) * dps + (y : Int) * drs + x))
  ∧ (∀ (s : State) (o : Op) (multi : Bool) (dsp ssp mask : Nat) (dst src : DWord) (xb ny nz : Nat) (srs drs sps dps : Int) (uids : List Nat)
      (from_ : Int → Loc) (into : Nat → Int → Loc),
    let pts := boxBytes xb ny nz srs drs sps dps
    let stored (k : Nat) : Prop := ∃ u ∈ uids, ∃ p ∈ pts, k = (into u p.2).key
    (multi = false → uids = [o.uid]) → (multi = true → s.castCheck (s.co o.coh) mask dst.toNat xb ny nz drs dps = .ok uids) →
    (∀ p ∈ pts, s.sideSpot o.ctx .read ssp o.uid src p.1 = (.loc (from_ p.1), s) ∧ s.fresh [(from_ p.1).key] = true ∧ (from_ p.1).enc = false) →
    (∀ u ∈ uids, ∀ p ∈ pts, s.sideSpot o.ctx .write dsp u dst p.2 = (.loc (into u p.2), s) ∧ (into u p.2).enc = false) →
    s.prov.guesses = [] → s.svc.enc = [] → Memory.wf s.mem = true →
    (pts.map fun p => sideAddr dsp dst p.2).Nodup → (uids.flatMap fun u => pts.map fun p => (into u p.2).key).Nodup → (∀ p ∈ pts, ¬ stored (from_ p.1).key) →
    (∃ s', s.runCopy o multi dsp ssp mask dst src xb ny nz srs drs sps dps false = .done (engStatus 0 0) 0 s'
      ∧ (∀ u ∈ uids, ∀ p ∈ pts, Memory.get s'.mem (into u p.2).key = Memory.get s.mem (from_ p.1).key)
      ∧ (∀ k, ¬ stored k → Memory.get s'.mem k = Memory.get s.mem k) ∧ Memory.wf s'.mem = true)
    ∧ (∃ (s' : State) (new : Nat → Nat → Bool), s.runCopy o multi dsp ssp mask dst src xb ny nz srs drs sps dps true = .done (engStatus 0x47 0) 0 s'
      ∧ (∀ u ∈ uids, ∀ p ∈ pts, Memory.get s'.mem (into u p.2).key
          = if new u (sideAddr dsp dst p.2 / 4) then Memory.get s.mem (from_ p.1).key else Memory.get s.mem (into u p.2).key)
      ∧ (∀ k, ¬ stored k → Memory.get s'.mem k = Memory.get s.mem k) ∧ Memory.wf s'.mem = true))
  ∧ (∀ (s : State) (o : Op) (multi : Bool) (dsp ssp mask : Nat) (dst src : DWord) (xb ny nz : Nat) (srs drs sps dps : Int) (uids : List Nat)
      (val : Int → Byte) (by_ : Int → Nat) (into : Nat → Int → Loc),
    let pts := boxBytes xb ny nz srs drs sps dps
    let a : Agent := .op o.core o.serial
    let stored (k : Nat) : Prop := ∃ u ∈ uids, ∃ p ∈ pts, k = (into u p.2).key
    let all := uids.flatMap fun u => pts.map fun p => into u p.2
    let from_ (p : Int × Int) : Spot := (s.sideSpot o.ctx .read ssp o.uid src p.1).1
    let here (p : Int × Int) : Prop := ∃ l b, s.sideSpot o.ctx .read ssp o.uid src p.1 = (.loc l, s) ∧ ¬ stored l.key ∧ s.unmask o.part [l] [b] = [val p.1]
      ∧ (∀ seen, (∀ v ∈ s.seenBy a, v ∈ seen) → (s.histAt l.key).mayRead seen = [(by_ p.1, b)])
      ∧ ∀ q ∈ pts, ∀ m, from_ q = .loc m → m.key / 4 = l.key / 4 → by_ q.1 = by_ p.1
    let away (p : Int × Int) : Prop := ∃ n part va off, s.sideSpot o.ctx .read ssp o.uid src p.1 = (.away n part va off, s) ∧ s.answerByte a n part va = some (val p.1)
    (multi = false → uids = [o.uid]) → (multi = true → s.castCheck (s.co o.coh) mask dst.toNat xb ny nz drs dps = .ok uids) →
    (∀ p ∈ pts, here p ∨ away p) → s.sideStop a 0 (awayPieces ((sortBy (fun p => sideAddr ssp src p.1) pts).map fun p => (from_ p, none))) = .ok () →
    (∀ u ∈ uids, ∀ p ∈ pts, s.sideSpot o.ctx .write dsp u dst p.2 = (.loc (into u p.2), s)) →
    ((∀ l ∈ all, l.enc = true ∧ 2 ^ 56 ≤ l.key ∧ l.key < 2 ^ 57) ∨ (s.svc.enc = [] ∧ ∀ l ∈ all, l.enc = false)) →
    s.prov.guesses = [] → Memory.wf s.mem = true → (pts.map fun p => sideAddr dsp dst p.2).Nodup → (keysOf all).Nodup →
    ∃ s', s.runCopy o multi dsp ssp mask dst src xb ny nz srs drs sps dps false = .done (engStatus 0 0) 0 s'
      ∧ (∀ u ∈ uids, ∀ p ∈ pts, s'.unmask o.part [into u p.2] [Memory.get s'.mem (into u p.2).key] = [val p.1])
      ∧ (∀ k, ¬ Touches all k → Memory.get s'.mem k = Memory.get s.mem k) ∧ Memory.wf s'.mem = true)
  ∧ (∀ (s : State) (o : Op) (dsp ssp : Nat) (dst src : DWord) (xb ny nz : Nat) (srs drs sps dps : Int) (from_ into : Int → Loc),
    let pts := boxBytes xb ny nz srs drs sps dps
    let follows (p q : Int × Int) : Prop := (from_ p.1).key = (into q.2).key
    (∀ p ∈ pts, s.sideSpot o.ctx .read ssp o.uid src p.1 = (.loc (from_ p.1), s) ∧ s.fresh [(from_ p.1).key] = true ∧ (from_ p.1).enc = false) →
    (∀ p ∈ pts, s.sideSpot o.ctx .write dsp o.uid dst p.2 = (.loc (into p.2), s) ∧ (into p.2).enc = false) →
    s.prov.guesses = [] → s.svc.enc = [] → Memory.wf s.mem = true →
    ∃ s', s.runCopy o false dsp ssp 0 dst src xb ny nz srs drs sps dps false = .done (engStatus 0 0) 0 s'
      ∧ (∀ p ∈ pts, ∃ (chain : List (Int × Int)) (first last : Int × Int), chain.head? = some first ∧ chain.getLast? = some last ∧ (∀ x ∈ chain, x ∈ pts)
          ∧ (into first.2).key = (into p.2).key ∧ (∀ i x y, chain[i]? = some x → chain[i + 1]? = some y → follows x y)
          ∧ Memory.get s'.mem (into p.2).key = Memory.get s.mem (from_ last.1).key)
      ∧ (∀ k, (∀ p ∈ pts, k ≠ (into p.2).key) → Memory.get s'.mem k = Memory.get s.mem k) ∧ Memory.wf s'.mem = true)
  ∧ (∀ (s : State) (o : Op) (dsp ssp : Nat) (dst src : DWord) (xb ny nz : Nat) (srs drs sps dps : Int) (from_ : Int → Loc) (n part : Nat) (va off : Int → Nat),
    let pts := boxBytes xb ny nz srs drs sps dps
    let ask := s.sideStop (.op o.core o.serial) 1 (awayPieces ((sortBy (fun p => sideAddr dsp dst p.2) pts).map fun p =>
      (.away n part (va p.2) (off p.2), some (Memory.get s.mem (from_ p.1).key))))
    (∀ p ∈ pts, s.sideSpot o.ctx .read ssp o.uid src p.1 = (.loc (from_ p.1), s) ∧ s.fresh [(from_ p.1).key] = true ∧ (from_ p.1).enc = false) →
    (∀ p ∈ pts, s.sideSpot o.ctx .write dsp o.uid dst p.2 = (.away n part (va p.2) (off p.2), s)) → s.prov.guesses = [] → s.svc.enc = [] →
    (ask = .ok () → s.runCopy o false dsp ssp 0 dst src xb ny nz srs drs sps dps false = .done (engStatus 0 0) 0 s)
    ∧ (∀ w r, ask = .error (.wait w r) → s.runCopy o false dsp ssp 0 dst src xb ny nz srs drs sps dps false = .wait w r s)
    ∧ (∀ k d, ask = .error (.fault k d) → s.runCopy o false dsp ssp 0 dst src xb ny nz srs drs sps dps false = .done (faultStatus k d) d s))
  ∧ (∀ (s : State) (a : Agent) (kind n part va off : Nat) (b : Option Byte) (xs : List (Spot × Option Byte)) (gs : List (List (Spot × Option Byte))),
    let r := awayRequest ((.away n part va off, b) :: xs)
    let asked := s.remote a n part va off kind r.1 r.2.1 (if kind = 1 then r.2.2 else [])
    (∀ t, asked = .error t → s.sideStop a kind (((.away n part va off, b) :: xs) :: gs) = .error t)
    ∧ (∀ x, asked = .ok x → s.sideStop a kind (((.away n part va off, b) :: xs) :: gs) = s.sideStop a kind gs)
    ∧ (∀ i, i < r.1 → ∀ sp c, ((.away n part va off, b) :: xs).find? (fun x => x.1.va == va + i) = some (sp, some c) → r.2.2[i]? = some c))
  ∧ (∀ (s : State) (c : Ctx) (acc : Acc) (uid : Nat) (addr : DWord) (d : Int),
    s.sideSpot c acc 1 uid addr d = (.loc { key := scrKey uid (addr.toNat + d).toNat, va := 0, mside := false, enc := false }, s)
    ∧ s.sideSpot c acc 2 uid addr d = (.loc { key := tileKey uid (addr.toNat + d).toNat, va := 0, mside := false, enc := false }, s))

/-- O27. AND, OR and XOR, long and short, and NOT write the bitwise result over 32 bits, or over 64 bits with W64 where imm32 is zero-extended. With s the amount as
an unsigned number, SHL writes A times 2^s modulo 2^w; SHR.us writes floor(A / 2^s); SHR.sg writes floor(A / 2^s) of the signed A, so all ones for a negative A and a
large s; ROT moves bit k to bit (k + s) mod w, or (k - s) mod w with RIGHT. They complete on every operand, over 32 bits or 64 with W64, and change nothing else. -/
def Obligations.LogicAndShiftResults : Prop :=
  (∀ o : Canon,
    Bitwise (.and o) 0x0B o (· &&& ·) (· &&& ·) ∧ Bitwise (.or o) 0x0C o (· ||| ·) (· ||| ·) ∧ Bitwise (.xor o) 0x0D o (· ^^^ ·) (· ^^^ ·)
    ∧ Bitwise (.not o) 0x0E o (fun _ b => ~~~b) (fun _ b => ~~~b))
  ∧ (∀ (g : BitVec 4) (d a : BitVec 6) (b : BitVec 8),
    Bitwise (.andShort g d a b) 0x0B (Short.alu g d a b 0) (· &&& ·) (· &&& ·)
    ∧ Bitwise (.orShort g d a b) 0x0C (Short.alu g d a b 0) (· ||| ·) (· ||| ·)
    ∧ Bitwise (.xorShort g d a b) 0x0D (Short.alu g d a b 0) (· ^^^ ·) (· ^^^ ·))
  ∧ (∀ (i : Instr) (op : Nat) (o : Canon), canonOf i = some (op, o) →
    let w64 := o.mod.getLsbD 2
    (op = 0x0F → Computes i op o fun s =>
      let n := (s.b32 o).toNat
      if w64 then s.put64 o.d (BitVec.ofNat 64 ((s.a64 o false).toNat * 2 ^ n)) else s.put32 o.d (BitVec.ofNat 32 ((s.a32 o).toNat * 2 ^ n)))
    ∧ (op = 0x10 → o.mod.getLsbD 0 = false → Computes i op o fun s =>
      let n := (s.b32 o).toNat
      if w64 then s.put64 o.d (BitVec.ofNat 64 ((s.a64 o false).toNat / 2 ^ n)) else s.put32 o.d (BitVec.ofNat 32 ((s.a32 o).toNat / 2 ^ n)))
    ∧ (op = 0x10 → o.mod.getLsbD 0 = true → Computes i op o fun s =>
      let n := (s.b32 o).toNat
      if w64 then s.put64 o.d (BitVec.ofInt 64 (Int.fdiv (s.a64 o true).toInt (2 ^ n)))
      else s.put32 o.d (BitVec.ofInt 32 (Int.fdiv (s.a32 o).toInt (2 ^ n))))
    ∧ (op = 0x11 → ∀ (s : State) (t : Nat), s.Ready t op o →
      let n := (s.b32 o).toNat
      let right := o.mod.getLsbD 1
      (w64 = false → ∃ r : Word, exec i s = .next ((s.put32 o.d r).after t o .fall)
        ∧ ∀ k, k < 32 → (s.a32 o).getLsbD k = r.getLsbD ((if right then k + 32 - n % 32 else k + n) % 32))
      ∧ (w64 = true → ∃ r : DWord, exec i s = .next ((s.put64 o.d r).after t o .fall)
        ∧ ∀ k, k < 64 → (s.a64 o false).getLsbD k = r.getLsbD ((if right then k + 64 - n % 64 else k + n) % 64))))

/-- O28. POPC writes the number of set bits, CLZ the number of leading zeros (32 for zero), BREV the reversed bits, BFE the field of the given
position and length, sign-extended under SG, and BFI the base with the window replaced; each completes on every operand and changes nothing else. -/
def Obligations.CountsAndFields : Prop :=
  (∀ (i : Instr) (o : Canon), canonOf i = some (0x12, o) →
    Computes i 0x12 o fun s => s.put32 o.d (BitVec.ofNat 32 ((List.range 32).filter fun k => (s.b32 o).getLsbD k).length))
  ∧ (∀ o : Canon, Computes (.clz o) 0x13 o fun s => s.put32 o.d (BitVec.ofNat 32 (((List.range 32).takeWhile fun k => !(s.b32 o).getLsbD (31 - k)).length)))
  ∧ (∀ o : Canon, Computes (.brev o) 0x14 o fun s => s.put32 o.d (s.b32 o).reverse)
  ∧ (∀ (x : Word) (k : Nat), k < 32 → x.reverse.getLsbD k = x.getLsbD (31 - k))
  ∧ (∀ o : Canon, Computes (.bfe o) 0x15 o fun s =>
      let pos := (s.b32 o).toNat % 256
      let len := min ((s.b32 o).toNat / 256 % 256) 32
      let f := (s.a32 o).toNat / 2 ^ pos % 2 ^ len
      s.put32 o.d (BitVec.ofInt 32 (if o.mod.getLsbD 0 = true ∧ 0 < len ∧ f.testBit (len - 1) = true then (f : Int) - 2 ^ len else f)))
  ∧ (∀ o : Canon, Computes (.bfi o) 0x16 o fun s =>
      let pos := (s.c32 o).toNat % 256
      let len := min ((s.c32 o).toNat / 256 % 256) 32
      let m : Word := BitVec.ofNat 32 ((2 ^ len - 1) * 2 ^ pos)
      s.put32 o.d ((s.a32 o &&& ~~~m) ||| (BitVec.ofNat 32 ((s.b32 o).toNat * 2 ^ pos) &&& m)))

/-- O29. SEL writes a where its predicate operand is true and b otherwise, MOV writes its operand, MOVI (low) writes imm32, extended under SX into a k
register, MOVI (high-half) writes imm32 to the upper half and keeps the lower one, and PLOP writes the LUT bit chosen by the three truth values; each
completes on every operand and changes nothing else. -/
def Obligations.MovesAndSelects : Prop :=
  (∀ o : Canon, Computes (.sel o) 0x17 o fun s =>
    let c := s.rdP 4 o.c o.imm
    if o.mod.getLsbD 2 then s.put64 o.d (if c then s.a64 o false else s.b64 o false) else s.put32 o.d (if c then s.a32 o else s.b32 o))
  ∧ (∀ (i : Instr) (o : Canon), canonOf i = some (0x18, o) →
    Computes i 0x18 o fun s => if o.mod.getLsbD 2 then s.put64 o.d (s.b64 o false) else s.put32 o.d (s.b32 o))
  ∧ (∀ (i : Instr) (o : Canon), canonOf i = some (0x19, o) → Computes i 0x19 o fun s =>
      if isK o.d.toNat then s.put64 o.d (if o.mod.getLsbD 0 then o.imm.signExtend 64 else o.imm.setWidth 64) else s.put32 o.d o.imm)
  ∧ (∀ o : Canon, Computes (.moviHighHalf o) 0x1A o fun s =>
      if isG o.d.toNat then s.putG (o.d.toNat + 1) o.imm else s.put64 o.d (o.imm ++ (s.kval 1 (o.d.toNat - 0x40)).setWidth 32))
  ∧ (∀ o : Canon, Computes (.plop o) 0x1C o fun s =>
      let t (v : Word) : Nat := if v = 0 then 0 else 1
      s.put32 o.d (if o.mod.toNat.testBit (t (s.a32 o) + 2 * t (s.b32 o) + 4 * t (s.c32 o)) then 1#32 else 0#32))

/-- O30. FADD, FSUB, FMUL and FFMA write the exact sum, difference, product or fused product rounded once to FP32 under their mode, operands and
result flushed under FTZ; FMIN and FMAX write minimumNumber and maximumNumber; FSET writes 1 or 0. Flags are ORed into %fstat, NV also for an invalid
operation or a signalling NaN operand; each completes on every operand, long and short, and changes nothing else. -/
def Obligations.FloatArithmeticResults : Prop :=
  ∀ (i : Instr) (op : Nat) (o : Canon), canonOf i = some (op, o) →
    let ftz := o.mod.getLsbD 3
    (op = 0x20 → Floats i op o fun s =>
      let r := (fpIn ftz (s.fA o)).add (fpIn ftz (s.fB o))
      rounded (s.rmOf o) ftz r.1 r.2 [s.fA o, s.fB o])
    ∧ (op = 0x21 → Floats i op o fun s =>
      let r := (fpIn ftz (s.fA o)).add (fpIn ftz (s.fB o)).negate
      rounded (s.rmOf o) ftz r.1 r.2 [s.fA o, s.fB o])
    ∧ (op = 0x22 → Floats i op o fun s =>
      let r := (fpIn ftz (s.fA o)).mul (fpIn ftz (s.fB o))
      rounded (s.rmOf o) ftz r.1 r.2 [s.fA o, s.fB o])
    ∧ (op = 0x23 → Floats i op o fun s =>
      let p := (fpIn ftz (s.fA o)).mul (fpIn ftz (s.fB o))
      let r := p.1.add (fpIn ftz (s.fC o))
      rounded (s.rmOf o) ftz r.1 (p.2 || r.2) [s.fA o, s.fB o, s.fC o])
    ∧ (op = 0x24 → Floats i op o fun s => FF.fp32.minmax false ftz (s.fA o) (s.fB o))
    ∧ (op = 0x25 → Floats i op o fun s => FF.fp32.minmax true ftz (s.fA o) (s.fB o))
    ∧ (op = 0x26 → Floats i op o fun s =>
      let f := FF.fp32
      (if f.compare (o.mod.toNat / 16 % 8) (f.flushIn ftz (s.fA o)) (f.flushIn ftz (s.fB o)) then 1 else 0, f.snanFlag (s.fA o) ||| f.snanFlag (s.fB o)))

/-- O31. Each of these instructions completes on every operand, writes the result that its rule gives for the operands it reads and raises the flags
met; nothing else changes. FSF's value near the exact one is the model's free value within the bound of R128 (assumption log 17). -/
def Obligations.FloatConversionResults : Prop :=
  (∀ (i : Instr) (o : Canon), canonOf i = some (0x27, o) →
    Floats i 0x27 o fun s => fsf (s.rmOf o) (o.mod.getLsbD 3) (o.mod.toNat / 16 % 8) (s.fB o))
  ∧ (∀ (i : Instr) (o : Canon), canonOf i = some (0x28, o) → Floats i 0x28 o fun s =>
      let src := fmtOf (o.mod.toNat / 128 % 8)
      let dst := fmtOf (o.mod.toNat / 16 % 8)
      let x := if src = .fp32 then s.fB o else (s.b32 o).toNat / 2 ^ (src.width * (o.mod.toNat / 1024 % 8)) % 2 ^ src.width
      fcvtX src dst (s.rmOf o) (o.mod.toNat.testBit 13) x)
  ∧ (∀ o : Canon, Floats (.fcvtPack o) 0x29 o fun s =>
      let dst := fmtOf (o.mod.toNat / 16 % 8)
      let w := dst.width
      let lo := 2 * w * (o.mod.toNat / 1024 % 8)
      let x := fcvtX .fp32 dst (s.rmOf o) (o.mod.toNat.testBit 13) (s.fA o)
      let y := fcvtX .fp32 dst (s.rmOf o) (o.mod.toNat.testBit 13) (s.fB o)
      let c := if w = 16 then 0 else (s.c32 o).toNat
      (c - c / 2 ^ lo % 2 ^ (2 * w) * 2 ^ lo + (x.1 + y.1 * 2 ^ w) * 2 ^ lo, x.2 ||| y.2))
  ∧ (∀ (i : Instr) (o : Canon), canonOf i = some (0x2A, o) → Computes i 0x2A o fun s =>
      let m := o.mod.toNat
      let sg := (ifmtOf (m / 32 % 8)).1
      let w := (ifmtOf (m / 32 % 8)).2
      let f := fmtOf (m / 256 % 8)
      if m.testBit 4 then
        let x : FNum := if isSmall o.b.toNat then .fin (Ex.ofInt (smallVal o.b.toNat)) else f.value ((s.b32 o).toNat % 2 ^ f.width)
        let r := numToInt (s.rmOf o) sg w x
        (if w = 64 then s.put64 o.d (BitVec.ofInt 64 r.1) else s.put32 o.d (BitVec.ofInt 32 r.1)).raise r.2
      else s.putF o.d (roundFin f (s.rmOf o) false (Ex.ofInt (readInt sg w (if w = 64 then (s.b64 o).toNat else (s.b32 o).toNat)))))
  ∧ (∀ o : Canon, Floats (.pfma o) 0x2B o fun s =>
      let f := halfFmt o
      let r (e : Nat) := f.fma (s.rmOf o) (o.mod.getLsbD 3) (elem 16 e (s.a32 o)) (elem 16 e (s.b32 o)) (elem 16 e (s.c32 o))
      ((r 0).1 + (r 1).1 * 2 ^ 16, (r 0).2 ||| (r 1).2))
  ∧ (∀ o : Canon, Computes (.cfma o) 0x2C o fun s =>
      let ftz := o.mod.getLsbD 3
      let re (v : DWord) : Nat := v.toNat % 2 ^ 32
      let im (v : DWord) : Nat := v.toNat / 2 ^ 32
      let a := s.a64 o; let b := s.b64 o; let c := s.c64 o
      let bi := if o.mod.getLsbD 4 then (fpIn ftz (im b)).negate else fpIn ftz (im b)
      let x := sum3 (s.rmOf o) ftz (fpIn ftz (re a)) (fpIn ftz (re b)) (fpIn ftz (im a)).negate bi (fpIn ftz (re c))
      let y := sum3 (s.rmOf o) ftz (fpIn ftz (re a)) bi (fpIn ftz (im a)) (fpIn ftz (re b)) (fpIn ftz (im c))
      let n (v : Nat) : Flags := FF.fp32.snanFlag v
      (s.put64 o.d (BitVec.ofNat 32 y.1 ++ BitVec.ofNat 32 x.1)).raise
        (x.2 ||| y.2 ||| (n (re a) ||| n (im a) ||| n (re b) ||| n (im b) ||| n (re c) ||| n (im c))))
  ∧ (∀ o : Canon, Computes (.fclass o) 0x2D o fun s =>
      let f := fmtOf (o.mod.toNat / 16 % 8)
      s.put32 o.d (BitVec.ofNat 32 (2 ^ fclassBit f (elem f.width (o.mod.toNat / 1024 % 8) (s.b32 o)))))
  ∧ (∀ o : Canon, Floats (.dp2 o) 0x2E o fun s =>
      let f := halfFmt o
      let ftz := o.mod.getLsbD 3
      let val (v : Word) (e : Nat) : FNum := f.value (f.flushIn ftz (elem 16 e v))
      let a := s.a32 o; let b := s.b32 o
      let r := sum3 (s.rmOf o) ftz (val a 0) (val b 0) (val a 1) (val b 1) (fpIn ftz (s.fC o))
      (r.1, r.2 ||| f.snanFlag (elem 16 0 a) ||| f.snanFlag (elem 16 1 a) ||| f.snanFlag (elem 16 0 b) ||| f.snanFlag (elem 16 1 b)
        ||| FF.fp32.snanFlag (s.fC o)))
  ∧ (∀ o : Canon, Floats (.frnd o) 0x2F o fun s => frndX (s.rmOf o) (o.mod.getLsbD 3) (s.fB o))
  ∧ (∀ o : Canon, Floats (.fscl o) 0x30 o fun s => fsclX (s.rmOf o) (o.mod.getLsbD 3) (s.fA o) (s.b32 o).toInt)

/-- O32. What the helpers of O30 and O31 compute, on FP32 patterns as numbers below 2^32. FSET compares the values that the patterns order by sign and magnitude, -0
equal to +0, and a NaN fails every comparison but ne and nan. FMIN and FMAX give the lesser or greater operand, -0 below +0, the other operand beside a NaN. Flushing
zeroes a subnormal and nothing else. FCVT passes an equal format, widens BF16 exactly, makes NaNs canonical, saturates infinities where the format has none, and gives
the results of R116's example; a magnitude of 2^128 and more overflows as R116's table says. FRND gives the integer that its mode names, FSCL the exact product by
2^k rounded once, FCLASS the class by the pattern's range. FSF gives the special cases of R128, a NaN for a NaN, the exact reciprocal of a power of two, and any other
reciprocal within one ulp unless it overflows. -/
def Obligations.FloatValues : Prop :=
  let f := FF.fp32
  let nan (v : Nat) : Prop := 0x7F800000 < v % 2 ^ 31
  let sig (v : Nat) : Prop := 0x7F800000 < v % 2 ^ 31 ∧ v % 2 ^ 31 < 0x7FC00000
  let key (v : Nat) : Int := if v < 2 ^ 31 then v else 2 ^ 31 - v
  (∀ a b : Nat, a < 2 ^ 32 → b < 2 ^ 32 →
    let num := ¬ nan a ∧ ¬ nan b
    (f.compare 0 a b = true ↔ num ∧ key a = key b) ∧ (f.compare 1 a b = true ↔ (num → key a ≠ key b))
    ∧ (f.compare 2 a b = true ↔ num ∧ key a < key b) ∧ (f.compare 3 a b = true ↔ num ∧ key a ≤ key b)
    ∧ (f.compare 4 a b = true ↔ num ∧ key b < key a) ∧ (f.compare 5 a b = true ↔ num ∧ key b ≤ key a)
    ∧ (f.compare 6 a b = true ↔ num) ∧ (f.compare 7 a b = true ↔ ¬ num))
  ∧ (∀ (isMax ftz : Bool) (a b : Nat), a < 2 ^ 32 → b < 2 ^ 32 →
    let x := f.flushIn ftz a
    let y := f.flushIn ftz b
    let r := f.minmax isMax ftz a b
    (nan x → nan y → r.1 = 0x7FC00000) ∧ (nan x → ¬ nan y → r.1 = y) ∧ (¬ nan x → nan y → r.1 = x)
    ∧ (¬ nan x → ¬ nan y → (r.1 = x ∨ r.1 = y) ∧ key r.1 = (if isMax then max (key x) (key y) else min (key x) (key y)))
    ∧ ((x = 0 ∧ y = 2 ^ 31) ∨ (x = 2 ^ 31 ∧ y = 0) → r.1 = if isMax then 0 else 2 ^ 31)
    ∧ (sig a ∨ sig b → r.2 = NV) ∧ (¬ sig a → ¬ sig b → r.2 = 0))
  ∧ (∀ v : Nat, v < 2 ^ 32 → f.flushIn false v = v ∧ f.flushIn true v = if 0 < v % 2 ^ 31 ∧ v % 2 ^ 31 < 2 ^ 23 then v / 2 ^ 31 * 2 ^ 31 else v)
  ∧ (∀ (mode : Rm) (v : Nat), v < 2 ^ 16 →
    (v % 2 ^ 15 ≤ 0x7F80 → fcvtX .bf16 .fp32 mode false v = (v * 2 ^ 16, 0) ∧ fcvtX .bf16 .bf16 mode false v = (v, 0))
    ∧ (0x7F80 < v % 2 ^ 15 → (fcvtX .bf16 .fp32 mode false v).1 = 0x7FC00000 ∧ (fcvtX .bf16 .bf16 mode false v).1 = 0x7FC0))
  ∧ (∀ (mode : Rm) (sat : Bool) (v : Nat), v < 2 ^ 32 →
    (nan v → (fcvtX .fp32 .bf16 mode sat v).1 = 0x7FC0 ∧ (fcvtX .fp32 .fp16 mode sat v).1 = 0x7E00 ∧ (fcvtX .fp32 .e5m2 mode sat v).1 = 0x7E
      ∧ (fcvtX .fp32 .e4m3 mode sat v).1 = 0x7F ∧ fcvtX .fp32 .e2m1 mode sat v = (0, NV))
    ∧ (v % 2 ^ 31 = 0x7F800000 → fcvtX .fp32 .e4m3 mode sat v = (0x7E + v / 2 ^ 31 * 2 ^ 7, NV) ∧ fcvtX .fp32 .e2m1 mode sat v = (7 + v / 2 ^ 31 * 2 ^ 3, NV)
      ∧ fcvtX .fp32 .e5m2 mode sat v = if sat then (0x7B + v / 2 ^ 31 * 2 ^ 7, NV) else (0x7C + v / 2 ^ 31 * 2 ^ 7, 0)))
  ∧ (let all (v : Nat) := (fcvtX .fp32 .e4m3 .rne false v, fcvtX .fp32 .e5m2 .rne false v, fcvtX .fp32 .e2m1 .rne false v)
    all 0x43960000 = ((0x79, NX), (0x5D, NX), (0x7, OF ||| NX)) ∧ all 0x43980000 = ((0x7A, NX), (0x5D, NX), (0x7, OF ||| NX))
    ∧ all 0x43FA0000 = ((0x7E, OF ||| NX), (0x60, NX), (0x7, OF ||| NX)) ∧ all 0x40200000 = ((0x42, 0), (0x41, 0), (0x4, NX))
    ∧ all 0x40A00000 = ((0x4A, 0), (0x45, 0), (0x6, NX)))
  ∧ (∀ (g : FF) (mode : Rm) (sat neg : Bool) (m e : Nat), 2 ^ 128 ≤ m * 2 ^ e →
    roundFin g mode sat ⟨neg, m, e, 1⟩ = (g.overflow mode sat neg, OF ||| NX)
    ∧ g.overflow mode sat neg = (if neg then 2 ^ (g.width - 1) else 0) +
        (if g = .e4m3 ∨ g = .e2m1 ∨ sat = true ∨ mode = .rz ∨ (mode = .ru ∧ neg = true) ∨ (mode = .rd ∧ neg = false) then g.maxBits else g.infBits))
  ∧ (∀ (mode : Rm) (v : Nat) (x : Ex), v < 2 ^ 32 → f.value v = .fin x →
    ∃ (n : Int) (y : Ex), f.value (frndX mode false v).1 = .fin y ∧ y.cmp (Ex.ofInt n) = .eq ∧ y.neg = x.neg
      ∧ (frndX mode false v).2 = (if x.cmp (Ex.ofInt n) = .eq then 0 else NX)
      ∧ (mode = .rd ∨ (mode = .rz ∧ x.neg = false) → (Ex.ofInt n).cmp x ≠ .gt ∧ x.cmp (Ex.ofInt (n + 1)) = .lt)
      ∧ (mode = .ru ∨ (mode = .rz ∧ x.neg = true) → x.cmp (Ex.ofInt n) ≠ .gt ∧ (Ex.ofInt (n - 1)).cmp x = .lt)
      ∧ (mode = .rne →
          let d := x.mul (Ex.pow2 1)
          (Ex.ofInt (2 * n - 1)).cmp d ≠ .gt ∧ d.cmp (Ex.ofInt (2 * n + 1)) ≠ .gt
          ∧ (n % 2 ≠ 0 → (Ex.ofInt (2 * n - 1)).cmp d = .lt ∧ d.cmp (Ex.ofInt (2 * n + 1)) = .lt)))
  ∧ (∀ (mode : Rm) (ftz : Bool) (v : Nat) (x : Ex) (k : Int), v < 2 ^ 32 → f.value (f.flushIn ftz v) = .fin x →
    fsclX mode ftz v k = f.flushOut ftz (roundFin f mode false (x.mul (Ex.pow2 k))))
  ∧ (∀ v : Nat, v < 2 ^ 32 →
    (fclassBit f v = 0 ↔ v = 0xFF800000) ∧ (fclassBit f v = 1 ↔ 0x80800000 ≤ v ∧ v < 0xFF800000) ∧ (fclassBit f v = 2 ↔ 0x80000000 < v ∧ v < 0x80800000)
    ∧ (fclassBit f v = 3 ↔ v = 0x80000000) ∧ (fclassBit f v = 4 ↔ v = 0) ∧ (fclassBit f v = 5 ↔ 0 < v ∧ v < 0x00800000)
    ∧ (fclassBit f v = 6 ↔ 0x00800000 ≤ v ∧ v < 0x7F800000) ∧ (fclassBit f v = 7 ↔ v = 0x7F800000) ∧ (fclassBit f v = 8 ↔ sig v)
    ∧ (fclassBit f v = 9 ↔ 0x7FC00000 ≤ v % 2 ^ 31))
  ∧ (∀ v : Nat, v < 256 → fclassBit .e4m3 v ∉ [0, 7, 8] ∧ fclassBit .e5m2 v ≠ 8)
  ∧ (∀ mode : Rm,
    fsfValue mode 0 0 = (0x7F800000, DZ) ∧ fsfValue mode 0 0x80000000 = (0xFF800000, DZ) ∧ fsfValue mode 0 0x7F800000 = (0, 0)
    ∧ fsfValue mode 0 0xFF800000 = (0x80000000, 0) ∧ fsfValue mode 1 0 = (0x7F800000, DZ) ∧ fsfValue mode 1 0x80000000 = (0xFF800000, DZ)
    ∧ fsfValue mode 1 0x7F800000 = (0, 0) ∧ fsfValue mode 2 0x80000000 = (0x80000000, 0) ∧ fsfValue mode 2 0x7F800000 = (0x7F800000, 0)
    ∧ fsfValue mode 3 0xFF800000 = (0, 0) ∧ fsfValue mode 3 0x7F800000 = (0x7F800000, 0) ∧ fsfValue mode 4 0 = (0xFF800000, DZ)
    ∧ fsfValue mode 4 0x80000000 = (0xFF800000, DZ) ∧ fsfValue mode 4 0x3F800000 = (0, 0) ∧ fsfValue mode 4 0x7F800000 = (0x7F800000, 0)
    ∧ (∀ fn, fn = 5 ∨ fn = 6 → fsfValue mode fn 0x7F800000 = (0x7FC00000, NV) ∧ fsfValue mode fn 0xFF800000 = (0x7FC00000, NV))
    ∧ fsfValue mode 5 0 = (0, 0) ∧ fsfValue mode 5 0x80000000 = (0x80000000, 0)
    ∧ (∀ fn v, fn ∈ [1, 2, 4] → 0x80000000 < v → v ≤ 0xFF800000 → fsfValue mode fn v = (0x7FC00000, NV))
    ∧ (∀ fn v, v < 2 ^ 32 → (sig v → fsfValue mode fn v = (0x7FC00000, NV)) ∧ (0x7FC00000 ≤ v % 2 ^ 31 → fsfValue mode fn v = (0x7FC00000, 0)))
    ∧ (∀ e, 1 ≤ e → e ≤ 253 → fsfValue mode 0 (e * 2 ^ 23) = ((254 - e) * 2 ^ 23, 0))
    ∧ (∀ v x, v < 2 ^ 32 → f.value v = .fin x → x.m ≠ 0 → (fsfValue mode 0 v).2 &&& OF = 0 →
      ∃ y, f.value (fsfValue mode 0 v).1 = .fin y ∧ y.within ((Ex.ofInt 1).div x) (ulpBound 1 ((Ex.ofInt 1).div x)) = true))

/-- O33. With an aligned target, BRA and CALL (relative) go to the PC's offset plus imm32, and JMP, CALL (register) and RET to the offset of their
64-bit operand, always inside the PC's buffer; a CALL writes its fall-through offset to d; a BRA.u also counts in its group's vote, with a
false guard as a branch not taken, and a group that ends with its vote split adds 1 to %divcnt, up to 2^32 - 1, as a write of its members; NOP and YIELD change
nothing but the PC. The thread is ready again and nothing else of it changes. -/
def Obligations.ControlFlowGoesOn : Prop :=
  (∀ (i : Instr) (op : Nat) (o : Canon) (off : Nat), canonOf i = some (op, o) →
    let rel (s : State) : Nat := (((ptrOff s.cth.pc : Int) + o.imm.toInt) % 2 ^ 48).toNat
    let ret (s : State) : DWord := BitVec.ofNat 64 ((ptrOff s.cth.pc + 4 * (1 + o.len.toNat)) % 2 ^ 48)
    (op = 0x40 → Performs i op o (.jump off) fun s s2 => off = rel s ∧ off % 4 = 0 ∧ s2 = s.vote o true)
    ∧ (op = 0x41 ∨ op = 0x44 → Performs i op o (.jump off) fun s s2 => off = ptrOff (s.a64 o) ∧ off % 4 = 0 ∧ s2 = s)
    ∧ (op = 0x42 → Performs i op o (.jump off) fun s s2 => off = rel s ∧ off % 4 = 0 ∧ s2 = s.put64 o.d (ret s))
    ∧ (op = 0x43 → Performs i op o (.jump off) fun s s2 => off = ptrOff (s.a64 o) ∧ off % 4 = 0 ∧ s2 = s.put64 o.d (ret s))
    ∧ (op = 0x46 ∨ op = 0x47 → Computes i op o id))
  ∧ (∀ (s : State) (t : Nat) (o : Canon) (off : Nat), t < s.threads.length →
    let th := s.th t
    (s.after t o (.jump off)).th t = { th with pc := mkPtr (ptrBuf th.pc) off, run := .ready, listed := .no }
    ∧ (s.after t o .fall).th t = { th with pc := mkPtr (ptrBuf th.pc) (ptrOff th.pc + 4 * (1 + o.len.toNat)), run := .ready, listed := .no })
  ∧ (∀ (s : State) (o : Canon) (b : Bool), o.mod.getLsbD 0 = false → s.vote o b = s)
  ∧ (∀ (s : State) (o : Canon) (g : Group), o.mod.getLsbD 0 = true → s.group = some g →
    s.vote o true = { s with group := some { g with taken := g.taken + 1 } } ∧ s.vote o false = { s with group := some { g with missed := g.missed + 1 } })
  ∧ (∀ (i : Instr) (o : Canon) (s : State) (t : Nat), canonOf i = some (0x40, o) → s.Runs t → (s.th t).guard o.guard = false →
    exec i s = .next ((s.vote o false).goOn t o.len.toNat .fall))
  ∧ (∀ (s : State) (g : Group), s.group = some g → g.coh < s.cohorts.length →
    let c := s.co g.coh
    let s1 := s.endGroup
    let c1 := s1.co g.coh
    (g.left ≠ [] → s1 = s) ∧ (g.left = [] → (g.taken = 0 ∨ g.missed = 0) → s1 = { s with group := none })
    ∧ (g.left = [] → 0 < g.taken → 0 < g.missed →
        c1.divcnt.newest.toNat = min (c.divcnt.newest.toNat + 1) (2 ^ 32 - 1) ∧ (∀ t ∈ g.members, c1.divcnt.values (s.th t).tid = [c1.divcnt.newest])
        ∧ { c1 with divcnt := c.divcnt, unext := c.unext } = c ∧ (∀ d, d ≠ g.coh → s1.co d = s.co d) ∧ { s1 with cohorts := s.cohorts, group := some g } = s))

/-- O34. EXIT ends its thread (in a cohort with no open team, region, chain or barrier, of a launch that no pod barrier waits for, its registers go and nothing else
changes). WAITT falls through
when the time base has reached its operand and otherwise blocks past itself until then. IDEM sets the region's entry to its own PC and IDEMEND clears
it. TSET writes the mask, slot and VALID bit of its operand when the register has no signing point, region or chain open. TRAP takes
the exception with code 13H and BRK the one with code 14H, each with its 32-bit operand in the detail: this entry is the instruction's effect. -/
def Obligations.ThreadControlAndTraps : Prop :=
  (∀ (i : Instr) (o : Canon), canonOf i = some (0x45, o) → Performs i 0x45 o .placed fun s s2 => s2 = s.exitThread s.me)
  ∧ (∀ (s : State) (t : Nat), t < s.threads.length → (s.th t).coh < s.cohorts.length →
      (∀ i, (s.co (s.th t).coh).point i = none ∧ (s.co (s.th t).coh).region i = none ∧ (s.co (s.th t).coh).chain i = none) → s.bars = [] →
      (∀ l, s.launch (s.co (s.th t).coh).part (s.co (s.th t).coh).seq = some l → s.podWaits l.lr.ltag = false) →
      s.exitThread t = s.setTh t { s.th t with run := .exited, listed := .no, g := [], pend := 0, arrivals := [] })
  ∧ (∀ o : Canon, Performs (.waitt o) 0x4E o .fall fun s s2 => (s.a64 o).toNat ≤ s.svc.time.toNat ∧ s2 = s)
  ∧ (∀ (o : Canon) (time : DWord), Performs (.waitt o) 0x4E o (.sleep (.time time)) fun s s2 =>
      time = s.a64 o ∧ s.svc.time.toNat < time.toNat ∧ s2 = s)
  ∧ (∀ o : Canon, Computes (.idem o) 0x4C o fun s => s.setCth { s.cth with region := some (s.cth.pc, o.len.toNat) })
  ∧ (∀ o : Canon, Computes (.idemend o) 0x4D o fun s => s.setCth { s.cth with region := none })
  ∧ (∀ o : Canon, Performs (.tset o) 0x50 o .fall fun s s2 =>
      let i := cvIdx o.d
      s.cco.point i = none ∧ s.cco.region i = none ∧ s.cco.chain i = none
      ∧ s2 = s.putC i { mask := (s.a64 o).setWidth 32, slot := (s.a64 o >>> 32).setWidth 6, valid := (s.a64 o).getLsbD 63 })
  ∧ (∀ (o : Canon) (s : State) (t : Nat), s.Ready t 0x48 o →
      exec (.trap o) s = .next ((s.dropAnswers (.thread t)).takeFault t 0x13 ((s.b32 o).setWidth 64)))
  ∧ (∀ (o : Canon) (s : State) (t : Nat), s.Ready t 0x49 o →
      exec (.brk o) s = .next ((s.dropAnswers (.thread t)).takeFault t 0x14 ((s.b32 o).setWidth 64)))
  ∧ (∀ (s : State) (t : Nat), (∀ r ∈ s.fabric.reqs, r.agent ≠ .thread t) → s.dropAnswers (.thread t) = s)

/-- O35. The low-rank family. fdot is the fused sum in ascending order. LRMUL of two factor operands has the smaller rank, keeps that side's columns and gives
the other side's as its rule says, the zero matrix when either has rank 0, and with a dense operand the dense product of the expansions. LRADD joins the columns, LRSCALE
scales U and keeps V, LRCUT, LRKEEP and LRFACT give the recompression against %ftol of what they read (LRKEEP to min(b, r), LRFACT with .dense a copy of its source where
the rank does not pay), LRDENSE the expansion over the destination's scales, and LRMMA puts C plus the products of A with the factors to the engine. A recompression
of operands with a NaN or an infinity keeps all columns and raises NV; otherwise it has the least rank whose remainder is within the tolerance. Each result takes
RANK_OVERFLOW, then FACTOR_SPACE, or puts its rounded elements, its rank and its mode into d; the asynchronous forms do so through a kind-7 future. A fault, of the operands
or of the result, is taken after the earlier work on the views has been done. The model's reading (log 32): an asynchronous form computes at issue, and LRADD.auto
rounds its joined factors once through d's format before the cut. -/
def Obligations.LowRankResults : Prop :=
  let row (x : Fact) (i : Nat) : List Nat := (List.range x.r).map fun p => nth 0 x.xs (p * x.m + i)
  let col (x : Fact) (j : Nat) : List Nat := (List.range x.r).map fun p => nth 0 x.xs (x.r * x.m + p * x.n + j)
  let fp (x : FNum) : Nat := (roundNum .fp32 .rne false x).1
  let whole (x : Fact) : Prop := x.xs.length = if x.dense then x.m * x.n else x.r * (x.m + x.n)
  (fdot [] [] = (0, 0#5)
    ∧ ∀ (xs ys : List Nat) (x y : Nat), xs.length = ys.length → (fdot (xs ++ [x]) (ys ++ [y])).1 = (FF.fp32.fma .rne false x y (fdot xs ys).1).1)
  ∧ (∀ (x : Fact) (i j : Nat), whole x → i < x.m → j < x.n →
      nth 0 (nth [] (tableVals x.expand) i) j = if x.dense then nth 0 x.xs (i * x.n + j) else (fdot (row x i) (col x j)).1)
  ∧ (∀ a b : Fact, whole a → whole b →
    let zero : Prop := (a.dense = false ∧ a.r = 0) ∨ (b.dense = false ∧ b.r = 0)
    let r := lrMul a b
    let w (p q : Nat) : Nat := (fdot (nth [] a.v p) (nth [] b.u q)).1
    (zero → r.dense = false ∧ r.rank = 0 ∧ r.vals = [])
    ∧ (¬ zero → a.dense = true ∨ b.dense = true → r.dense = true ∧ r.vals =
        (List.range a.m).flatMap fun i => (List.range b.n).map fun j =>
          f32v (fdot (nth [] (tableVals a.expand) i) ((tableVals b.expand).map (nth 0 · j))).1)
    ∧ (¬ zero → a.dense = false → b.dense = false → a.r ≤ b.r → r.dense = false ∧ r.rank = a.r ∧ r.vals = (a.u.flatMap id).map f32v
        ++ (List.range a.r).flatMap fun p => (List.range b.n).map fun j => f32v (fdot (col b j) ((List.range b.r).map (w p))).1)
    ∧ (¬ zero → a.dense = false → b.dense = false → b.r < a.r → r.dense = false ∧ r.rank = b.r ∧ r.vals =
        ((List.range b.r).flatMap fun q => (List.range a.m).map fun i => f32v (fdot (row a i) ((List.range a.r).map fun p => w p q)).1)
        ++ (b.v.flatMap id).map f32v))
  ∧ (∀ (s : State) (a : Agent) (o : Canon) (p : LrOut) (d v : View), s.factView 1 o.d = .ok d → s.factView 2 o.a = .ok v →
    let f := (s.readFact a v).1
    let n := if v.dense then f.xs.length else v.rank * v.rows
    s.lrScale a o = .ok p → p.dst = d ∧ p.res.rank = v.rank ∧ p.res.dense = v.dense
      ∧ p.res.vals = ((f.xs.take n).map fun y => ((f32v y).mul (f32v (s.rdF .fp32 3 o.b o.imm))).1) ++ (f.xs.drop n).map f32v)
  ∧ (∀ (s : State) (a : Agent) (o : Canon) (p : LrOut) (d x y : View), s.factView 1 o.d = .ok d → s.factView 2 o.a = .ok x → s.factView 3 o.b = .ok y →
    let f := s.readFact a x
    let g := f.2.2.readFact a y
    let r := x.rank + y.rank
    let fmt := (fmtFF d.fmt).getD .fp32
    s.lrAdd a o = .ok p → p.dst = d
      ∧ (x.dense = true ∨ y.dense = true → p.res.dense = true ∧ p.res.vals = (((tableVals f.1.expand).flatMap id).zip ((tableVals g.1.expand).flatMap id)).map
          fun z => ((f32v z.1).add (f32v z.2)).1)
      ∧ (x.dense = false → y.dense = false → r ≤ d.maxrank ∨ o.mod.getLsbD 0 = false → p.res.rank = r ∧ p.res.dense = false
          ∧ p.res.vals = (f.1.u ++ g.1.u ++ (f.1.v ++ g.1.v)).flatMap fun c => c.map f32v)
      ∧ (x.dense = false → y.dense = false → d.maxrank < r → o.mod.getLsbD 0 = true →
          let z := recompress fmt (throughFmt fmt (f.1.u ++ g.1.u)) (throughFmt fmt (f.1.v ++ g.1.v)) d.rows d.cols s.tolNow none
          p.res.dense = false ∧ p.res.rank = z.rank ∧ p.res.vals = z.vals))
  ∧ (∀ (s : State) (a : Agent) (o : Canon) (keep : Option Nat) (p : LrOut) (d v : View), s.factView 1 o.d = .ok d → s.factView 2 o.a = .ok v →
    let f := (s.readFact a v).1
    let z := recompress ((fmtFF d.fmt).getD .fp32) f.u f.v d.rows d.cols s.tolNow keep
    (v.dense = true → s.lrCut a o keep = .error (vkFault (vwIdx o.a)))
    ∧ (s.lrCut a o keep = .ok p → p.dst = d ∧ p.res.dense = false ∧ p.res.rank = z.rank ∧ p.res.vals = z.vals)
    ∧ s.lrOut 0xA2 a o = s.lrCut a o none ∧ s.lrOut 0xA3 a o = s.lrCut a o (some (s.b32 o).toNat))
  ∧ (∀ (s : State) (a : Agent) (o : Canon) (p : LrOut) (d v : View), s.factView 1 o.d = .ok d → s.viewOf 2 o.a = .ok v →
    let x := (s.denseRows a v).1
    let fmt := (fmtFF d.fmt).getD .fp32
    let unit (n : Nat) : List (List Nat) := (List.range n).map fun i => (List.range n).map fun j => if i = j then 0x3F800000 else 0
    let z := if v.cols ≤ v.rows then recompress fmt ((List.range v.cols).map fun j => x.map (nth 0 · j)) (unit v.cols) v.rows v.cols s.tolNow none
      else recompress fmt (unit v.rows) x v.rows v.cols s.tolNow none
    let copied : Prop := o.mod.getLsbD 0 = true ∧ (d.maxrank < z.rank ∨ v.rows * v.cols < (v.rows + v.cols) * z.rank)
    s.lrFact a o = .ok p → p.dst = d ∧ (copied → p.res.dense = true ∧ p.res.vals = x.flatMap fun c => c.map f32v)
      ∧ (¬ copied → p.res.dense = false ∧ p.res.rank = z.rank ∧ p.res.vals = z.vals))
  ∧ (∀ (s : State) (a : Agent) (v : View) (i j : Nat), v.kind ≠ 6 → i < v.rows → j < v.cols →
    let y := (s.readView a s.cco.uid v).1
    nth 0 (nth [] (s.denseRows a v).1 i) j = fp ((elemNum v.fmt false (y.elem v i j)).1.mul (y.scale v i j).1).1)
  ∧ (∀ (fmt : FF) (u v : List (List Nat)) (m n tol : Nat) (keep : Option Nat),
    let z := recompress fmt u v m n tol keep
    let kept : Prop := z.rank = u.length ∧ z.vals = (u ++ v).flatMap (fun c => c.map f32v) ∧ z.flags = NV
    z.dense = false ∧ ((∃ c ∈ u ++ v, ∃ x ∈ c, (f32v x).isFin = false) → kept) ∧ (recompressFin fmt u v m n tol keep = none → kept)
    ∧ (∀ k vals, (∀ c ∈ u ++ v, ∀ x ∈ c, (f32v x).isFin = true) → recompressFin fmt u v m n tol keep = some (k, vals) →
        z.rank = k ∧ z.vals = vals ∧ z.flags = 0#5
        ∧ ∃ (qu ru qv rv g w : List (List Nat)) (order : List Nat),
          mgs [] [] u = some (qu, ru) ∧ mgs [] [] v = some (qv, rv)
          ∧ (let c := (List.range u.length).map fun q => (List.range u.length).map fun p => (fdot (ru.map (nth 0 · p)) (rv.map (nth 0 · q))).1
             sweeps u.length 12 (c, identityCols u.length) = some (g, w))
          ∧ (let sigma (q : Nat) : Nat := sqrtRn (fdot (nth [] g q) (nth [] g q)).1
             order.Perm (List.range u.length) ∧ order.Pairwise (fun a b => sigma b < sigma a ∨ (sigma a = sigma b ∧ a ≤ b))
             ∧ k = keptRank (order.map sigma) tol keep
             ∧ vals = ((order.take k).flatMap fun q => (List.range m).map fun l =>
                  ((f32v (fdot (qu.map (nth 0 · l)) ((nth [] g q).map fun e => if sigma q = 0 then 0 else divRn e (sigma q))).1).mul (f32v (sigma q))).1)
                ++ (order.take k).flatMap fun q => (List.range n).map fun l => f32v (fdot (qv.map (nth 0 · l)) (nth [] w q)).1)))
  ∧ (∀ (sig : List Nat) (tol b : Nat),
    let fits (k : Nat) : Prop := (sumSq (sig.drop k)).cmp (((f32v tol).mul (f32v tol)).1.mul (sumSq sig)).1 ≠ .gt
    keptRank sig tol (some b) = min b sig.length
    ∧ ((f32v tol).isFin = true → let k := keptRank sig tol none
        k ≤ sig.length ∧ (k < sig.length → fits k) ∧ ∀ i, i < k → ¬ fits i))
  ∧ (∀ (s : State) (a : Agent) (o : Canon) (r : LrOut × List (List Nat)) (d v : View), s.viewOf 1 o.d = .ok d → s.factView 2 o.a = .ok v →
    let f := s.readFact a v
    let e := tableVals f.1.expand
    let sc := f.2.2.readScales a s.cco.uid d
    s.lrDense a o = .ok r →
      (d.kind = 6 → r.1.dst = d ∧ r.1.res.dense = true ∧ r.1.res.vals = e.flatMap fun c => c.map f32v)
      ∧ (d.kind ≠ 6 → r.1.st = sc.2 ∧ r.2 = (List.range d.rows).map fun i => (List.range d.cols).map fun j =>
          (divScale ((fmtFF d.fmt).getD .fp32) .rne false (f32v (nth 0 (nth [] e i) j), 0#5) (({ rows := [], scales := sc.1 } : VData).scale d i j)).1))
  ∧ (∀ (c : TeamCtx) (s : State) (p : LrOut) (q : List (List Nat)),
    let s0 := (s.flushMat s.cco.core).joinTeam c
    let co := p.st.co c.coh
    s0.lrDense (.thread s0.me) c.pt.word = .ok (p, q) →
    (∀ e s2, p.dst.kind = 6 → p.effect = .ok (e, s2) → teamLrdense c s
      = .ok (c.resumeLr (s2.putLowRank (s2.co c.coh).core c.coh (c.ms.map fun t => (s2.th t).tid) e) s2.prov.next e.flags))
    ∧ (p.dst.kind ≠ 6 → teamLrdense c s = .ok (c.resumeLr (((List.range q.length).zip q).foldl (fun st x =>
      let off := p.dst.base + x.1 * p.dst.pitch
      let b := packBytes p.dst.bits (Memory.get st.mem (tileKey co.uid (off + p.dst.rowBytes - 1))) x.2
      st.engineWrite co.core [] (((List.range b.length).zip b).map fun y => (tileKey co.uid (off + y.1), y.2))) p.st) p.st.prov.next p.res.flags)))
  ∧ (∀ (c : TeamCtx) (s : State) (cv av bv : View),
    let s0 := (s.flushMat s.cco.core).joinTeam c
    s0.viewOf 1 c.pt.word.d = .ok cv → s0.viewOf 2 c.pt.word.a = .ok av → s0.viewOf 3 c.pt.word.b = .ok bv →
    cv.kind = 3 → cv.fmt = 13 → av.kind = 5 → (av.fmt = 13 ∨ av.fmt = 12 ∨ av.fmt = 11) → av.layout = 0 → av.rows = cv.rows → bv.kind = 6 → av.cols = bv.rows →
    bv.cols = cv.cols →
    let x := s0.readView (.thread s0.me) s0.cco.uid av
    let b := x.2.readFact (.thread s0.me) bv
    let ar (i : Nat) : List Nat := (List.range av.cols).map fun l => fp (((fmtFF av.fmt).getD .fp32).value (x.1.elem av i l))
    let term (i j : Nat) : Nat :=
      if b.1.dense then (fdot (ar i) ((tableVals b.1.expand).map (nth 0 · j))).1
      else (fdot (b.1.u.map fun u => (fdot (ar i) u).1) (b.1.v.map (nth 0 · j))).1
    let old := b.2.2.accRead s0.cco.uid cv.base (cv.rows * cv.cols) 32
    ∃ f, teamLrmma c s = .ok (b.2.2.takeMat c (elemCells s0.cco.uid cv.base 32 ((List.range (cv.rows * cv.cols)).map fun n =>
      (FF.fp32.add2 .rne false (nth 0 old n) (term (n / cv.cols) (n % cv.cols))).1)) f))
  ∧ (∀ (op : Nat) (c : TeamCtx) (s s1 : State) (p : LrOut), op ∈ [0xA0, 0xA1, 0xA2, 0xA3, 0xA4, 0xA8] →
    (if op = 0xA3 ∨ op = 0xA8 then s.uniform (uniformB c.pt.word) else .ok s) = .ok s1 →
    let s0 := (s1.flushMat s1.cco.core).joinTeam c
    s0.lrOut op (.thread s0.me) c.pt.word = .ok p →
    let tids (s2 : State) : List Nat := c.ms.map fun t => (s2.th t).tid
    (∀ code detail, p.effect = .error (.fault code detail) → teamFact op c s = .ok (.faults (s1.flushMat s1.cco.core) code detail))
    ∧ (∀ e s2, p.effect = .ok (e, s2) →
      teamFact op c s = .ok (c.resumeLr (s2.putLowRank (s2.co c.coh).core c.coh (tids s2) e) s2.prov.next e.flags)))
  ∧ (∀ (op : Nat) (c : TeamCtx) (s s1 : State) (code : Nat) (detail : DWord), op ∈ [0xA0, 0xA1, 0xA2, 0xA3, 0xA4, 0xA8] →
    (if op = 0xA3 ∨ op = 0xA8 then s.uniform (uniformB c.pt.word) else .ok s) = .ok s1 →
    let s0 := (s1.flushMat s1.cco.core).joinTeam c
    s0.lrOut op (.thread s0.me) c.pt.word = .error (.fault code detail) → teamFact op c s = .ok (.faults (s1.flushMat s1.cco.core) code detail))
  ∧ (∀ (c : TeamCtx) (s : State) (code : Nat) (detail : DWord), let s0 := (s.flushMat s.cco.core).joinTeam c
    (s0.lrDense (.thread s0.me) c.pt.word = .error (.fault code detail)
      ∨ (∃ p q, s0.lrDense (.thread s0.me) c.pt.word = .ok (p, q) ∧ p.dst.kind = 6 ∧ p.effect = .error (.fault code detail))) →
    teamLrdense c s = .ok (.faults (s.flushMat s.cco.core) code detail))
  ∧ (∀ p : LrOut,
    let v : View := { p.dst with rank := if p.res.dense then 0 else p.res.rank, dense := p.res.dense }
    let fits : Prop := p.res.dense = true ∨ p.res.rank ≤ p.dst.maxrank
    (¬ fits → ∃ detail, p.effect = .error (.fault 0x0F detail) ∧ detail.toNat % 2 ^ 8 = p.res.rank % 2 ^ 8)
    ∧ (fits → v.poolsz < v.occupancy → ∃ detail, p.effect = .error (.fault 0x10 detail) ∧ detail.toNat % 2 ^ 20 = v.occupancy % 2 ^ 20)
    ∧ (fits → v.occupancy ≤ v.poolsz →
        let rest := p.st.freeBytes (v.poolsz - v.occupancy)
        let uid := rest.2.cco.uid
        let data := elemsBytes v.bits (p.res.vals.map fun x => (roundNum ((fmtFF v.fmt).getD .fp32) .rne false x).1)
        ∃ e, p.effect = .ok (e, rest.2) ∧ e.rank = some (p.vw, v.rank, v.dense) ∧ e.fault = none ∧ e.bytes =
          ((List.range data.length).zip data).map (fun x => (tileKey uid (v.base + x.1), x.2))
          ++ ((List.range rest.1.length).zip rest.1).map fun x => (tileKey uid (v.base + v.occupancy + x.1), x.2)))
  ∧ (∀ (s : State) (core coh vw r : Nat) (dense : Bool) (tids : List Nat) (e : Effect), coh < s.cohorts.length → e.rank = some (vw, r, dense) →
    vw < (s.co coh).vw.length → (e.bytes.map (·.1)).Nodup → Memory.wf s.mem = true →
    let s1 := s.putLowRank core coh tids e
    let old := ((s.co coh).vc vw).newest
    ((s1.co coh).vc vw).newest = { old with rank := r, dense := dense }
    ∧ (∀ x ∈ e.bytes, Memory.get s1.mem x.1 = x.2) ∧ ∀ k, k ∉ e.bytes.map (·.1) → Memory.get s1.mem k = Memory.get s.mem k)
  ∧ (∀ (op : Nat) (c : TeamCtx) (s : State) (d v : View), s.viewOf 1 c.pt.word.d = .ok d → s.viewOf 2 c.pt.word.a = .ok v →
    let s0 := (s.flushMat s.cco.core).joinTeam c
    let forked (e : Effect) (s2 : State) : Except Trap TeamOut :=
      let w := c.pt.word
      let f := s2.fork 7 false .running 0 (.lowRank e (vwIdx w.d) (vwIdx w.a))
      let h := f.1
      let s3 := f.2.updOp (hCore h) (hSerial h) fun x => { x with takers := c.ms }
      let s4 := s3.see (.op (hCore h) (hSerial h)) (s3.passedByAll c.ms)
      let co := s4.co c.coh
      .ok (.resume (c.ms.foldl (fun st t => st.as t fun x => x.putFuture w.b h)
        (s4.setCo c.coh { co with holds := co.holds ++ [(vwIdx w.d, hCore h, hSerial h), (vwIdx w.a, hCore h, hSerial h)] })))
    (∀ p e s2, s0.lrOut op (.thread s0.me) c.pt.word = .ok p → p.effect = .ok (e, s2) → teamFactAsync op c s = forked e s2)
    ∧ (∀ p code detail, s0.lrOut op (.thread s0.me) c.pt.word = .ok p → p.effect = .error (.fault code detail) →
        teamFactAsync op c s = forked { bytes := [], rank := none, flags := 0#5, fault := some (code, detail) } s0)
    ∧ (c.pt.word.mod.getLsbD 1 = true → teamFactBy op c s = teamFactAsync op c s) ∧ (c.pt.word.mod.getLsbD 1 = false → teamFactBy op c s = teamFact op c s))

/-- O36. For each team instruction, a member of the team that may sign supplies its values, signs and blocks at the instruction; while another running
member has not signed nothing else happens; when every member has signed or exited, the instruction's effect happens once for the signed members, the
signing point closes, and the members go on (or stay where the effect has placed them). A fault of the effect is taken by each signed member. TSIGN's effect makes
all that the signed and the exited members did known to each signed member, as releases at .core, and makes certain for them the writes of uniform registers that came
before their signatures, or before the exited members' ends. LSER's effect opens the region: the signed member of the lowest lane enters and goes on, and the others
sleep past the instruction until their turn. -/
def Obligations.TeamInstructionsSignAndExecute : Prop :=
  ∀ (i : Instr) (op : Nat) (o : Canon) (cvf : Nat) (all : Bool), canonOf i = some (op, o) → teamForm op = some (cvf, all) →
    let vals (s : State) : List Nat :=
      if op = 0x52 then [(s.a32 o).toNat]
      else if op = 0x53 then [if o.mod.getLsbD 2 then (s.a64 o).toNat else (s.a32 o).toNat]
      else if op = 0x54 ∨ op = 0x55 then redVal o s else []
    (TeamRuns i op o cvf all vals (fun c s out => teamEffectOf op c s = .ok out)
    ∧ TeamFaults i op o cvf all vals (fun c s code detail => teamEffectOf op c s = .error (.fault code detail)))
    ∧ (op = 0x51 → ∀ (c : TeamCtx) (s : State), (∀ t ∈ c.ms, t < s.threads.length ∧ t ∈ s.teamOf c.coh c.cv) → c.coh < s.cohorts.length →
      let gone := s.exitedOf c.coh c.cv
      let r := s.releaseAll (gone ++ c.ms) scCore
      ∃ s1, teamEffectOf op c s = .ok (.resume s1)
        ∧ (∀ t ∈ c.ms, ∀ w ∈ r.1, w ∈ s1.seenBy (.thread t)) ∧ (∀ t ∈ gone ++ c.ms, ∀ w ∈ (s.th t).seen, w ∉ ofAgent s.prov.shown (.thread t) → w ∈ r.1)
        ∧ (∀ u, { s1.th u with seen := (s.th u).seen } = s.th u) ∧ s1.mem = r.2.mem
        ∧ (∀ (x : Nat) (u : UCell DWord) (w : UWrite DWord) (older : List (UWrite DWord)), (s.co c.coh).k[x]? = some u → u.hist = w :: older →
            (∃ t ∈ c.ms ++ gone, (s.th t).tid ∈ w.writers) → w.id < (s.co c.coh).unext →
            ∃ u1, (s1.co c.coh).k[x]? = some u1 ∧ ∀ t ∈ c.ms, u1.values (s.th t).tid = [w.val]))
    ∧ (op = 0x4A → ∀ (c : TeamCtx) (s : State) (t : Nat) (rest : List Nat), c.ms = t :: rest → c.ms.Nodup → (∀ u ∈ c.ms, u < s.threads.length) →
      c.coh < s.cohorts.length → c.cv < (s.co c.coh).regions.length →
      ∃ s1, teamEffectOf op c s = .ok (.placed s1)
        ∧ s1.th t = { s.th t with pc := fallPc (s.th t).pc c.pt.word.len.toNat, run := .ready, listed := .no }
        ∧ (∀ u ∈ rest, (s1.th u).run = .blocked .entry ∧ (s1.th u).pc = fallPc (s.th u).pc c.pt.word.len.toNat)
        ∧ (s1.co c.coh).region c.cv = some { pc := c.pt.pc, inside := some t, todo := rest, known := [] }
        ∧ (∀ u, u ∉ c.ms → s1.th u = s.th u) ∧ s1.mem = s.mem)

/-- O37. VOTE's result is 1 or 0 as all supplied values are nonzero, any is, or all are equal, and the ballot has bit i set exactly when lane i supplied a nonzero
value. LANEX's source lane is the lane xor the parameter, the rotation within groups of eight, the mirror, or the parameter, always a lane of the slot. A reduction folds
op over the values in ascending lane, first value first; an inclusive scan gives each lane the fold up to and with its own value, an exclusive one the fold before it,
the first lane the identity. The operations are R424's: sums wrap, min and max follow SG, fadd rounds once by RNE,
fmin and fmax are those of R120, and each has the identity that R424 gives it. A lane that no running member supplies reads as 0 in LANEX. VOTE, LANEX, TRED, TSCAN and LRRANK deliver these results to the general register or pair d of each signed member, with the flags met,
and change no other thread. -/
def Obligations.TeamValueResults : Prop :=
  (∀ xs : List (Nat × Nat), xs ≠ [] → (xs.map fun x => x.1 % 32).Nodup →
    (voteResult 0 xs = if ∀ x ∈ xs, x.2 ≠ 0 then 1#32 else 0#32)
    ∧ (voteResult 1 xs = if ∃ x ∈ xs, x.2 ≠ 0 then 1#32 else 0#32)
    ∧ (voteResult 2 xs = if ∀ x ∈ xs, ∀ y ∈ xs, x.2 = y.2 then 1#32 else 0#32)
    ∧ (∀ i, i < 32 → ((voteResult 3 xs).getLsbD i = true ↔ ∃ x ∈ xs, x.1 % 32 = i ∧ x.2 ≠ 0)))
  ∧ (∀ i p, i < 32 →
    (p ∈ [1, 2, 4, 8, 16] → laneSrc 0 p i = i ^^^ p ∧ laneSrc 0 p i < 32)
    ∧ (laneSrc 1 p i = i / 8 * 8 + (i + p) % 8 ∧ laneSrc 1 p i < 32)
    ∧ (laneSrc 2 p i = 31 - i) ∧ (laneSrc 3 p i = p))
  ∧ (∀ (op : Nat) (sg : Bool) (x : Nat × Nat) (xs : List (Nat × Nat)),
    let f (r v : Nat) : Nat := (redOp op sg r v).1
    let fold (ys : List (Nat × Nat)) : Nat := ys.foldl (fun r y => f r y.2) x.2
    (∀ excl, (scanVals op sg excl (x :: xs)).2.1 = fold xs)
    ∧ (∀ k, k ≤ xs.length → (scanVals op sg false (x :: xs)).1[k]? = some (((x :: xs)[k]?.map (·.1)).getD 0, fold (xs.take k)))
    ∧ (∀ k, k < xs.length → (scanVals op sg true (x :: xs)).1[k + 1]? = some ((xs[k]?.map (·.1)).getD 0, fold (xs.take k)))
    ∧ (scanVals op sg true (x :: xs)).1[0]? = some (x.1, redIdentity op sg))
  ∧ (∀ (sg : Bool) (r v : Nat), r < 2 ^ 32 → v < 2 ^ 32 →
    (redOp 0 sg r v).1 = (r + v) % 2 ^ 32 ∧ (redOp 3 sg r v).1 = r &&& v ∧ (redOp 4 sg r v).1 = r ||| v ∧ (redOp 5 sg r v).1 = r ^^^ v
    ∧ (redOp 1 false r v).1 = min r v ∧ (redOp 2 false r v).1 = max r v
    ∧ (let sv (x : Nat) : Int := if 2 ^ 31 ≤ x then (x : Int) - 2 ^ 32 else x
      let lo := (redOp 1 true r v).1
      let hi := (redOp 2 true r v).1
      (lo = r ∨ lo = v) ∧ sv lo = min (sv r) (sv v) ∧ (hi = r ∨ hi = v) ∧ sv hi = max (sv r) (sv v))
    ∧ (let nan (x : Nat) : Prop := 0x7F800000 < x % 2 ^ 31
      let sig (x : Nat) : Prop := nan x ∧ x % 2 ^ 31 < 0x7FC00000
      let key (x : Nat) : Int := if x < 2 ^ 31 then x else 2 ^ 31 - x
      let sum := (FF.fp32.value r).add (FF.fp32.value v)
      let exact := roundNum .fp32 .rne false sum.1
      let lo := redOp 7 sg r v
      let hi := redOp 8 sg r v
      (redOp 6 sg r v).1 = exact.1 ∧ (nan r ∨ nan v → (redOp 6 sg r v).1 = 0x7FC00000)
      ∧ (redOp 6 sg r v).2 = exact.2 ||| (if sig r ∨ sig v ∨ sum.2 = true then NV else 0)
      ∧ (nan r → nan v → lo.1 = 0x7FC00000 ∧ hi.1 = 0x7FC00000) ∧ (nan r → ¬ nan v → lo.1 = v ∧ hi.1 = v) ∧ (¬ nan r → nan v → lo.1 = r ∧ hi.1 = r)
      ∧ (¬ nan r → ¬ nan v → (lo.1 = r ∨ lo.1 = v) ∧ (hi.1 = r ∨ hi.1 = v) ∧ key lo.1 = min (key r) (key v) ∧ key hi.1 = max (key r) (key v))
      ∧ ((r = 0 ∧ v = 2 ^ 31) ∨ (r = 2 ^ 31 ∧ v = 0) → lo.1 = 2 ^ 31 ∧ hi.1 = 0)
      ∧ (lo.2 = if sig r ∨ sig v then NV else 0) ∧ hi.2 = if sig r ∨ sig v then NV else 0))
  ∧ (∀ sg : Bool, redIdentity 0 sg = 0 ∧ redIdentity 4 sg = 0 ∧ redIdentity 5 sg = 0 ∧ redIdentity 3 sg = 0xFFFFFFFF
    ∧ redIdentity 1 sg = (if sg then 0x7FFFFFFF else 0xFFFFFFFF) ∧ redIdentity 2 sg = (if sg then 0x80000000 else 0)
    ∧ redIdentity 6 sg = 0 ∧ redIdentity 7 sg = 0x7F800000 ∧ redIdentity 8 sg = 0xFF800000)
  ∧ (∀ (c : TeamCtx) (s : State), c.ms.Nodup → (∀ t ∈ c.ms, t < s.threads.length) → c.pt.word.d.toNat < 64 →
    let o := c.pt.word
    let d := o.d.toNat
    let other (s1 : State) : Prop := (∀ u, u ∉ c.ms → s1.th u = s.th u) ∧ s1.cohorts = s.cohorts ∧ s1.mem = s.mem
    (∃ s1, teamVote c s = .ok (.resume s1) ∧ other s1 ∧ ∀ t ∈ c.ms, s1.th t = (s.th t).setG d (voteResult (o.mod.toNat % 4) (c.vals s)))
    ∧ (∃ s1, teamLanex c s = .ok (.resume s1) ∧ other s1 ∧ ∀ t ∈ c.ms, ∀ u ∈ c.ms, (c.ms.map fun t => (s.th t).lane).Nodup →
        (s.th u).lane = laneSrc (o.mod.toNat % 4) (lanePar o) (s.th t).lane →
        let v := c.val (s.th u).tid
        s1.th t = if o.mod.getLsbD 2 then (s.th t).setPair d (BitVec.ofNat 64 v) else (s.th t).setG d (BitVec.ofNat 32 v))
    ∧ (∃ s1, teamLanex c s = .ok (.resume s1) ∧ ∀ t ∈ c.ms, (∀ u ∈ c.ms, (s.th u).tid % 32 ≠ laneSrc (o.mod.toNat % 4) (lanePar o) (s.th t).lane) →
        s1.th t = if o.mod.getLsbD 2 then (s.th t).setPair d 0 else (s.th t).setG d 0)
    ∧ (∃ s1, teamTred c s = .ok (.resume s1) ∧ other s1 ∧ ∀ t ∈ c.ms,
        let r := (scanVals (o.mod.toNat % 16) (o.mod.getLsbD 4) false (c.vals s)).2
        s1.th t = { (s.th t).setG d (BitVec.ofNat 32 r.1) with fstat := (s.th t).fstat ||| r.2 })
    ∧ (∃ s1, teamTscan c s = .ok (.resume s1) ∧ other s1 ∧ ∀ t ∈ c.ms, ∀ x,
        let r := scanVals (o.mod.toNat % 16) (o.mod.getLsbD 4) (o.mod.getLsbD 5) (c.vals s)
        (c.ms.map fun t => (s.th t).tid).Nodup → x ∈ r.1 → x.1 = (s.th t).tid →
        s1.th t = { (s.th t).setG d (BitVec.ofNat 32 x.2) with fstat := (s.th t).fstat ||| r.2.2 })
    ∧ (∀ v, s.viewOf 2 o.a = .ok v → v.kind = 6 → ∃ s1, teamLrrank c s = .ok (.resume s1) ∧ other s1 ∧ ∀ t ∈ c.ms, s1.th t = (s.th t).setG d (rankWord v)))
  ∧ (∀ v : View, v.rank < 128 → v.occupancy < 2 ^ 17 → (rankWord v).toNat = v.rank + (if v.dense then 128 else 0) + v.occupancy / 256 * 256)

/-- O38. An integer MMA leaves in each element of C the old value plus the sum of the products of its row of A and its column of B, modulo 2^32, whatever the chunks; a floating MMA adds to each element,
chunk by chunk in ascending order, the exact sum of the chunk's products of scaled elements, rounded once to FP32, and rounds each addition; the chunk length is R123's; an
MMA outside a chain puts the result of its checked operands to the engine, and inside a chain notes its contributions and its members go on. CMMA puts to the engine, for
each element, the compensated complex sum over ascending k of R126. The engine's members sleep until the result is written, or go on at once inside a chain, and the
result's bytes are then C's. MCHB opens an empty chain, or takes TEAM with cause 10 when one is open; MCHE closes it, adding what is left of it, with a kind-1 future
under ASYNC, or takes cause 10 when none is open; a check that fails is taken after the engine's earlier work. REQNT takes each element to its new scale and raises the flags met. The model's reading (log 31): an
operation adds to the newest value of its accumulator, the engine's earlier work is done first, and MCHE makes known all the writes made for the chain and holds its views. -/
def Obligations.MatrixResults : Prop :=
  (∀ (p : MmaOps) (vw : Nat) (takers : List Nat) (ad bd : VData) (al bl : List Byte) (cs : List Nat) (i j : Nat),
    0 < p.ch → p.ch ∣ p.a.cols → cs.length = p.a.rows * p.b.cols → i < p.a.rows → j < p.b.cols →
    let out := (mmaContribs p true false vw takers ad bd al bl).foldl (fun (r : List Nat) x => (addTerms x.isInt x.sat r x.terms).1) cs
    let a (k : Nat) : Int := readInt p.a.signed p.a.bits (ad.elem p.a i k)
    let b (k : Nat) : Int := readInt p.b.signed p.b.bits (bd.elem p.b k j)
    let n := i * p.b.cols + j
    0 < p.a.cols → ((nth 0 out n : Nat) : Int) = (readInt true 32 (nth 0 cs n) + ((List.range p.a.cols).map fun k => a k * b k).sum) % 2 ^ 32)
  ∧ (∀ (p : MmaOps) (sat : Bool) (vw : Nat) (takers : List Nat) (ad bd : VData) (al bl : List Byte) (cs : List Nat) (i j : Nat),
    0 < p.ch → p.ch ∣ p.a.cols → cs.length = p.a.rows * p.b.cols → i < p.a.rows → j < p.b.cols →
    let out := (mmaContribs p false sat vw takers ad bd al bl).foldl (fun (r : List Nat) x => (addTerms x.isInt x.sat r x.terms).1) cs
    let product (k : Nat) : FNum := ((operandNum p.a al ad i k).1.mul (operandNum p.b bl bd k j).1).1
    let sum (c : Nat) : FNum := ((List.range (p.ch - 1)).map (· + 1)).foldl (fun x l => (x.add (product (c * p.ch + l))).1) (product (c * p.ch))
    nth 0 out (i * p.b.cols + j) = (List.range (p.a.cols / p.ch)).foldl (fun x c => (FF.fp32.add2 .rne false x (roundNum .fp32 .rne false (sum c)).1).1)
      (nth 0 cs (i * p.b.cols + j)))
  ∧ (∀ (v : View) (levels : List Byte) (d : VData) (i j : Nat),
    let x := if v.fmt = 14 then FF.bf16.value (leNat ((levels.drop (0x120 + 2 * (d.elem v i j % 16))).take 2)) else (elemNum v.fmt v.signed (d.elem v i j)).1
    (operandNum v levels d i j).1 = if v.layout = 0 then x else (x.mul (d.scale v i j).1).1)
  ∧ (∀ a b : View, let float (v : View) : Prop := v.fmt ∈ [8, 9, 10, 11, 12, 13, 14]
    (float a → float b → a.layout ≠ 0 → b.layout = 0 ∨ b.bl = a.bl → chunkLen false a b = some a.bl)
    ∧ (float a → float b → b.layout ≠ 0 → a.layout = 0 ∨ a.bl = b.bl → chunkLen false a b = some b.bl)
    ∧ (a.layout ≠ 0 → b.layout ≠ 0 → a.bl ≠ b.bl → chunkLen false a b = none)
    ∧ (float a → float b → a.layout = 0 → b.layout = 0 → chunkLen false a b
        = some (if a.fmt = 13 ∨ b.fmt = 13 then 8 else if a.fmt ∈ [11, 12, 14] ∨ b.fmt ∈ [11, 12, 14] then 16 else 32))
    ∧ (¬ float a ∨ ¬ float b → chunkLen false a b = none)
    ∧ (a.fmt ∈ [1, 2] → b.fmt ∈ [1, 2] → a.layout = 0 → b.layout = 0 → chunkLen true a b = some (if a.fmt = 1 ∧ b.fmt = 1 then 64 else 32))
    ∧ (a.fmt ∉ [1, 2] ∨ b.fmt ∉ [1, 2] ∨ a.layout ≠ 0 ∨ b.layout ≠ 0 → chunkLen true a b = none))
  ∧ (∀ (s s1 : State) (op : Nat) (o : Canon) (p : MmaOps), op = 0x90 ∨ op = 0x91 → s.mmaCheck op o = .ok (p, s1) →
    chunkLen (op == 0x91) p.a p.b = some p.ch ∧ p.a.cols % p.ch = 0 ∧ p.c.kind = 3 ∧ p.c.fmt = (if op = 0x91 then 4 else 13)
    ∧ p.a.rows = p.c.rows ∧ p.b.rows = p.a.cols ∧ p.b.cols = p.c.cols)
  ∧ (∀ (c : TeamCtx) (s sn : State) (op code : Nat) (detail : DWord), op = 0x90 ∨ op = 0x91 → s.uniform (mmaName op c.pt.word) = .ok sn →
    let s0 := (sn.flushMat sn.cco.core).joinTeam c
    s0.mmaCheck op c.pt.word = .error (.fault code detail)
      ∨ (∃ p s1, s0.mmaCheck op c.pt.word = .ok (p, s1) ∧ (s1.readFrom (.thread s1.me) p.asrc p.a).2.mmaB p = .error (.fault code detail)) →
    teamMma op c s = .ok (.faults (sn.flushMat sn.cco.core) code detail))
  ∧ (∀ (c : TeamCtx) (s : State) (code : Nat) (detail : DWord), ((s.flushMat s.cco.core).joinTeam c).mmaCheck 0x92 c.pt.word = .error (.fault code detail) →
    teamCmma c s = .ok (.faults (s.flushMat s.cco.core) code detail))
  ∧ (∀ (op : Nat) (c : TeamCtx) (s sn : State) (p : MmaOps) (s1 s3 : State) (bd : VData) (bl : List Byte), op = 0x90 ∨ op = 0x91 →
    let o := c.pt.word
    let r := s1.readFrom (.thread s1.me) p.asrc p.a
    let parts := mmaContribs p (op == 0x91) (o.mod.getLsbD 14) (vwIdx o.d) c.ms r.1 bd p.levels bl
    let sum := parts.foldl (fun (x : List Nat × Flags) y => let z := addTerms y.isInt y.sat x.1 y.terms; (z.1, x.2 ||| z.2 ||| y.flags))
      (s3.accRead (s3.co c.coh).uid p.c.base (p.c.rows * p.c.cols) 32, 0#5)
    s.uniform (mmaName op o) = .ok sn → ((sn.flushMat sn.cco.core).joinTeam c).mmaCheck op o = .ok (p, s1) → r.2.mmaB p = .ok (bd, bl, s3) →
    ((s3.co c.coh).chain c.cv = none → teamMma op c s = .ok (s3.takeMat c (elemCells (s3.co c.coh).uid p.c.base 32 sum.1) sum.2))
    ∧ (∀ old, (s3.co c.coh).chain c.cv = some old →
        teamMma op c s = .ok (.resume (s3.setCo c.coh { s3.co c.coh with chains := (s3.co c.coh).chains.set c.cv (some (old ++ parts)) }))))
  ∧ (∀ (c : TeamCtx) (s : State) (p : MmaOps) (s1 : State), ((s.flushMat s.cco.core).joinTeam c).mmaCheck 0x92 c.pt.word = .ok (p, s1) →
    let x := s1.readFrom (.thread s1.me) p.asrc p.a
    let y := x.2.readFrom (.thread x.2.me) p.bsrc p.b
    let uid := (y.2.co c.coh).uid
    let n := p.c.rows * p.c.cols
    let lob := p.c.base + p.c.rows * p.c.pitch
    let hi := y.2.accRead uid p.c.base n 64
    let lo := y.2.accRead uid lob n 64
    let out := (List.range n).map fun m =>
      cmmaElem (nth 0 hi m % 2 ^ 32, nth 0 lo m % 2 ^ 32) (nth 0 hi m / 2 ^ 32, nth 0 lo m / 2 ^ 32)
        ((List.range p.a.cols).map fun k => x.1.elem p.a (m / p.c.cols) k) ((List.range p.b.rows).map fun k => y.1.elem p.b k (m % p.c.cols))
    teamCmma c s = .ok (y.2.takeMat c (elemCells uid p.c.base 64 (out.map fun e => e.1.1 + e.2.1.1 * 2 ^ 32)
      ++ elemCells uid lob 64 (out.map fun e => e.1.2 + e.2.1.2 * 2 ^ 32)) (out.foldl (fun f e => f ||| e.2.2) 0#5)))
  ∧ (∀ (re im : HiLo) (as bs : List Nat) (a b : Nat), as.length = bs.length → cmmaElem re im [] [] = (re, im, 0#5) ∧
    (let e := cmmaElem re im as bs
     let z := cmmaElem re im (as ++ [a]) (bs ++ [b])
     let num (v : Nat) : FNum := FF.fp32.value (v % 2 ^ 32)
     let term (x : HiLo) (v w : FNum) (minus : Bool) : HiLo := (cmmaTerm (x, 0#5) v w minus).1
     z.1 = term (term e.1 (num a) (num b) false) (num (a / 2 ^ 32)) (num (b / 2 ^ 32)) true
     ∧ z.2.1 = term (term e.2.1 (num a) (num (b / 2 ^ 32)) false) (num (a / 2 ^ 32)) (num b) false))
  ∧ (∀ (hi lo : Nat) (fl : Flags) (x y : FNum) (minus : Bool),
    let px := if minus then (x.mul y).1.negate else (x.mul y).1
    let v (b : Nat) : FNum := FF.fp32.value b
    let h := (roundNum .fp32 .rne false px).1
    let l := if (v h).isFin then (roundNum .fp32 .rne false (px.add (v h).negate).1).1 else 0
    let t := (FF.fp32.add2 .rne false hi h).1
    let sub (a b : Nat) : Nat := (FF.fp32.sub2 .rne false a b).1
    let add (a b : Nat) : Nat := (FF.fp32.add2 .rne false a b).1
    let e := if (v hi).isFin = true ∧ (v h).isFin = true ∧ (v t).isFin = true then
        (if (v h).abs.cmp (v hi).abs ≠ .gt then add (sub hi t) h else add (sub h t) hi) else 0
    (cmmaTerm ((hi, lo), fl) x y minus).1 = (t, add (add lo e) l))
  ∧ (∀ (s : State) (c : TeamCtx) (cells : List (Nat × Byte)) (f : Flags), c.ms.Nodup → (∀ t ∈ c.ms, t < s.threads.length) →
    let chain := (s.co c.coh).chain c.cv
    ∃ m : MatOp, m.core = (s.co c.coh).core ∧ m.coh = c.coh ∧ m.cv = c.cv ∧ m.tids = c.ms ∧ m.eff.bytes = cells ∧ m.eff.flags = f ∧ m.chained = chain.isSome
      ∧ (chain.isSome = true → s.takeMat c cells f = .resume { s with matops := s.matops ++ [m] })
      ∧ (chain = none → ∃ s1, s.takeMat c cells f = .placed s1 ∧ s1.matops = s.matops ++ [m]
          ∧ ∀ t ∈ c.ms, (s1.th t).run = .blocked .matrix ∧ (s1.th t).pc = fallPc (s.th t).pc c.pt.word.len.toNat))
  ∧ (∀ (s : State) (m : MatOp), (m.eff.bytes.map (·.1)).Nodup → Memory.wf s.mem = true → m.tids.Nodup → (∀ t ∈ m.tids, t < s.threads.length) →
    let s1 := s.finishMat m
    (∀ x ∈ m.eff.bytes, Memory.get s1.mem x.1 = x.2) ∧ (∀ k, k ∉ m.eff.bytes.map (·.1) → Memory.get s1.mem k = Memory.get s.mem k)
    ∧ (m.chained = false → ∀ t ∈ m.tids, (s.th t).run = .blocked .matrix → (s1.th t).run = .ready ∧ (s1.th t).fstat = (s.th t).fstat ||| m.eff.flags))
  ∧ (∀ (c : TeamCtx) (s : State),
    let co := s.co c.coh
    (co.chain c.cv = none → teamMchb c s = .ok (.resume (s.setCo c.coh { co with chains := co.chains.set c.cv (some []) })))
    ∧ ((co.chain c.cv).isSome = true → teamMchb c s = .error (.fault 0x12 (BitVec.ofNat 64 (10 + c.cv * 16)))))
  ∧ (∀ (c : TeamCtx) (s : State),
    let s0 := s.flushMat (s.co c.coh).core
    let co := s0.co c.coh
    (co.chain c.cv = none → teamMche c s = .error (.fault 0x12 (BitVec.ofNat 64 (10 + c.cv * 16))))
    ∧ (∀ parts, co.chain c.cv = some parts →
      let s1 := s0.setCo c.coh { co with chains := co.chains.set c.cv none }
      let s2 := s1.applyAll co.core co.uid parts
      let f := s1.fork 1 false .running 0 (.chain parts)
      let h := f.1
      let views := (parts.foldl (fun l p => union l [p.vw]) []).filter (· < 32)
      let s3 := f.2.setCo c.coh { f.2.co c.coh with holds := (f.2.co c.coh).holds ++ views.map fun v => (v, hCore h, hSerial h) }
      let s4 := s3.see (.op (hCore h) (hSerial h)) (union (s3.passedByAll c.ms) (madeWrites parts))
      (c.pt.word.mod.getLsbD 0 = false →
        teamMche c s = .ok (.resume (c.ms.foldl (fun st t => st.see (.thread t) (union (madeWrites parts) (writesFrom s1.prov.next s2.prov.next))) s2)))
      ∧ (c.pt.word.mod.getLsbD 0 = true → teamMche c s = .ok (.resume (c.ms.foldl (fun st t => st.as t fun x => x.putFuture c.pt.word.d h) s4)))))
  ∧ (∀ (c : TeamCtx) (s : State) (d v : View), s.viewOf 1 c.pt.word.d = .ok d → s.viewOf 2 c.pt.word.a = .ok v → reqntFail d v (vwIdx c.pt.word.d) (vwIdx c.pt.word.a) = none →
    let a : Agent := .thread s.me
    let mode := s.rm (c.pt.word.mod.toNat % 8)
    let x := (s.joinTeam c).readView a s.cco.uid v
    let y := x.2.readScales a s.cco.uid d
    let q (i j : Nat) : Nat × Flags := requant ((fmtFF d.fmt).getD .fp32) mode (c.pt.word.mod.getLsbD 4) (elemNum v.fmt false (x.1.elem v i j)) (x.1.scale v i j)
      (({ rows := [], scales := y.1 } : VData).scale d i j)
    let f := (List.range d.rows).foldl (fun f i => (List.range d.cols).foldl (fun f j => f ||| (q i j).2) f) 0#5
    teamReqnt c s = .ok (.resume (c.raise ((y.2.writeRows a s.cco.uid d 0
      ((List.range d.rows).map fun i => (List.range d.cols).map fun j => (q i j).1)).joinAll [s.me] c.ms) f)))

/-- O39. BAR of a thread without a pending arrival arrives at its instance and sleeps past the instruction until that generation completes, which the
last arrival makes it do at once; with a pending arrival whose generation has completed it falls through, and with one whose generation is still open it clears the pending arrival and sleeps past
the instruction until that generation completes. BAR (arrive) arrives, notes the pending
arrival and goes on; with a pending arrival it first blocks, at the instruction, until that arrival's generation completes. LSEND of the thread inside the region falls through and lets the next member in. -/
def Obligations.BarriersAndRegions : Prop :=
  (∀ (i : Instr) (o : Canon), canonOf i = some (0x56, o) →
    (Performs i 0x56 o .placed fun s s2 =>
      let k := s.barKey s.me (o.mod.toNat / 16 % 4) (o.mod.toNat % 16)
      s.barFail (o.mod.toNat / 16 % 4) = none ∧ s.cth.pendingAt k = none
      ∧ s2 = ((s.arriveAt s.me k).goOn s.me o.len.toNat (.sleep (.bar k (s.bar k).gen))).tryBar k)
    ∧ (Performs i 0x56 o .placed fun s s2 => ∃ g,
      let k := s.barKey s.me (o.mod.toNat / 16 % 4) (o.mod.toNat % 16)
      s.barFail (o.mod.toNat / 16 % 4) = none ∧ s.cth.pendingAt k = some g ∧ g < (s.bar k).gen
      ∧ s2 = ((s.returnFrom s.me k g).clearArrival s.me k).goOn s.me o.len.toNat .fall)
    ∧ (Performs i 0x56 o .placed fun s s2 => ∃ g,
      let k := s.barKey s.me (o.mod.toNat / 16 % 4) (o.mod.toNat % 16)
      s.barFail (o.mod.toNat / 16 % 4) = none ∧ s.cth.pendingAt k = some g ∧ (s.bar k).gen ≤ g
      ∧ s2 = ((s.clearArrival s.me k).goOn s.me o.len.toNat (.sleep (.bar k g))).tryBar k))
  ∧ (∀ o : Canon, Performs (.barArrive o) 0x57 o .placed fun s s2 =>
      let k := s.barKey s.me (o.mod.toNat / 16 % 4) (o.mod.toNat % 16)
      let s1 := s.arriveAt s.me k
      s.barFail (o.mod.toNat / 16 % 4) = none ∧ s.cth.pendingAt k = none
      ∧ s2 = ((s1.setTh s.me { s1.th s.me with arrivals := { key := k, gen := (s1.bar k).gen } :: (s1.th s.me).arrivals }).goOn s.me o.len.toNat .fall).tryBar k)
  ∧ (∀ o : Canon, Performs (.barArrive o) 0x57 o .placed fun s s2 => ∃ g,
      let k := s.barKey s.me (o.mod.toNat / 16 % 4) (o.mod.toNat % 16)
      let s1 := (s.clearArrival s.me k).arriveAt s.me k
      s.barFail (o.mod.toNat / 16 % 4) = none ∧ s.cth.pendingAt k = some g ∧ g < (s.bar k).gen
      ∧ s2 = ((s1.setTh s.me { s1.th s.me with arrivals := { key := k, gen := (s1.bar k).gen } :: (s1.th s.me).arrivals }).goOn s.me o.len.toNat .fall).tryBar k)
  ∧ (∀ (o : Canon) (s : State) (t g : Nat), s.Ready t 0x57 o →
      let s1 := s.redsDone t 0x57 o
      let k := s1.barKey t (o.mod.toNat / 16 % 4) (o.mod.toNat % 16)
      s1.barFail (o.mod.toNat / 16 % 4) = none → (s1.th t).pendingAt k = some g → (s1.bar k).gen ≤ g →
      exec (.barArrive o) s = .next (s1.after t o (.hold (.bar k g))))
  ∧ (∀ (s : State) (k : BarKey) (t g : Nat) (o : Canon), t < s.threads.length →
      ((s.after t o (.hold (.bar k g))).th t).run = .blocked (.bar k g) ∧ ((s.after t o (.hold (.bar k g))).th t).pc = (s.th t).pc
      ∧ ((s.goOn t o.len.toNat (.sleep (.bar k g))).th t).run = .blocked (.bar k g)
      ∧ ((s.goOn t o.len.toNat (.sleep (.bar k g))).th t).pc = fallPc (s.th t).pc o.len.toNat)
  ∧ (∀ (s : State) (k : BarKey), s.allArrived k = true → (∀ p t q d, k ≠ .pod p t q d) →
      s.tryBar k = s.completeBar k ∧ ((s.completeBar k).bar k).gen = (s.bar k).gen + 1)
  ∧ (∀ (s : State) (k : BarKey), s.allArrived k = false → s.tryBar k = s)
  ∧ (∀ o : Canon, Performs (.lsend o) 0x4B o .fall fun s s2 => ∃ r,
      s.teamFail s.me (s.cval 4 (cvIdx o.c)) = none ∧ s.cco.region (cvIdx o.c) = some r ∧ r.inside = some s.me
      ∧ s2 = s.leaveRegion s.cci (cvIdx o.c) s.me)

/-- O40. For an access through a cached buffer entry, the port faults with BUFFER_BOUND for an invalid or malformed entry or an end past LENGTH, then
BUFFER_RIGHTS, then BUFFER_OWNER, then GENERATION, each with its detail; an access that passes them on a local buffer, whose bytes lie in one cached
HBM4E leaf of the buffer's domain, names the leaf's bytes. -/
def Obligations.MemoryPortChecks : Prop :=
  (∀ (s : State) (c : Ctx) (acc : Acc) (ptr : DWord) (n : Nat) (e : BufEntry) (s1 : State),
    s.bufEntry c (ptrBuf ptr) (ptrOff ptr) = .ok (e, s1) →
    let off := ptrOff ptr
    let right := e.rights.testBit (match acc with | .write => 1 | .atomic => 2 | .read => 0 | .fetch => 0)
    let old := ∃ q, c.seq = some q ∧ ptrBuf ptr ≠ 0 ∧ 2 ^ 31 ≤ (q + 2 ^ 32 - e.gseq % 2 ^ 32) % 2 ^ 32
    let detail (o : Nat) : DWord := mkPtr (ptrBuf ptr) (min o (2 ^ 48 - 1))
    let passes := e.valid = true ∧ e.bad = false ∧ off + n ≤ e.length
    (e.valid = false ∨ e.bad = true → s.portEntry c acc ptr n = .error (.fault 0x07 (detail off)))
    ∧ (e.valid = true → e.bad = false → e.length < off + n → s.portEntry c acc ptr n = .error (.fault 0x07 (detail (max off e.length))))
    ∧ (passes → right = false → s.portEntry c acc ptr n = .error (.fault 0x08 (detail off)))
    ∧ (passes → right = true → e.owner ≠ c.part → s.portEntry c acc ptr n = .error (.fault 0x09 (detail off)))
    ∧ (passes → right = true → e.owner = c.part → old →
        s.portEntry c acc ptr n = .error (.fault 0x18 (BitVec.ofNat 64 (ptrBuf ptr + e.gen * 2 ^ 16))))
    ∧ (passes → right = true → e.owner = c.part → ¬ old → s.portEntry c acc ptr n = .ok (e, s1)))
  ∧ (∀ (s : State) (c : Ctx) (acc : Acc) (ptr : DWord) (n : Nat) (e : BufEntry) (l : Leaf) (core : Nat),
    s.portEntry c acc ptr n = .ok (e, s) → e.kind = 0 → c.core = some core → l.res = false → l.frame / 2 ^ 44 = e.domain →
    (∀ i, i < n → tlbFind s.tlb1 core c.part (e.base + ptrOff ptr + i) = some l) →
    ∃ ls, s.port c acc ptr n = .ok (.here ls, s) ∧ keysOf ls = (List.range n).map fun i => l.frame + (e.base + ptrOff ptr + i - l.va))

/-- O41. A load from a naturally aligned address that the port admits completes and leaves its bytes in d: below 32 bits sign-extended under SG and
else zero-extended, 32 bits in one register, 64 in a pair, 128 in four; the address is the base's offset plus the index scaled and imm32, in the base's buffer. A
read of a byte, by a thread that predicts nothing, returns a write that no write of the byte in the thread's visible set comes after, or the initial write while none
is in it, and what it returns is in the visible set from then on. LDACQ besides learns what each release that it read from makes known, when the instance of each
one's scope holds the other, at .pod for one partition. An LD reads the parts that the port places on this device in naturally aligned pieces of at most 8 bytes, in ascending order, as the
partition sees them, and takes from an answer those of another device; each byte of a piece is of a permitted write, and where every write to a piece covers all of
it, all its bytes are of one. -/
def Obligations.LoadsComplete : Prop :=
  (∀ (i : Instr) (o : Canon), canonOf i = some (0x60, o) → Loads i 0x60 o false)
  ∧ (∀ o : Canon, Loads (.ldGBaseIndexed o) 0x61 o true)
  ∧ (∀ o : Canon, Performs (.ldacq o) 0x64 o .fall fun s s2 =>
      ptrOff (s.memAddr o true) % 2 ^ wOf o = 0
      ∧ ∃ bytes s1, s.acquireRead s.tctx (s.memAddr o true) (2 ^ wOf o) (o.mod.toNat / 2 ^ 9 % 8) = .ok (bytes, s1)
        ∧ s2 = s1.deliver o.d (wOf o) (o.mod.getLsbD 3) bytes)
  ∧ (∀ (s : State) (c : Ctx) (ptr : DWord) (n scope : Nat) (ls : List Loc) (s1 : State), s.port c .read ptr n = .ok (.here ls, s1) →
      s1.guardLocs c .read ptr ls = .ok () → s.acquireRead c ptr n scope = .ok (s1.acquireHere c scope ls))
  ∧ (∀ (s : State) (c : Ctx) (t scope : Nat) (ls : List Loc), c.agent = .thread t → t < s.threads.length → s.prov.reds = [] →
      let r := ({ s.promise (.thread t) c.part scope (keysOf ls) with guess := none } : State).loadPiece (.thread t) (keysOf ls) true
      let s2 := (s.acquireHere c scope ls).2
      (s.acquireHere c scope ls).1 = s.unmask c.part ls r.1
      ∧ ∀ w ∈ r.2.1, ∀ x, r.2.2.writeRec w = some x → ∀ rel ∈ x.releases, r.2.2.reaches c.part scope (.thread t) rel.agent = true →
        r.2.2.reaches rel.part rel.scope rel.agent (.thread t) = true → rel.part = c.part ∨ (scope ≠ 4 ∧ rel.scope ≠ 4) → ∀ v ∈ rel.known, v ∈ (s2.th t).seen)
  ∧ (∀ (h : ByteHist) (seen : List Nat) (w : Nat) (b : Byte), (w, b) ∈ h.mayRead seen ↔
      (∃ x ∈ h.writes, x.wid = w ∧ x.val = b ∧ ¬ ∃ v ∈ h.writes, knows seen v.wid h.key = true ∧ w ∈ v.before)
      ∨ (w = 0 ∧ b = h.init ∧ ∀ x ∈ h.writes, knows seen x.wid h.key = false))
  ∧ (∀ (s : State) (t k : Nat), t < s.threads.length → s.guess = none →
      let h := s.histAt k
      let r := s.loadPiece (.thread t) [k] true
      (∀ x ∈ h.writes, x.wid ≠ 0 ∧ ∀ y, s.writeRec x.wid = some y → k ∈ y.keys) → h.mayRead (s.seenBy (.thread t)) ≠ [] →
      ∃ w b, (w, b) ∈ h.mayRead (s.seenBy (.thread t)) ∧ r.1 = [b] ∧ r.2.2.mem = s.mem
        ∧ (w ≠ 0 → r.2.1 = [w] ∧ knows (r.2.2.seenBy (.thread t)) w k = true))
  ∧ (∀ (s : State) (t va : Nat) (keys : List Nat), t < s.threads.length → s.guess = none →
      let may (k : Nat) : List (Nat × Byte) := (s.histAt k).mayRead (s.seenBy (.thread t))
      let r : List Byte × List Nat × State := s.loadPiece (.thread t) keys true va
      (∀ k ∈ keys, may k ≠ []) → (s.oneWrite keys = true → ∃ w, ∀ k ∈ keys, ∃ b, (w, b) ∈ may k) →
      r.1.length = keys.length ∧ r.2.2.mem = s.mem
      ∧ (∀ (i k : Nat) (b : Byte), keys[i]? = some k → r.1[i]? = some b → ∃ w, (w, b) ∈ may k)
      ∧ (s.oneWrite keys = true → ∃ w, ∀ (i k : Nat) (b : Byte), keys[i]? = some k → r.1[i]? = some b → (w, b) ∈ may k))
  ∧ (∀ (s : State) (a : Agent) (k m n va : Nat), 0 < m → 0 < n →
      let run (k m : Nat) : List Nat := (List.range m).map (k + ·)
      let h := n - k % n
      (m ≤ h → s.loadBytes a (run k m) n va = s.loadPiece a (run k m) true va)
      ∧ (h < m →
        let x := s.loadPiece a (run k h) true va
        let y := x.2.2.loadBytes a (run (k + h) (m - h)) n (va + x.1.length)
        s.loadBytes a (run k m) n va = (x.1 ++ y.1, x.2.1 ++ y.2.1, y.2.2)))
  ∧ (∀ (s : State) (c : Ctx) (ptr : DWord) (n piece : Nat) (mod : BitVec 18) (r : List Byte × List Nat × State), s.readMem c ptr n piece mod = .ok r →
      ∃ ps s1, s.portPlan c .read ptr n = .ok (ps, none, s1) ∧ s1.partsStop c .read ptr 0 mod ps none = .ok () ∧ s1.readParts c piece mod ps = .ok r)
  ∧ (∀ (s : State) (c : Ctx) (piece : Nat) (mod : BitVec 18) (ls : List Loc) (at_ n : Nat) (ps : List AccPart), s.prov.reds = [] →
      let x := s.loadBytes c.agent (keysOf ls) piece (vaOf ls)
      s.readParts c piece mod [] = .ok ([], [], s)
      ∧ (∀ y, x.2.2.readParts c piece mod ps = .ok y →
          s.readParts c piece mod ((.here ls, at_, n) :: ps) = .ok (s.unmask c.part ls x.1 ++ y.1, x.2.1 ++ y.2.1, y.2.2))
      ∧ (∀ node part va off b y, s.remote c.agent node part va off 0 n mod [] = .ok b →
          (s.remoteLearn c.agent node part va 0 n).readParts c piece mod ps = .ok y →
          s.readParts c piece mod ((.away node part va off, at_, n) :: ps) = .ok (b ++ y.1, y.2)))
  ∧ (∀ (s : State) (o : Canon) (indexed : Bool),
      let p := s.a64 o
      let ix : Int := if indexed then (s.b32 o).toInt * 2 ^ (o.mod.toNat / 2 ^ 7 % 4) else 0
      s.memAddr o indexed = mkPtr (ptrBuf p) (((ptrOff p : Int) + (ix + o.imm.toInt)) % 2 ^ 48).toNat)
  ∧ (∀ (s : State) (d : BitVec 8) (sg : Bool) (bytes : List Byte),
      (bytes.length = 1 → s.deliver d 0 sg bytes = s.put32 d (if sg then (BitVec.ofNat 8 (leNat bytes)).signExtend 32 else BitVec.ofNat 32 (leNat bytes)))
      ∧ (bytes.length = 2 → s.deliver d 1 sg bytes = s.put32 d (if sg then (BitVec.ofNat 16 (leNat bytes)).signExtend 32 else BitVec.ofNat 32 (leNat bytes)))
      ∧ (bytes.length = 4 → s.deliver d 2 sg bytes = s.put32 d (BitVec.ofNat 32 (leNat bytes)))
      ∧ (bytes.length = 8 → s.deliver d 3 sg bytes = s.put64 d (BitVec.ofNat 64 (leNat bytes)))
      ∧ (bytes.length = 16 →
          let w (i : Nat) : Word := BitVec.ofNat 32 (leNat bytes / 2 ^ (32 * i))
          s.deliver d 4 sg bytes = (((s.putG d.toNat (w 0)).putG (d.toNat + 1) (w 1)).putG (d.toNat + 2) (w 2)).putG (d.toNat + 3) (w 3)))

/-- O42. A store to a naturally aligned address that the port admits completes and writes the low 2^W bytes of its data registers; STREL's write is a
release at its scope: it carries the writes its
thread knows, and itself, and what its thread had observed happens before the thread's later accesses and forks. When a store has completed, each byte that the port placed on this device reads there, as the partition sees it, as the byte stored, and no
other byte has changed but those of encrypted blocks that come under a new key; the write is made in naturally aligned pieces of at most 8 bytes. -/
def Obligations.StoresComplete : Prop :=
  (∀ (i : Instr) (o : Canon), canonOf i = some (0x62, o) → Stores i 0x62 o false)
  ∧ (∀ o : Canon, Stores (.stGBaseIndexed o) 0x63 o true)
  ∧ (∀ o : Canon, Performs (.strel o) 0x65 o .fall fun s s2 =>
      let ptr := s.memAddr o true
      ptrOff ptr % 2 ^ wOf o = 0
      ∧ ∃ ls s1, s.port s.tctx .write ptr (2 ^ wOf o) = .ok (.here ls, s1) ∧ s1.guardLocs s.tctx .write ptr ls = .ok ()
        ∧ s2 = s1.releaseWrite s.tctx (o.mod.toNat / 2 ^ 9 % 8) ls (s.storeData o.d (wOf o)))
  ∧ (∀ (s : State) (c : Ctx) (t scope : Nat) (ls : List Loc) (bytes : List Byte), s.cur = some t → c.agent = .thread t → s.prov.reds = [] →
      ∃ w ∈ (s.releaseWrite c scope ls bytes).prov.writes, w.agent = .thread t ∧ w.wid = s.prov.next ∧ w.keys = keysOf ls
        ∧ ∃ rel ∈ w.releases, rel.agent = .thread t ∧ rel.scope = scope ∧ rel.part = c.part ∧ w.wid ∈ rel.known ∧ ∀ v ∈ s.knownBy (.thread t), v ∈ rel.known)
  ∧ (∀ (s : State) (c : Ctx) (t scope : Nat) (ls : List Loc) (bytes : List Byte), s.cur = some t → c.agent = .thread t → t < s.threads.length → s.prov.reds = [] →
      ∀ v ∈ (s.th t).seen, v ∉ ofAgent s.prov.shown (.thread t) → v ∈ (s.releaseWrite c scope ls bytes).passedBy (.thread t))
  ∧ (∀ (s s2 : State) (c : Ctx) (ptr : DWord) (bytes : List Byte) (piece : Nat), s.writeMem c ptr bytes piece = .ok s2 →
      ∃ ps s1, s.portPlan c .write ptr bytes.length = .ok (ps, none, s1) ∧ s1.writeStop c ptr ps none = .ok () ∧ s1.sendParts c bytes ps = .ok ()
        ∧ s2 = s1.storeParts c bytes piece ps)
  ∧ (∀ (s : State) (c : Ctx) (bytes : List Byte) (piece : Nat) (ps : List AccPart), 0 < piece → s.prov.reds = [] → Memory.wf s.mem = true →
      let all := partLocs ps
      let s2 := s.storeParts c bytes piece ps
      (keysOf all).Nodup → ((∀ l ∈ all, l.enc = true ∧ 2 ^ 56 ≤ l.key ∧ l.key < 2 ^ 57) ∨ (s.svc.enc = [] ∧ ∀ l ∈ all, l.enc = false)) →
      (∀ ls at_ n, (.here ls, at_, n) ∈ ps → ls.length = n ∧ at_ + n ≤ bytes.length) →
      (∀ ls at_ n, (.here ls, at_, n) ∈ ps → s2.unmask c.part ls ((keysOf ls).map (Memory.get s2.mem)) = (bytes.drop at_).take n)
      ∧ (∀ k, ¬ Touches all k → Memory.get s2.mem k = Memory.get s.mem k) ∧ Memory.wf s2.mem = true)
  ∧ (∀ (s : State) (c : Ctx) (scope : Nat) (ls : List Loc) (bytes : List Byte), s.prov.reds = [] → Memory.wf s.mem = true → (keysOf ls).Nodup →
      ls.length = bytes.length → ((∀ l ∈ ls, l.enc = true ∧ 2 ^ 56 ≤ l.key ∧ l.key < 2 ^ 57) ∨ (s.svc.enc = [] ∧ ∀ l ∈ ls, l.enc = false)) →
      let s2 := s.releaseWrite c scope ls bytes
      s2.unmask c.part ls ((keysOf ls).map (Memory.get s2.mem)) = bytes ∧ (∀ k, ¬ Touches ls k → Memory.get s2.mem k = Memory.get s.mem k))
  ∧ (∀ (s : State) (a : Agent) (part va k n : Nat) (side : Bool) (bytes : List Byte), 0 < bytes.length → 0 < n →
      let run (k m : Nat) : List Nat := (List.range m).map (k + ·)
      let m := bytes.length
      let h := n - k % n
      (m ≤ h → s.storeBytes a part va side (run k m) bytes n = s.storePiece a part va side (run k m) bytes false [] [])
      ∧ (h < m → s.storeBytes a part va side (run k m) bytes n
        = (s.storePiece a part va side (run k h) (bytes.take h) false [] []).storeBytes a part (va + h) side (run (k + h) (m - h)) (bytes.drop h) n))
  ∧ (∀ (s : State) (d : BitVec 8) (w : Nat), w ≤ 4 → d.toNat + 4 ≤ 64 →
      (s.storeData d w).length = 2 ^ w
      ∧ leNat (s.storeData d w) = ((s.cth.gv d.toNat).toNat + (s.cth.gv (d.toNat + 1)).toNat * 2 ^ 32 + (s.cth.gv (d.toNat + 2)).toNat * 2 ^ 64
          + (s.cth.gv (d.toNat + 3)).toNat * 2 ^ 96) % 2 ^ (8 * 2 ^ w))

/-- O43. An aligned scratchpad access inside the allocation completes: a load delivers the bytes read as LD does, a store writes the data registers'
bytes; LDS (quad-peer) reads the named member's scratchpad. LDS and STS take ALIGN at a misaligned offset, then BUFFER_OWNER for a member that the span has not, then
BUFFER_BOUND for a byte at or beyond the allocation, each with its detail. A read of scratchpad or tile space is a read of its bytes in naturally aligned pieces, as one of
memory is; when a write of them has completed, the byte store holds the bytes written and no other byte has changed. -/
def Obligations.ScratchpadAccess : Prop :=
  (∀ (i : Instr) (o : Canon), canonOf i = some (0x66, o) → ScratchLoads i 0x66 o)
  ∧ (∀ o : Canon, Performs (.ldsQuadPeer o) 0x67 o .fall fun s s2 => ∃ c,
      let n := 2 ^ wOf o
      s.scrOff o % n = 0 ∧ s.peer (o.mod.toNat / 2 ^ 12 % 4) (s.scrOff o) = .ok c ∧ s.scrOff o + n ≤ c.scrgr * 4096 ∧ c.place ≠ .gone
      ∧ s2 = (let r := s.scrRead (.thread s.me) c.uid (s.scrOff o) n (min n 8)
              r.2.deliver o.d (wOf o) (o.mod.getLsbD 3) r.1))
  ∧ (∀ (i : Instr) (o : Canon), canonOf i = some (0x68, o) → ScratchStores i 0x68 o)
  ∧ (∀ (s : State) (a : Agent) (uid off n piece : Nat),
      let r := s.loadBytes a ((List.range n).map fun i => scrKey uid (off + i)) (max 1 piece)
      let q := s.loadBytes a ((List.range n).map fun i => tileKey uid (off + i)) (max 1 piece)
      s.scrRead a uid off n piece = (r.1, r.2.2) ∧ s.tileRead a uid off n piece = (q.1, q.2.2))
  ∧ (∀ (s : State) (a : Agent) (uid off piece : Nat) (bytes : List Byte) (scr : Bool), Memory.wf s.mem = true →
      let key (i : Nat) : Nat := if scr then scrKey uid (off + i) else tileKey uid (off + i)
      let s1 := if scr then s.scrWrite a uid off bytes piece else s.tileWrite a uid off bytes piece
      (List.range bytes.length).map (fun i => Memory.get s1.mem (key i)) = bytes
      ∧ (∀ k, (∀ i, i < bytes.length → k ≠ key i) → Memory.get s1.mem k = Memory.get s.mem k) ∧ Memory.wf s1.mem = true)
  ∧ (∀ (c : Cohort) (off n : Nat), 0 < n →
      (c.scrFail off n = none ↔ off + n ≤ c.scrgr * 4096)
      ∧ (c.scrgr * 4096 < off + n → c.scrFail off n = some (.fault 0x07 (scrDetail c.spanPos (max off (c.scrgr * 4096))))))
  ∧ (∀ (i : Instr) (op : Nat) (o : Canon) (s : State) (t : Nat), canonOf i = some (op, o) → s.Ready t op o →
      let n := 2 ^ wOf o
      let off := s.scrOff o
      let m := o.mod.toNat / 2 ^ 12 % 4
      (op = 0x66 ∨ op = 0x67 ∨ op = 0x68 → off % n ≠ 0 → exec i s = .next (s.trap t (.fault 0x06 (BitVec.ofNat 64 off))))
      ∧ (op = 0x66 ∨ op = 0x68 → off % n = 0 → s.cco.scrgr * 4096 < off + n →
          exec i s = .next (s.trap t (.fault 0x07 (scrDetail s.cco.spanPos (max off (s.cco.scrgr * 4096))))))
      ∧ (op = 0x67 → off % n = 0 → s.cco.spanSize ≤ m → exec i s = .next (s.trap t (.fault 0x09 (scrDetail m off))))
      ∧ (∀ c, op = 0x67 → off % n = 0 → s.peer m off = .ok c → c.scrgr * 4096 < off + n →
          exec i s = .next (s.trap t (.fault 0x07 (scrDetail m (max off (c.scrgr * 4096)))))))
  ∧ (∀ (s : State) (m off : Nat), s.cco.spanSize ≤ m → s.peer m off = .error (.fault 0x09 (scrDetail m off)))
  ∧ (∀ (s : State) (m off : Nat), m < s.cco.spanSize → m = s.cco.spanPos → s.peer m off = .ok s.cco)
  ∧ (∀ (s : State) (m off : Nat) (c : Cohort), m < s.cco.spanSize → m ≠ s.cco.spanPos →
      s.cohortAt s.cco.part s.cco.seq (s.cco.lin / s.cco.spanSize * s.cco.spanSize + m) = some c → s.peer m off = .ok c)

/-- O44. When no write of these bytes was known before, a thread that writes distinct bytes and reads them again, predicting nothing, gets exactly what it wrote, and the
byte store, when it is in its canonical form, holds those bytes, is unchanged at every other key, and stays in that form; the same holds of a run of bytes written and read
in pieces. -/
def Obligations.LoadAfterStore : Prop :=
  (∀ (s : State) (t part va : Nat) (side : Bool) (keys : List Nat) (bytes : List Byte), t < s.threads.length → keys.Nodup → bytes.length = keys.length →
    s.fresh keys = true → s.guess = none →
    let s1 := s.storePiece (.thread t) part va side keys bytes false [] []
    (s1.loadPiece (.thread t) keys true).1 = bytes
    ∧ (Memory.wf s.mem = true →
        keys.map (Memory.get s1.mem) = bytes ∧ (∀ k, k ∉ keys → Memory.get s1.mem k = Memory.get s.mem k) ∧ Memory.wf s1.mem = true)
    ∧ s1.cohorts = s.cohorts ∧ (∀ u, s1.th u = { s.th u with seen := (s1.th u).seen }))
  ∧ (∀ (s : State) (t part va vb k n : Nat) (side : Bool) (bytes : List Byte), t < s.threads.length → 0 < n →
    let keys := (List.range bytes.length).map (k + ·)
    s.fresh keys = true → s.guess = none →
    ((s.storeBytes (.thread t) part va side keys bytes n).loadBytes (.thread t) keys n vb).1 = bytes)

/-- O45. An aligned atomic that the port admits, on this device and for ATOM (memory-side) on memory-side lines, executes at its home when no home refuses what must come before it: it reads the
home's value, writes the new value that its operation gives, and puts the old one in d; a release, an acquire or both go with it by ORD. RED falls
through with its operation on the way to its home, on this device or another, or, when no port leads there, with its failure record; it waits for no answer. A RED to another device is not sent before an
earlier one of its thread to the same bytes. -/
def Obligations.AtomicsAndRed : Prop :=
  (∀ (i : Instr) (op : Nat) (o : Canon), canonOf i = some (op, o) → op = 0x69 ∨ op = 0x6A ∨ op = 0x6B →
    Performs i op o .fall fun s s2 =>
      let code := if op = 0x6A then 12 else o.mod.toNat % 16
      let typ := o.mod.toNat / 16 % 4
      let n := if 2 ≤ typ then 8 else 4
      let scope := o.mod.toNat / 2 ^ 8 % 8
      let acq := o.mod.getLsbD 6
      let rel := o.mod.getLsbD 7
      let ptr := ea (s.a64 o) o.imm.toInt
      let me : Agent := .thread s.me
      ptrOff ptr % n = 0
      ∧ ∃ ls s1, s.port s.tctx .atomic ptr n = .ok (.here ls, s1) ∧ (op = 0x6B → ∀ l ∈ ls, l.mside = true) ∧ s1.guardLocs s.tctx .atomic ptr ls = .ok ()
        ∧ s1.homeRefused (s1.knownBy me) = false
        ∧ s2 = (let s3 := s1.forceReds me (if rel then none else some (keysOf ls))
                let known := s3.knownBy me
                let x := s3.rmw me s.cco.part ls (if rel then some { agent := me, part := s.cco.part, scope := scope, known := known } else none)
                  (fun b => (atomNew code typ (leNat b) (s.atomV o code) (s.atomC o)).map (toLE ls.length))
                let s4 := if rel = true ∧ s3.prov.next < x.2.2.prov.next then x.2.2.pinSide me scope (s3.prov.next :: known) else x.2.2
                let s5 := if acq then s4.see me (s4.learn me s.cco.part scope x.2.1) else s4
                if n = 8 then s5.put64 o.d (BitVec.ofNat 64 (leNat x.1)) else s5.put32 o.d (BitVec.ofNat 32 (leNat x.1))))
  ∧ (∀ o : Canon, Performs (.red o) 0x6C o .fall fun s s2 => ∃ node part va off s1,
      let n := if 2 ≤ o.mod.toNat / 16 % 4 then 8 else 4
      let scope := o.mod.toNat / 2 ^ 8 % 8
      let rel := o.mod.getLsbD 7
      let ptr := ea (s.a64 o) o.imm.toInt
      ptrOff ptr % n = 0 ∧ s.port s.tctx .atomic ptr n = .ok (.away node part va off, s1)
      ∧ (s1.hasRoute node = false → s2 = s1.redFailure s.cci 0x0A (remoteLost off 3))
      ∧ (s1.hasRoute node = true → s2 = (let s3 := if rel then (s1.releaseBy s.me scope).2 else s1
          ({ s3 with count := s3.count + 1, fabric := { s3.fabric with reds := s3.fabric.reds ++ [
            { id := s3.count, req := none, thread := s.me, node := node, part := part, va := va, off := off, len := n,
              mod := remoteMod o (o.mod.toNat % 16) false, data := toLE n (s.atomV o (o.mod.toNat % 16)),
              release := if rel then some { agent := .thread s.me, part := s.cco.part, scope := scope, known := s3.knownBy (.thread s.me) } else none }] } } : State))))
  ∧ (∀ (s : State) (r : FarRed), r.req.isSome = true
      ∨ (∃ x ∈ s.fabric.reds, x.thread = r.thread ∧ x.id < r.id ∧ x.node = r.node ∧ x.part = r.part ∧ x.va / 8 = r.va / 8) → s.farRedSend r = s)
  ∧ (∀ o : Canon, Performs (.red o) 0x6C o .fall fun s s2 =>
      let typ := o.mod.toNat / 16 % 4
      let n := if 2 ≤ typ then 8 else 4
      let scope := o.mod.toNat / 2 ^ 8 % 8
      let rel := o.mod.getLsbD 7
      let ptr := ea (s.a64 o) o.imm.toInt
      ptrOff ptr % n = 0
      ∧ ∃ ls s1, s.port s.tctx .atomic ptr n = .ok (.here ls, s1)
        ∧ s2 = (let s3 := if rel then (s1.releaseBy s.me scope).2 else s1
                ({ s3 with count := s3.count + 1, prov := { s3.prov with reds := s3.prov.reds ++ [
                  { id := s3.count, ptr := ptr, thread := s.me, coh := s.cci, part := s.cco.part, key := (keysOf ls).headD 0, va := vaOf ls,
                    side := ls.any (·.mside), enc := ls.any (·.enc), op := o.mod.toNat % 16, typ := typ, operand := s.atomV o (o.mod.toNat % 16),
                    release := if rel then some { agent := .thread s.me, part := s.cco.part, scope := scope, known := s3.knownBy (.thread s.me) } else none }] } } : State)))

/-- O46. For 32-bit and 64-bit values, add wraps, and, or and xor are bitwise, min and max follow the type's signedness, exch gives v, inc and dec
wrap at v, fadd gives the sum rounded once to FP32 by RNE, fmin and fmax the lesser and the greater number with -0 below +0, of a NaN and a number the number and of two
NaNs the canonical NaN, cas gives the new value exactly when the old one equals v. At a home that no write has changed and that
is not encrypted, with the byte store in its canonical form, the operation reads the bytes of the byte
store and leaves there the new ones, or the old ones when a cas fails. -/
def Obligations.AtomicValues : Prop :=
  (∀ (typ a v c : Nat), typ < 4 → let w := if 2 ≤ typ then 64 else 32
    a < 2 ^ w → v < 2 ^ w →
    let sv (x : Nat) : Int := if typ % 2 = 1 ∧ 2 ^ (w - 1) ≤ x then (x : Int) - 2 ^ w else x
    atomNew 0 typ a v c = some ((a + v) % 2 ^ w) ∧ atomNew 1 typ a v c = some (a &&& v) ∧ atomNew 2 typ a v c = some (a ||| v)
    ∧ atomNew 3 typ a v c = some (a ^^^ v)
    ∧ (∃ r, atomNew 4 typ a v c = some r ∧ (r = a ∨ r = v) ∧ sv r ≤ sv a ∧ sv r ≤ sv v)
    ∧ (∃ r, atomNew 5 typ a v c = some r ∧ (r = a ∨ r = v) ∧ sv a ≤ sv r ∧ sv v ≤ sv r)
    ∧ atomNew 6 typ a v c = some v
    ∧ atomNew 7 typ a v c = some (if v ≤ a then 0 else a + 1) ∧ atomNew 8 typ a v c = some (if a = 0 ∨ v < a then v else a - 1)
    ∧ atomNew 12 typ a v c = (if a = v then some c else none))
  ∧ (∀ a v c : Nat, a < 2 ^ 32 → v < 2 ^ 32 →
    let nan (x : Nat) : Prop := 0x7F800000 < x % 2 ^ 31
    let key (x : Nat) : Int := if x < 2 ^ 31 then x else 2 ^ 31 - x
    (∃ r, atomNew 9 0 a v c = some r ∧ r = (roundNum .fp32 .rne false ((FF.fp32.value a).add (FF.fp32.value v)).1).1 ∧ (nan a ∨ nan v → r = 0x7FC00000))
    ∧ (∃ r q, atomNew 10 0 a v c = some r ∧ atomNew 11 0 a v c = some q
      ∧ (nan a → nan v → r = 0x7FC00000 ∧ q = 0x7FC00000) ∧ (nan a → ¬ nan v → r = v ∧ q = v) ∧ (¬ nan a → nan v → r = a ∧ q = a)
      ∧ (¬ nan a → ¬ nan v → (r = a ∨ r = v) ∧ (q = a ∨ q = v) ∧ key r = min (key a) (key v) ∧ key q = max (key a) (key v))
      ∧ ((a = 0 ∧ v = 2 ^ 31) ∨ (a = 2 ^ 31 ∧ v = 0) → r = 2 ^ 31 ∧ q = 0)))
  ∧ (∀ (s : State) (t part : Nat) (ls : List Loc) (rel : Option Release) (f : List Byte → Option (List Byte)), t < s.threads.length → (keysOf ls).Nodup →
    s.fresh (keysOf ls) = true → s.svc.enc = [] → (∀ l ∈ ls, l.enc = false) → Memory.wf s.mem = true →
    let old := (keysOf ls).map (Memory.get s.mem)
    let r := s.rmw (.thread t) part ls rel f
    r.1 = old
    ∧ (∀ new, f old = some new → new.length = ls.length → (keysOf ls).map (Memory.get r.2.2.mem) = new)
    ∧ (f old = none → r.2.2.mem = s.mem)
    ∧ (∀ k, k ∉ keysOf ls → Memory.get r.2.2.mem k = Memory.get s.mem k) ∧ Memory.wf r.2.2.mem = true)

/-- O47. FENCE completes as a release and an acquire at its scope, once no home refuses what it brings there; FENCER of length 0 does
nothing, and otherwise, when its range passes the port, fences the bytes inside the range, and never takes POISON: an entry of the buffer table that cannot be
read gives it nothing to fence (log 79); PREF changes nothing. A fence is logged with all its
thread knows, and learns what each earlier fence knew when the instance of each one's scope holds the other, at .pod for one
partition; what its thread had observed happens before the thread's later accesses and forks. -/
def Obligations.FencesAndPrefetch : Prop :=
  let home (scope : Nat) (s2 : State) : Prop := scope ∉ [1, 2, 6] → s2.homeRefused ((s2.prov.fences.getLast?.map (·.known)).getD []) = false
  (∀ o : Canon, Performs (.fence o) 0x6D o .fall fun s s2 =>
      s2 = s.fence (.thread s.me) s.cco.part (o.mod.toNat % 8) ∧ home (o.mod.toNat % 8) s2)
  ∧ (∀ o : Canon, Performs (.fencer o) 0x6E o .fall fun s s2 => (if isG o.b.toNat then (s.b32 o).toNat else (s.b64 o).toNat) = 0 ∧ s2 = s)
  ∧ (∀ o : Canon, Performs (.fencer o) 0x6E o .fall fun s s2 => ∃ e s1,
      let n := if isG o.b.toNat then (s.b32 o).toNat else (s.b64 o).toNat
      let ptr := s.a64 o
      let parts := s1.fenceParts e (ptrOff ptr) n
      0 < n ∧ home (o.mod.toNat % 8) s2 ∧ s.portEntry s.tctx .read ptr n = .ok (e, s1)
      ∧ (∀ p ∈ parts, s1.fencePart s.tctx e (ptrBuf ptr) p = .ok () ∨ ∃ d, s1.fencePart s.tctx e (ptrBuf ptr) p = .error (.fault 0x17 d))
      ∧ s2 = s1.fenceRange (.thread s.me) s.cco.part (o.mod.toNat % 8) ((parts.filter fun p => p.away.isNone).map fun p => (p.va, p.len)))
  ∧ (∀ o : Canon, Performs (.fencer o) 0x6E o .fall fun s s2 => ∃ d,
      let n := if isG o.b.toNat then (s.b32 o).toNat else (s.b64 o).toNat
      0 < n ∧ s.portEntry s.tctx .read (s.a64 o) n = .error (.fault 0x17 d) ∧ s2 = s)
  ∧ (∀ o : Canon, Computes (.pref o) 0x6F o id)
  ∧ (∀ (s : State) (t part scope : Nat), t < s.threads.length → s.prov.reds = [] →
      let s1 := s.fence (.thread t) part scope
      (∃ f, s1.prov.fences = s.prov.fences ++ [f] ∧ f.agent = .thread t ∧ f.part = part ∧ f.scope = scope ∧ (∀ w ∈ s.knownBy (.thread t), w ∈ f.known)
        ∧ f.known = s1.knownBy (.thread t) ∧ s1.mem = s.mem ∧ s1.cohorts = s.cohorts)
      ∧ (∀ f ∈ s.prov.fences, s.reaches part scope (.thread t) f.agent = true → s.reaches f.part f.scope f.agent (.thread t) = true →
          f.part = part ∨ (scope ≠ 4 ∧ f.scope ≠ 4) →
          ∀ w ∈ f.known, w ∈ (s1.th t).seen)
      ∧ (∀ w ∈ (s.th t).seen, w ∉ ofAgent s.prov.shown (.thread t) → w ∈ s1.passedBy (.thread t)))

/-- O48. VSET writes the view record of its eight registers when it passes every check, and VGET gives such a record back. VLD, VST and VZERO read,
write and clear elements inside the view, converted with their scale under CVT; MCOPY copies the rows its plan names and MTRANS writes the transposed
elements and scales. Each completes whenever its view is free and its checks pass, long and short. -/
def Obligations.ViewInstructions : Prop :=
  (∀ o : Canon, Performs (.vset o) 0x80 o .fall fun s s2 =>
      let b := s.quadBytes o.a.toNat ++ s.quadBytes o.b.toNat
      s.viewHeld s.cci (vwIdx o.d) = none ∧ viewCheck b (s.cco.tilegr * 4096) = none ∧ s2 = s.putV (vwIdx o.d) (View.parse b))
  ∧ (∀ o : Canon, Performs (.vget o) 0x81 o .fall fun s s2 => ∃ v, s.viewOf 2 o.a = .ok v
      ∧ s2 = (let w (i : Nat) : Word := BitVec.ofNat 32 (field v.pack ((if o.mod.getLsbD 0 then 16 else 0) + 4 * i) 4)
              (((s.putG o.d.toNat (w 0)).putG (o.d.toNat + 1) (w 1)).putG (o.d.toNat + 2) (w 2)).putG (o.d.toNat + 3) (w 3)))
  ∧ (∀ b : List Byte, b.length = 32 → viewKindOk b = true → (View.parse b).pack = b)
  ∧ (∀ (i : Instr) (o : Canon), canonOf i = some (0x82, o) → Performs i 0x82 o .fall fun s s2 => ∃ v,
      let a : Agent := .thread s.me
      let n := 2 ^ (o.mod.toNat / 2 % 4)
      let row := if o.mod.getLsbD 0 then (s.c32 o).toNat else 0
      let r := s.readElems a s.cco.uid v row (s.a32 o).toNat n
      s.viewOf 3 o.b = .ok v ∧ s.vCheck o v = none
      ∧ s2 = (if o.mod.getLsbD 3 then
                (let sc := r.2.readScale a s.cco.uid v row (s.a32 o).toNat
                 sc.2.putF o.d (mulScale .fp32 (s.rm (o.mod.toNat / 2 ^ 5 % 8)) (elemNum v.fmt v.signed r.1) sc.1))
              else if v.fmt = fCF32 then r.2.put64 o.d (BitVec.ofNat 64 r.1)
              else r.2.put32 o.d (if n = 1 ∧ v.signed then BitVec.ofInt 32 (readInt true v.bits r.1) else BitVec.ofNat 32 r.1)))
  ∧ (∀ (i : Instr) (o : Canon), canonOf i = some (0x83, o) → Performs i 0x83 o .fall fun s s2 => ∃ v,
      let a : Agent := .thread s.me
      let n := 2 ^ (o.mod.toNat / 2 % 4)
      let row := if o.mod.getLsbD 0 then (s.c32 o).toNat else 0
      s.viewOf 3 o.b = .ok v ∧ s.vCheck o v = none
      ∧ ((v.fmt = fCF32 ∧ s.cth.isPend (o.d.toNat + 1) = false
            ∧ s2 = s.writeElems a s.cco.uid v row (s.a32 o).toNat 1 (s.cth.pairv o.d.toNat).toNat)
        ∨ (v.fmt ≠ fCF32 ∧ o.mod.getLsbD 3 = false
            ∧ s2 = s.writeElems a s.cco.uid v row (s.a32 o).toNat n ((s.d32 o).toNat % 2 ^ (n * v.bits)))
        ∨ (∃ f, o.mod.getLsbD 3 = true ∧ fmtFF v.fmt = some f
            ∧ s2 = (let sc := s.readScale a s.cco.uid v row (s.a32 o).toNat
                    let x := divScale f (s.rm (o.mod.toNat / 2 ^ 5 % 8)) (o.mod.getLsbD 4) (elemNum 13 false (s.d32 o).toNat) sc.1
                    (sc.2.writeElems a s.cco.uid v row (s.a32 o).toNat 1 x.1).raise x.2))))
  ∧ (∀ o : Canon, Performs (.vzero o) 0x84 o .fall fun s s2 => ∃ v, s.viewOf 1 o.d = .ok v ∧ v.isPlain = true
      ∧ s2 = (List.range v.rows).foldl (fun st i =>
          st.tileWrite (.thread s.me) s.cco.uid (v.base + i * v.pitch) (List.replicate v.rowBytes 0#8) v.size) s)
  ∧ (∀ o : Canon, Performs (.mcopy o) 0x95 o .fall fun s s2 => ∃ p,
      let area := ((if o.mod.toNat % 4 = 1 then s.d32 o else s.a32 o) + o.imm).toNat
      s.copyPlan o = .ok p ∧ (p.scr = true → area % 4 = 0 ∧ s.cco.scrFail area (p.count * p.areaRow) = none) ∧ p.spaceFail = none
      ∧ s2 = s.copyRows p (s.rm (o.mod.toNat / 2 ^ 9 % 8)) (o.mod.getLsbD 8) area)
  ∧ (∀ o : Canon, Performs (.mtrans o) 0x96 o .fall fun s s2 => ∃ d v,
      let a : Agent := .thread s.me
      let x := s.readView a s.cco.uid v
      let nr := ceilDiv v.rows v.bl
      let nc := ceilDiv v.cols v.bl
      s.viewOf 1 o.d = .ok d ∧ s.viewOf 2 o.a = .ok v ∧ (d.kind = 2 ∨ d.kind = 5) ∧ (v.kind = 2 ∨ v.kind = 5) ∧ d.layout ≠ 1 ∧ d.fmt = v.fmt
      ∧ d.signed = v.signed ∧ d.scl = v.scl ∧ d.rows = v.cols ∧ d.cols = v.rows
      ∧ s2 = (let s3 := x.2.writeRows a s.cco.uid d 0 ((List.range v.cols).map fun j => (List.range v.rows).map fun i => x.1.elem v i j)
              if v.layout = 0 then s3
              else s3.tileWrite a s.cco.uid d.soff ((List.range nc).flatMap fun q => (List.range nr).flatMap fun p =>
                toLE v.scaleSize (field x.1.scales ((p * nc + q) * v.scaleSize) v.scaleSize)) d.scaleSize))

/-- O49. CTLOAD reads a 320-byte image into its slot when it passes every check; CTSTORE writes a loaded slot's image; CATLOOK delivers the 16 bytes
of a tile's index entry; CATSET writes an entry at its home and drops the quad's copy; CATINV drops the copies of a tensor's entries, or of all of it,
in every quad. Each completes when the port and its checks pass. -/
def Obligations.CodeTablesAndCatalogue : Prop :=
  (∀ o : Canon, Performs (.ctload o) 0xB0 o .fall fun s s2 =>
      let p := ea (s.a64 o) o.imm.toInt
      ptrOff p % 64 = 0 ∧ ∃ img ws s1, s.readMem s.tctx p 320 1 = .ok (img, ws, s1) ∧ ctCheck img = none
        ∧ s2 = s1.setCco (s1.cco.setT [s1.cth.tid] (o.mod.toNat % 8) (some { bytes := img, source := p })))
  ∧ (∀ o : Canon, Performs (.ctstore o) 0xB1 o .fall fun s s2 =>
      let p := ea (s.a64 o) o.imm.toInt
      ptrOff p % 64 = 0 ∧ ∃ img, s.ctval 1 (o.mod.toNat % 8) = some img ∧ s.writeMem s.tctx p img.bytes 1 = .ok s2)
  ∧ (∀ o : Canon, Performs (.catlook o) 0xB2 o .fall fun s s2 => ∃ r i s1 b s3,
      s.catRecord s.tctx (s.a64 o) = .ok (r, i, s1) ∧ s1.catEntry s.tctx r (nameTensor (s.a64 o)) i = .ok (b, s3)
      ∧ ((TileEnt.parse r.app b).valid && (TileEnt.parse r.app b).bad) = false ∧ s2 = s3.deliver o.d 4 false b)
  ∧ (∀ o : Canon, Performs (.catset o) 0xB3 o .fall fun s s2 => ∃ r i s1 ls s3,
      let bytes := toLE 8 (s.b64 o).toNat ++ toLE 8 (s.c64 o).toNat
      s.catRecord s.tctx (s.a64 o) = .ok (r, i, s1) ∧ field bytes 12 1 < 4 ∧ field bytes 13 3 = 0
      ∧ ((TileEnt.parse r.app bytes).valid && (TileEnt.parse r.app bytes).bad) = false
      ∧ s1.port s.tctx .write (r.entryPtr i) 16 = .ok (.here ls, s3) ∧ s3.guardLocs s.tctx .write (r.entryPtr i) ls = .ok ()
      ∧ s3.entryHeld ls = false ∧ s3.homeRefused (s3.knownBy s.tctx.agent) = false ∧ s2 = s3.putEntry s.tctx (nameTensor (s.a64 o)) i ls bytes)
  ∧ (∀ o : Canon, Computes (.catinv o) 0xB4 o fun s =>
      let tensor := (s.a32 o).toNat % 2 ^ 16
      { s with catc := s.catc.filter fun x =>
          !(x.2.1 == s.cco.part && x.2.2.1 == tensor
            && (o.mod.getLsbD 0 || (decide ((s.b32 o).toNat + 1 ≤ x.2.2.2.1) && decide (x.2.2.2.1 < (s.b32 o).toNat + 1 + (s.c32 o).toNat)))) })

/-- O50. With room in the queues and its checks passed, each of TILELD, TILEDEC, TILEST, TILEAP, TILECHK, CPY (both forms), MSEND, RRET, ROUTE, LAUNCH
and PXCH adds one operation of its kind with what the command says, running or held until its time, writes the handle (kind, core and serial) to d as
a pending future, and the thread goes on; an empty copy is complete at once. -/
def Obligations.EngineCommandsIssue : Prop :=
  (∀ o : Canon, Performs (.tileld o) 0xB5 o .fall fun s s2 => ∃ v, s.queueRoom ∧ s.tileView o false = .ok v
      ∧ s2 = s.issued 2 true .running 0 o.d (.tileLd (s.a64 o) v (vwIdx o.b) (o.mod.getLsbD 0) s.slots))
  ∧ (∀ o : Canon, Performs (.tiledec o) 0xB6 o .fall fun s s2 =>
      s.queueRoom ∧ (o.mod.getLsbD 0 = true → (s.b64 o).toNat % 4 = 0 ∧ (s.b64 o).toNat < 2 ^ 32)
      ∧ s2 = s.issued 2 true .running 0 o.d (.tileDec (s.a64 o) (s.b64 o) (o.mod.getLsbD 0) (o.mod.getLsbD 1) s.slots))
  ∧ (∀ o : Canon, Performs (.tilest o) 0xB7 o .fall fun s s2 => ∃ v,
      let c := (s.c32 o).toNat
      s.queueRoom ∧ s.tileView o false = .ok v ∧ 1 ≤ c / 2 ^ 8 % 32 ∧ c / 2 ^ 8 % 32 ≤ 16 ∧ c / 2 ^ 3 % 32 = 0 ∧ c < 2 ^ 13
      ∧ s2 = s.issued 2 true .running 0 o.d (.tileSt (s.a64 o) v (vwIdx o.b) (c % 8) (c / 2 ^ 8 % 32) (o.mod.getLsbD 0) s.slots))
  ∧ (∀ o : Canon, Performs (.tileap o) 0xB8 o .fall fun s s2 => ∃ v,
      let c := (s.c32 o).toNat
      s.queueRoom ∧ s.tileView o true = .ok v ∧ 1 ≤ c % 32 ∧ c % 32 ≤ 16 ∧ c / 2 ^ 5 % 8 = 0 ∧ c < 2 ^ 11 ∧ c % 32 ≤ v.rows
      ∧ s2 = s.issued 2 true .running 0 o.d (.tileAp (s.a64 o) v (vwIdx o.b) (c % 32) (c / 2 ^ 8) (o.mod.getLsbD 0) s.slots))
  ∧ (∀ o : Canon, Performs (.tilechk o) 0xB9 o .fall fun s s2 =>
      s.queueRoom ∧ s2 = s.issued 2 true .running 0 o.d (.tileChk (s.a64 o) (s.b64 o) (s.c32 o).toNat s.slots))
  ∧ (∀ (i : Instr) (op : Nat) (o : Canon), canonOf i = some (op, o) → op = 0xC0 ∨ op = 0xC1 → Performs i op o .fall fun s s2 =>
      let m := o.mod.toNat
      let multi : Bool := op == 0xC1
      let k (j : Nat) : Nat := (s.kval (13 + j) (kIdx o.c + j)).toNat
      let i32 (x : Nat) : Int := (BitVec.ofNat 32 x).toInt
      let xb := k 0 % 2 ^ 32; let ny := k 0 / 2 ^ 32 % 2 ^ 16; let nz := k 0 / 2 ^ 48 % 2 ^ 16
      let srs := i32 (k 1); let drs := i32 (k 1 / 2 ^ 32); let sps := i32 (k 2); let dps := i32 (k 2 / 2 ^ 32)
      let body : OpBody := .copy multi (m % 4) (m / 4 % 4) (m / 2 ^ 11 % 16) (s.a64 o) (s.b64 o) xb ny nz srs drs sps dps
      (xb * ny * nz = 0 ∧ s2 = (s.emptyOp 0 o.d body).2)
      ∨ (xb * ny * nz ≠ 0 ∧ (multi = true → m / 2 ^ 11 % 16 ≠ 0 ∧ (s.a64 o).toNat < 2 ^ 32)
          ∧ s.cco.sideFail (m / 4 % 4) (s.b64 o) xb ny nz srs sps = none
          ∧ (multi = false → s.cco.sideFail (m % 4) (s.a64 o) xb ny nz drs dps = none) ∧ s.queueRoom
          ∧ s2 = if o.mod.getLsbD 10 then s.issued 0 true .held (BitVec.ofNat 64 (k 3)) o.d body else s.issued 0 true .running 0 o.d body))
  ∧ (∀ o : Canon, Performs (.msend o) 0xCA o .fall fun s s2 =>
      let len := (s.c32 o).toNat
      let off := (s.b32 o).toNat
      1 ≤ len ∧ len ≤ 256 ∧ off % 4 = 0 ∧ s.cco.scrFail off len = none ∧ s.messagesFull = false
      ∧ s2 = s.issued 4 false .running 0 o.d (.message (s.a32 o).toNat len off o.imm.toNat (o.mod.getLsbD 0)))
  ∧ (∀ o : Canon, Performs (.rret o) 0xD1 o .fall fun s s2 =>
      let t := (s.a32 o).toNat
      let r := (s.b32 o).toNat
      let h := s.scrRead (.thread s.me) s.cco.uid t 16 4
      t % 4 = 0 ∧ r % 4 = 0 ∧ s.cco.scrFail t 16 = none ∧ field h.1 2 1 = 1 ∧ r + 4 * field h.1 10 2 ≤ s.cco.scrgr * 4096 ∧ h.2.messagesFull = false
      ∧ s2 = h.2.issued 3 false .running 0 o.d (.rret (field h.1 4 4) (field h.1 8 2) (field h.1 10 2) r))
  ∧ (∀ o : Canon, Performs (.route o) 0xD0 o .fall fun s s2 => ∃ v w tb,
      let off := (s.a32 o).toNat
      let me : Agent := .thread s.me
      let quad := quadOf s.cco.core
      let b := s.scrRead me s.cco.uid off 32 4
      let d := RouteDesc.parse b.1 (o.mod.getLsbD 2)
      let rb := b.2.readRows me s.cco.uid w (List.range w.rows) 4
      let rows := rb.1.map fun x => (List.range w.cols).map (unpack 32 x)
      let src := rb.2.readRows me s.cco.uid v (List.range v.rows) 4
      s.viewOf 3 o.b = .ok v ∧ s.viewOf 4 o.c = .ok w ∧ off % 8 = 0 ∧ s.cco.scrFail off 32 = none ∧ d.bad = false
      ∧ (b.2.stTable quad d.table).filter (fun t => t.part == s.cco.part) = some tb ∧ routeShapes v w d.k = true
      ∧ (o.mod.getLsbD 1 = true → v.fmt = 13 ∧ v.cols = d.nout)
      ∧ (∀ st ∈ tb.stations, ∀ r, b.2.ring st.ring = some r → v.rowBytes + 16 ≤ 2 ^ r.sl)
      ∧ rows.findIdx? (badRow tb.stations.length d.k) = none ∧ (∀ r, rb.2.entryOf quad d.entry = some r → r.active = false)
      ∧ s2 = (let start := if o.mod.getLsbD 2 then d.at_ else src.2.svc.time
              let f := src.2.fork 3 false (if o.mod.getLsbD 2 then .held else .running) start (.route quad d.entry)
              (f.2.setEntry { quad := quad, num := d.entry, core := hCore f.1, serial := hSerial f.1, part := s.cco.part, seq := s.cco.seq, active := true,
                              out := d.out, timeout := d.timeout, round := d.round, table := d.table, nout := d.nout, nrows := v.rows, nk := d.k,
                              renorm := o.mod.getLsbD 0, pass := o.mod.getLsbD 1, srccore := s.cco.core, rowBytes := src.1,
                              choices := routeChoices d.k rows, started := false, ended := false, cancelled := false }).putFuture o.d f.1))
  ∧ (∀ o : Canon, Performs (.launch o) 0xD3 o .fall fun s s2 => ∃ bytes ws s1,
      let p := ea (s.a64 o) o.imm.toInt
      ptrOff p % 64 = 0 ∧ s.readMem s.tctx p 64 8 = .ok (bytes, ws, s1)
      ∧ ((o.mod.getLsbD 1 = true ∧ (s1.ops.filter fun x => x.core == s1.cco.core && x.kind == 5 && x.phase == .held).length < 16
            ∧ s2 = s1.issued 5 false .held (s1.b64 o) o.d (.launch bytes none false))
        ∨ (o.mod.getLsbD 1 = false ∧ (o.mod.getLsbD 0 = true → s1.devRoom s1.cco.part = true) ∧ s2 = s1.launchNow o.d bytes)))
  ∧ (∀ o : Canon, Performs (.pxch o) 0xD6 o .fall fun s s2 =>
      let v := (s.b32 o).toNat
      let body : OpBody := .pxch (s.a64 o) (v % 64) (v / 2 ^ 6 % 32) (v / 2 ^ 11 % 64) (v / 2 ^ 17)
      ptrOff (s.a64 o) % 256 = 0 ∧ 9 ≤ v % 64 ∧ v % 64 ≤ 48 ∧ v / 2 ^ 6 % 32 ≤ 21 ∧ v / 2 ^ 11 % 64 < v % 64
      ∧ (s.ops.filter fun x => x.core == s.cco.core && x.kind == 6 && x.phase != .done).length < 16
      ∧ ((o.mod.getLsbD 0 = true ∧ s2 = s.issued 6 false .held (s.c64 o) o.d body)
        ∨ (o.mod.getLsbD 0 = false ∧ ∃ x, (s.issued 6 false .running s.svc.time o.d body).findOp s.cco.core (hSerial (s.fork 6 false .running s.svc.time body).1) = some x
            ∧ hCore (s.fork 6 false .running s.svc.time body).1 = s.cco.core
            ∧ s2 = (s.issued 6 false .running s.svc.time o.d body).pxchBegin x)))
  ∧ (∀ (s : State) (kind : Nat) (b : Bool) (ph : Phase) (start : DWord) (body : OpBody), s.cco.core < 192 → kind < 16 → s.prov.reds = [] →
      let r := s.fork kind b ph start body
      hKind r.1 = kind ∧ hCore r.1 = s.cco.core
      ∧ ∃ x, r.2.ops = s.ops ++ [x] ∧ x.core = s.cco.core ∧ x.serial = hSerial r.1 ∧ x.kind = kind ∧ x.phase = ph ∧ x.start = start ∧ x.body = body
          ∧ x.part = s.cco.part ∧ x.seen = s.passedBy (.thread s.me) ∧ x.holdsEntry = b)

/-- O51. FWAIT of a completed or expired handle writes its status to d; the multiple form waits for all or any of its handles and then writes the mask
of failures or the first index; FTEST writes whether the handle is complete; FCANCEL cancels the operation it names; LSTAT writes phase and SEQ, or
the queue counts. A completion marks the operation done with its status, and a thread blocked on its future becomes ready,
unless its cohort is being saved or has left its core. -/
def Obligations.FuturesComplete : Prop :=
  (∀ (i : Instr) (o : Canon), canonOf i = some (0xC2, o) → Performs i 0xC2 o .fall fun s s2 =>
      let n := o.a.toNat
      ((∃ x, s.handleAt n = .op x ∧ x.phase = .done) ∨ s.handleAt n = .expired)
      ∧ s2 = (s.takeStatus n).2.put32 o.d (s.takeStatus n).1)
  ∧ (∀ o : Canon, Performs (.fwaitMulti o) 0xC3 o .fall fun s s2 =>
      let regs := (List.range (o.mod.toNat % 4 + 1)).map (o.a.toNat + ·)
      let all := o.mod.getLsbD 2
      let done (n : Nat) : Bool := (s.handleAt n).isDone
      let r := regs.foldl (fun (r : List (Option Word) × State) n =>
        if done n then (r.1 ++ [some (r.2.takeStatus n).1], (r.2.takeStatus n).2) else (r.1 ++ [none], r.2)) ([], s)
      (∀ n ∈ regs, (s.handleAt n).isBad = false) ∧ (if all then regs.all done = true else regs.any done = true)
      ∧ s2 = r.2.put32 o.d (BitVec.ofNat 32 (
          if all then (r.1.zip (List.range 4)).foldl (fun a x => a + if failedOf (x.1.getD 0) then 2 ^ x.2 else 0) 0
          else (r.1.findIdx? Option.isSome).getD 0)))
  ∧ (∀ o : Canon, Performs (.ftest o) 0xC4 o .fall fun s s2 =>
      let n := o.a.toNat
      (s.handleAt n).isBad = false
      ∧ s2 = if (s.handleAt n).isDone then (s.takeStatus n).2.put32 o.d 1#32 else s.put32 o.d 0#32)
  ∧ (∀ o : Canon, Performs (.fcancel o) 0xC5 o .fall fun s s2 =>
      (s.handleAt o.a.toNat = .expired ∧ s2 = s) ∨ (∃ x, s.handleAt o.a.toNat = .op x ∧ s2 = s.cancelOp x))
  ∧ (∀ o : Canon, Performs (.lstat o) 0xD4 o .fall fun s s2 =>
      let h := s.cth.gv o.a.toNat
      (o.mod.getLsbD 0 = true ∧ s2 = s.put32 o.d (BitVec.ofNat 32 (min (s.pa s.cco.part).devq.length 256
          + min (s.waiters.filter fun t => (s.co (s.th t).coh).part == s.cco.part).length 65535 * 2 ^ 16)))
      ∨ (o.mod.getLsbD 0 = false ∧ hKind h = 5 ∧ s.resolve s.cco.part h = .expired ∧ s2 = s.put32 o.d 4#32)
      ∨ (∃ x, o.mod.getLsbD 0 = false ∧ hKind h = 5 ∧ s.resolve s.cco.part h = .op x ∧ x.kind = 5
          ∧ s2 = s.put32 o.d (BitVec.ofNat 32 ((s.launchPhase x).1 + (s.launchPhase x).2 * 2 ^ 8))))
  ∧ (∀ (s : State) (core serial t : Nat) (st : Word) (detail : DWord) (x : Op), s.findOp core serial = some x → x.phase ≠ .done → failedOf st = false →
      (s.ops.filter fun y => y.core == core && y.phase == .done).length < 4096 →
      (∃ y, (s.complete core serial st detail).findOp core serial = some y ∧ y.phase = .done ∧ y.status = st ∧ y.holdsEntry = false)
      ∧ ((s.th t).run = .blocked (.future core serial) → (s.co (s.th t).coh).place = .resident → (s.co (s.th t).coh).taken ≠ .save →
        ((s.complete core serial st detail).th t).run = .ready))

/-- O52. QCFG configures an idle queue inside the scratchpad; QPUSH and QPOP move one entry when the queue has room or holds one, and then serve the
blocked threads in their order, while a try form that cannot move writes 0 to d; MRCFG makes a ring, writes its header and names it; MWAIT takes the
message at the head, and its try form writes 0 when there is none; RTCFG loads a station table from memory. -/
def Obligations.QueuesAndRings : Prop :=
  (∀ o : Canon, Performs (.qcfg o) 0xC6 o .fall fun s s2 =>
      let q := o.mod.toNat % 16
      let base := (s.a32 o).toNat; let depth := (s.b32 o).toNat; let size := (s.c32 o).toNat
      1 ≤ depth ∧ depth ≤ 256 ∧ 4 ≤ size ∧ size ≤ 4096 ∧ size % 4 = 0 ∧ base % 4 = 0 ∧ s.cco.scrFail base (depth * size) = none
      ∧ (∀ x, nth none s.cco.queues q = some x → x.known = []) ∧ s.queueLine s.cci q = []
      ∧ s2 = s.setCco { s.cco with queues := s.cco.queues.set q (some { base := base, depth := depth, size := size, head := 0, known := [] }) })
  ∧ (∀ (i : Instr) (op : Nat) (o : Canon), canonOf i = some (op, o) → op = 0xC7 ∨ op = 0xC8 → Performs i op o .fall fun s s2 => ∃ x,
      let push : Bool := op == 0xC7
      let q := o.mod.toNat % 16
      let try_ := o.mod.getLsbD 4
      let tile := o.mod.getLsbD 5
      let off := (s.a32 o).toNat
      nth none s.cco.queues q = some x ∧ off % 4 = 0
      ∧ (if tile then off + x.size ≤ s.cco.tilegr * 4096 else s.cco.scrFail off x.size = none)
      ∧ ((s.cco.queueReady q push = true ∧ s2 = (let s1 := s.queueMove s.me q push tile off
              (if try_ then s1.put32 o.d 1#32 else s1).queueServe s.cci q (s.thsOf s.cci).length))
        ∨ (s.cco.queueReady q push = false ∧ try_ = true ∧ s2 = s.put32 o.d 0#32)))
  ∧ (∀ (c : Cohort) (q : Nat) (x : TQueue), nth none c.queues q = some x →
      c.queueReady q true = decide (x.known.length < x.depth) ∧ c.queueReady q false = decide (0 < x.known.length))
  ∧ (∀ o : Canon, Performs (.mrcfg o) 0xC9 o .fall fun s s2 => ∃ e,
      let base := (s.a32 o).toNat; let n := (s.b32 o).toNat; let sl := (s.c32 o).toNat
      n ∈ [2, 4, 8, 16, 32, 64, 128, 256, 512, 1024] ∧ 6 ≤ sl ∧ sl ≤ 13 ∧ base % 64 = 0 ∧ s.cco.scrFail base (64 + n * 2 ^ sl) = none
      ∧ (∀ r ∈ s.rings, r.coh = s.cci → r.base + r.bytes ≤ base ∨ base + 64 + n * 2 ^ sl ≤ r.base)
      ∧ (List.range 64).find? (fun e => !s.rings.any fun r => r.core == s.cco.core && r.num == e) = some e
      ∧ s2 = (let s1 := s.scrWrite (.thread s.me) s.cco.uid base (toLE 8 0 ++ toLE 4 n ++ toLE 1 sl ++ toLE 51 0) 4
              ({ s1 with rings := s1.rings ++ [{ core := s.cco.core, num := e, coh := s.cci, part := s.cco.part, base := base, slots := n, sl := sl,
                                                 head := 0, tail := 0, known := [] }] } : State).put32 o.d (BitVec.ofNat 32 (s.cco.core + e * 2 ^ 8))))
  ∧ (∀ o : Canon, Performs (.mwait o) 0xCB o .fall fun s s2 => ∃ r,
      let dst := (s.b32 o).toNat
      s.ring (s.a32 o).toNat = some r ∧ r.coh = s.cci ∧ dst % 4 = 0 ∧ s.cco.scrFail dst (2 ^ r.sl) = none
      ∧ ((r.known ≠ [] ∧ s2 = s.mailTake s.me r dst o.d.toNat) ∨ (r.known = [] ∧ o.mod.getLsbD 0 = true ∧ s2 = s.put32 o.d 0#32)))
  ∧ (∀ o : Canon, Performs (.rtcfg o) 0xD2 o .fall fun s s2 => ∃ hdr ws s1 img ws2 s3,
      let t := (s.a32 o).toNat
      let p := s.b64 o
      let n := field hdr 0 1
      let word (j : Nat) : Nat := field img (8 * j) 8
      let quad := quadOf s.cco.core
      t ≤ 7 ∧ ptrOff p % 8 = 0 ∧ s.readMem s.tctx p 8 8 = .ok (hdr, ws, s1) ∧ 1 ≤ n ∧ n ≤ 64 ∧ field hdr 1 7 = 0
      ∧ s1.readMem s.tctx (ea p 8) (8 * n) 8 = .ok (img, ws2, s3)
      ∧ (∀ j, j < n → word j < 2 ^ 48 ∧ ∃ r, s3.ring (word j % 2 ^ 32) = some r ∧ r.part = s.cco.part)
      ∧ (∀ r ∈ s3.reasm, ¬ (r.active = true ∧ r.quad = quad ∧ r.table = t))
      ∧ s2 = s3.setTable { quad := quad, num := t, part := s.cco.part,
                           stations := (List.range n).map fun j => { ring := word j % 2 ^ 32, cap := word j / 2 ^ 32, round := 0, count := 0 } })

/-- O53. GTBR gives the time base; CSRR a special register, 64-bit for %fpc, %fdetail, %cycle and %cohlin; CSRW writes, sets or clears a writable one; TLBINV
and BTINV release at .pkg and bring home the writes and REDs that what they name may have served: for TLBINV those in the pages that its range overlaps, for
BTINV, which waits for the answers of requests that a named entry let out, all; TLBINV drops the TLB leaves that its range meets, or all, of the partition
(a range of length 0 none), BTINV the buffer-table copies of its entries, or all; SYSC reads the partition's core budget and class, or releases at .sys and
notifies the host of what that release made known. That the invalidations take effect and bring
home what they name in the same step is the model's reading (assumption log 47, DEDUCED), and that the notification is made at once its choice (log 48). Each
completes on every operand, TLBINV and BTINV once no home refuses what they bring there. -/
def Obligations.SystemInstructions : Prop :=
  (∀ o : Canon, Computes (.gtbr o) 0xD5 o fun s => s.put64 o.d s.svc.time)
  ∧ (∀ o : Canon, Computes (.csrr o) 0xE0 o fun s =>
      if o.a.toNat ∈ [0x87, 0x90, 0x95, 0x96] then s.put64 o.d (s.special 2 o.a.toNat) else s.put32 o.d ((s.special 2 o.a.toNat).setWidth 32))
  ∧ (∀ o : Canon, Computes (.csrw o) 0xE1 o fun s =>
      let old := (s.special 1 o.d.toNat).setWidth 32
      let m := o.mod.toNat % 4
      s.putSpecial o.d.toNat (if m = 0 then s.b32 o else if m = 1 then old ||| s.b32 o else old &&& ~~~(s.b32 o)))
  ∧ (∀ o : Canon, Performs (.tlbinv o) 0xE2 o .fall fun s s2 => ∃ s0,
      let va := (s.a64 o).toNat % 2 ^ 57
      let len := (s.b64 o).toNat
      let all := o.mod.getLsbD 0
      let meets (a n b m : Nat) : Bool := decide (a < b + m) && decide (b < a + n)
      let gone (x : Nat × Leaf) : Bool := x.2.part == s.cco.part && (all || meets x.2.va x.2.size va len)
      let pages := s0.coveredPages s.cco.part va len
      let s1 := s0.settleUsed s.cco.part fun a n => all || pages.any fun q => meets a n q.1 q.2
      s.releaseHome = .ok s0
      ∧ s2 = if all = false ∧ len = 0 then s0 else { s1 with tlb1 := s1.tlb1.filter (fun x => !gone x), tlb2 := s1.tlb2.filter (fun x => !gone x),
                                                                 bigPages := s1.bigPages.filter fun l => !gone (0, l) })
  ∧ (∀ s s0 : State, s.releaseHome = .ok s0 →
      s0 = (s.releaseBy s.me scPkg).2.arrive (s.releaseBy s.me scPkg).1 ∧ s0.homeRefused (s.releaseBy s.me scPkg).1 = false)
  ∧ (∀ (s : State) (part va len : Nat), 0 < len →
      (∀ l ∈ s.bigPages, l.part = part → l.va < va + len → va < l.va + l.size → (l.va, l.size) ∈ s.coveredPages part va len)
      ∧ (∀ a, va ≤ a → a < va + len → ∃ q ∈ s.coveredPages part va len, q.1 ≤ a / 2 ^ 16 * 2 ^ 16 ∧ a / 2 ^ 16 * 2 ^ 16 + 2 ^ 16 ≤ q.1 + q.2))
  ∧ (∀ o : Canon, Performs (.btinv o) 0xE3 o .fall fun s s2 => ∃ s0,
      let first := (s.a32 o).toNat % 2 ^ 16
      let n := (s.b32 o).toNat
      let named (i : Nat) : Bool := o.mod.getLsbD 0 || (decide (first ≤ i) && decide (i < first + n))
      let s1 := s0.settleUsed s.cco.part fun _ _ => o.mod.getLsbD 0 || decide (0 < n)
      s.releaseHome = .ok s0 ∧ (∀ r ∈ s.fabric.reqs, r.answer = none → s.agPart r.agent = some s.cco.part → named (ptrBuf (BitVec.ofNat 64 r.off)) = false)
      ∧ s2 = { s1 with bufc := s1.bufc.filter fun x => !(x.2.1 == s.cco.part && named x.2.2.1) })
  ∧ (∀ o : Canon, Computes (.sysc o) 0xE4 o fun s =>
      let p := s.pa s.cco.part
      if o.mod.toNat % 16 = 1 then s.put32 o.d (BitVec.ofNat 32 (p.cores % 2 ^ 16 + if p.interactive then 2 ^ 16 else 0))
      else
        let r := s.releaseBy s.me scSys
        r.2.notify s.cco.part (toLE 1 2 ++ toLE 1 s.cco.part ++ toLE 6 0 ++ toLE 8 (s.b64 o).toNat ++ toLE 8 r.2.svc.time.toNat ++ toLE 40 0) r.1)

/-- O54. A write of %fstat or %rmode stores its defined bits, the reserved ones read 0, and no other register of the thread changes; a write of %ftol,
%drain or %divcnt is read back by the thread that wrote it; the other special registers read the thread's, the cohort's, the core's or the device's
own field, %cohx, %cohy and %cohz the cohort's place in its launch's grid, and %gtblo and %gtbhi the two halves of the time base. A read of a k, view,
convergence or code-table register gives one of the values that its thread may read: that of a write after which no other is certain for the thread, or
the first value when no write is. Its own write is what the writer reads from then on, a write that has become certain for a thread what that thread reads,
and no value written later is ever shut out. -/
def Obligations.SpecialRegisters : Prop :=
  (∀ (s : State) (t f : Nat) (v : Word), s.Runs t →
    let th := s.th t
    let c := s.co th.coh
    ((s.putSpecial 0x91 v).special f 0x91 = (v &&& 0x1F#32).setWidth 64 ∧ s.putSpecial 0x91 v = s.setTh t { th with fstat := v.setWidth 5 })
    ∧ ((s.putSpecial 0x92 v).special f 0x92 = (v &&& 3#32).setWidth 64 ∧ s.putSpecial 0x92 v = s.setTh t { th with rmode := v.setWidth 2 })
    ∧ (s.special f 0x91 = th.fstat.setWidth 64 ∧ s.special f 0x92 = th.rmode.setWidth 64)
    ∧ (∀ sel, sel ∈ [0x93, 0x97, 0x98] → (s.putSpecial sel v).special f sel = v.setWidth 64 ∧ (∀ u, (s.putSpecial sel v).th u = s.th u))
    ∧ s.special f 0x80 = BitVec.ofNat 64 th.tid ∧ s.special f 0x81 = BitVec.ofNat 64 (th.tid % 32) ∧ s.special f 0x82 = BitVec.ofNat 64 (th.tid / 32)
    ∧ s.special f 0x83 = BitVec.ofNat 64 c.nthr ∧ s.special f 0x87 = BitVec.ofNat 64 c.lin
    ∧ (∀ l, s.launch c.part c.seq = some l → s.special f 0x84 = BitVec.ofNat 64 (c.lin % l.lr.gx) ∧ s.special f 0x85 = BitVec.ofNat 64 (c.lin / l.lr.gx % l.lr.gy)
        ∧ s.special f 0x86 = BitVec.ofNat 64 (c.lin / l.lr.gx / l.lr.gy))
    ∧ s.special f 0x88 = BitVec.ofNat 64 (if c.spanSize = 0 then 0 else c.lin % c.spanSize)
    ∧ s.special f 0x89 = BitVec.ofNat 64 c.core ∧ s.special f 0x8A = BitVec.ofNat 64 (c.core / 4) ∧ s.special f 0x8B = BitVec.ofNat 64 (c.core / 96)
    ∧ s.special f 0x8C = BitVec.ofNat 64 s.node ∧ s.special f 0x8D = BitVec.ofNat 64 c.part
    ∧ s.special f 0x8F ++ (s.special f 0x8E).setWidth 32 = (0#32 ++ s.svc.time : BitVec 96)
    ∧ s.special f 0x90 = BitVec.ofNat 64 s.svc.cyc ∧ s.special f 0x94 = th.fcode.setWidth 64 ∧ s.special f 0x95 = th.fpc ∧ s.special f 0x96 = th.fdetail
    ∧ s.special f 0x99 = BitVec.ofNat 64 c.gregs ∧ s.special f 0x9A = BitVec.ofNat 64 c.seq
    ∧ (∀ i, s.kval f i ∈ (c.kc i).values th.tid ∧ s.vval f i ∈ (c.vc i).values th.tid ∧ s.cval f i ∈ (c.cc i).values th.tid
        ∧ s.ctval f i ∈ (c.tc i).values th.tid))
  ∧ (∀ (c : UCell DWord) (tid : Nat) (v : DWord),
    (v ∈ c.values tid ↔ (v = c.base ∧ ∀ w ∈ c.hist, tid ∉ w.sure)
      ∨ ∃ newer w older, c.hist = newer ++ w :: older ∧ w.val = v ∧ ∀ x ∈ newer, tid ∉ x.sure)
    ∧ (∀ id tids, tid ∈ tids → (c.write id tids v).values tid = [v])
    ∧ (∀ id tids, tid ∉ tids → (c.write id tids v).values tid = v :: c.values tid))
  ∧ (∀ (c : UCell DWord) (nthr tid u : Nat) (w : UWrite DWord) (older : List (UWrite DWord)) (n : Nat), c.hist = w :: older → tid ∈ w.writers → w.id < n →
    (c.certain nthr [(tid, n)] [u]).values u = [w.val])
  ∧ (∀ (c : UCell DWord) (nthr : Nat) (ws : List (Nat × Nat)) (us : List Nat) (u : Nat), (c.certain nthr ws us).newest = c.newest
    ∧ c.newest ∈ (c.certain nthr ws us).values u)

/-- O55. COPY_COMPLETE, the three tile events, MATRIX_OP_COMPLETE, CHAIN_COMPLETE, LOW_RANK_ASYNC_COMPLETE, MESSAGE_PLACEMENT, ROUTE_DELIVERY,
ROUTE_TIMEOUT, RRET_ARRIVAL, AT_TIME_REACHED, WAITT_EXPIRY and the PXCH events act on the operation (or thread) they name when it stands where the
event finds it, PXCH_PAIRED when the other device's PXCH pairs with it in time, and PXCH_PAIRED relays a half bound for another node: it leaves by a port, or
is kept until a port takes it; an event that names no such operation changes nothing. MATRIX_OP_COMPLETE without a matrix operation adds a contribution of an
open chain. A TILECHK checks once, writes its report and then ends, with what it found or with what its report met. The model's choices: an event that names no such
operation (log 63), the whole effect in one event (log 58), a PXCH that is unpaired or late, and the relay (log 49). -/
def Obligations.EngineEvents : Prop :=
  (∀ (s : State) (core : Nat) (n : BitVec 20) (p : PxchSide) (half : List (Nat × BitVec 8)),
      s.findOp core n.toNat = none → p.dest = s.node →
      ∀ i, i ∈ [Instr.copyComplete core n, .tileDecodeComplete core n, .tileEncodeComplete core n, .tilechkComplete core n, .chainComplete core n,
        .lowRankAsyncComplete core n, .messagePlacement core n, .rretArrival core n, .atTimeReached core n,
        .pxchPaired core n p half, .pxchTimeout core n] →
      exec i s = .next s)
  ∧ (∀ (s : State) (core : Nat) (n : BitVec 20) (o : Op), s.findOp core n.toNat = some o →
      (∀ multi dsp ssp mask dst src xb ny nz srs drs sps dps, o.phase = .running → o.body = .copy multi dsp ssp mask dst src xb ny nz srs drs sps dps →
        exec (.copyComplete core n) s = .next ((s.runCopy o multi dsp ssp mask dst src xb ny nz srs drs sps dps false).finish o))
      ∧ (∀ name v vw ahead cts, o.phase = .running → o.body = .tileLd name v vw ahead cts →
        exec (.tileDecodeComplete core n) s = .next ((ranOf s (s.runTileLd o name v vw ahead cts)).finish o))
      ∧ (∀ name dst scr lvl cts, o.phase = .running → o.body = .tileDec name dst scr lvl cts →
        exec (.tileDecodeComplete core n) s = .next ((s.runTileDec o name dst scr lvl cts).finish o))
      ∧ (∀ name dst scr lvl cts, o.phase = .committed → o.body = .tileDec name dst scr lvl cts →
        exec (.tileDecodeComplete core n) s = .next ((s.runTileDec o name dst scr lvl cts).cancelled.finish o))
      ∧ exec (.tileEncodeComplete core n) s = .next (s.finishEncode o)
      ∧ (∀ name report k cts, o.phase = .running → o.body = .tileChk name report k cts →
        let found (s1 : State) (st : Word) (detail : DWord) : State := (s1.setWork o (.decoded (toLE 8 detail.toNat) st)).putReport o report (toLE 8 detail.toNat) st
        let ends (t : State) : Prop := exec (.tilechkComplete core n) s = .next t
        (∀ bytes st, o.work = .decoded bytes st → ends (s.putReport o report bytes st))
        ∧ ((∀ bytes st, o.work ≠ .decoded bytes st) → k = 0 → ends (s.complete o.core o.serial (engStatus 0x40 0) 0))
        ∧ ((∀ bytes st, o.work ≠ .decoded bytes st) → k ≠ 0 →
          (∀ s1, s.checkAll o name k cts = .ok s1 → ends (found s1 (engStatus 0 (min k 0xFFFFFF)) 0))
          ∧ (∀ code d, s.checkAll o name k cts = .error (.fault code d) → ends (found s (faultStatus code d) d))
          ∧ (∀ w r code d, s.checkAll o name k cts = .error (.wait w r) → (s.request (.op o.core o.serial) w r).1 = .error (code, d) →
            ends (found (s.request (.op o.core o.serial) w r).2 (faultStatus code d) d))))
      ∧ exec (.chainComplete core n) s = .next (s.finishChain o)
      ∧ (∀ e d a, o.body = .lowRank e d a → exec (.lowRankAsyncComplete core n) s = .next (s.finishChain o))
      ∧ exec (.messagePlacement core n) s = .next (s.finishMessage o)
      ∧ exec (.rretArrival core n) s = .next (s.finishRret o)
      ∧ (o.phase = .held → o.start.toNat ≤ s.svc.time.toNat → (∀ b q k, o.body ≠ .launch b q k) → (∀ p a b c d, o.body ≠ .pxch p a b c d) →
        exec (.atTimeReached core n) s = .next (s.updOp o.core o.serial fun x => { x with phase := .running }))
      ∧ (∀ b q k, o.phase = .held → o.start.toNat ≤ s.svc.time.toNat → o.body = .launch b q k →
        exec (.atTimeReached core n) s = .next (s.enterDev o b))
      ∧ (∀ p ll nb hb tag, o.phase = .held → o.start.toNat ≤ s.svc.time.toNat → o.body = .pxch p ll nb hb tag →
        exec (.atTimeReached core n) s = .next ((s.updOp o.core o.serial fun x => { x with phase := .running }).pxchBegin { o with phase := .running }))
      ∧ (∀ p ll nb hb tag (x : PxchSide) half, o.phase = .running → o.body = .pxch p ll nb hb tag →
        let paired : Prop := x.node = s.node ^^^ 2 ^ nb ∧ x.part = o.part ∧ x.tag = tag ∧ x.ll = ll ∧ x.nb = nb ∧ x.hb = hb
        let inTime : Prop := o.start.toNat ≤ s.svc.time.toNat ∧ s.svc.time.toNat < o.start.toNat + 10 ^ 7
        (x.dest = s.node → paired → inTime → exec (.pxchPaired core n x half) s
          = .next (((s.see (.op o.core o.serial) (s.madeHere x.known)).pxchRun o p ll nb hb tag x.ok half).finish o))
        ∧ (x.dest = s.node → ¬ (paired ∧ inTime) → exec (.pxchPaired core n x half) s = .next s)
        ∧ (o.start.toNat + 10 ^ 7 ≤ s.svc.time.toNat → exec (.pxchTimeout core n) s = .next (s.complete o.core o.serial (engStatus 0x46 0) 0))))
  ∧ (∀ (s : State) (core : Nat) (n : BitVec 20) (p : PxchSide) (half : List (Nat × BitVec 8)), p.dest ≠ s.node →
      let msg : HeldMsg := ⟨p.dest, p.node, p.tag, half.length, .half 0 p.node p.dest p.part p.tag p.ll p.nb p.hb half⟩
      exec (.pxchPaired core n p half) s = .next (s.sendOut msg)
      ∧ (∀ s1, s.hasRoute p.dest = true → s.countFlits p.dest p.node p.tag half.length = some s1 → s.sendOut msg
          = { s1 with fabric := { s1.fabric with
              out := s1.fabric.out ++ [.half (s.sendPort p.dest p.node p.tag) p.node p.dest p.part p.tag p.ll p.nb p.hb half] } })
      ∧ (s.hasRoute p.dest = false ∨ s.countFlits p.dest p.node p.tag half.length = none →
          s.sendOut msg = { s with fabric := { s.fabric with outDue := s.fabric.outDue ++ [msg] } }))
  ∧ (∀ (s : State) (core : Nat) (m : MatOp), s.matops.find? (fun m => m.core == core) = some m →
      exec (.matrixOpComplete core) s = .next (({ s with matops := s.matops.erase m } : State).finishMat m))
  ∧ (∀ (s : State) (core : Nat), (∀ m ∈ s.matops, m.core ≠ core) → exec (.matrixOpComplete core) s = .next (s.addSome core))
  ∧ (∀ (s : State) (quad entry : Nat) (e : Reasm) (o : Op), s.routeOp quad entry = some (e, o) →
      (∀ e1 s1, o.phase = .running → s.routeStart e o = .ok (e1, s1) → e1.ended = true →
        exec (.routeDelivery quad entry) s = .next ((s1.setEntry e1).routeEnd e1 o))
      ∧ (∀ e1 s1 c, o.phase = .running → s.routeStart e o = .ok (e1, s1) → e1.ended = false → e1.next = some c →
        exec (.routeDelivery quad entry) s = .next (((s1.deliverChoice e1 o c).1.setEntry (s1.deliverChoice e1 o c).2).routeEnd (s1.deliverChoice e1 o c).2 o))
      ∧ (o.phase = .running → e.timeout ≠ 0 → o.start.toNat + e.timeout ≤ s.svc.time.toNat →
        exec (.routeTimeout quad entry) s = .next ((s.setEntry (e.finalise false)).routeEnd (e.finalise false) o)))
  ∧ (∀ (s : State) (t : Nat) (w : DWord), (s.th t).run = .blocked (.time w) →
      exec (.waittExpiry t) s = .next (if w.toNat ≤ s.svc.time.toNat then s.setTh t { s.th t with run := .ready, listed := .no } else s))

/-- O56. LAUNCH_ACCEPTANCE takes the next record of a present partition, outside a reset, from the queue whose turn it is, and reports a broken host queue; the
Curator places at the end of each step in which an event calls for it, DISPATCH_TICK among them; COHORT_COMPLETE frees a cohort all of whose threads and
operations have ended, counts it and settles its launch; SAVE and DRAIN_TIMEOUT carry out a pre-emption; LAUNCH_ABORT stops an aborting launch and ends it when
its operations have ended; CTRL_RESET and HOST_RESET_REQUEST reset a partition. The image that SAVE writes holds its sections in their order: 256 B, each
thread's 64 B and general registers, 4,096 B, 16 B for each pending future, tile space without spare pool bytes, the scratchpad. The model's choices: a partition outside
0 to 15 or in a reset changes nothing (log 63), placement at the end of the step and DRAIN excluded after DRAIN_TIMEOUT (log 43), records and jobs that wait for a page or
another device (log 44), the order of a reset (log 45), free values where the image's form is the device's own, and what of it a save writes (log 41). -/
def Obligations.CuratorEvents : Prop :=
  ∀ s : State,
    (∀ part, (s.pa part).present = true → s.resetting part = false →
      (∀ w q, s.hostQueue part = .waits w q → (s.pa part).devq = [] → exec (.launchAcceptance part) s = .next (s.hubAsk part w q))
      ∧ (∀ w q s1 r rest, s.hostQueue part = .waits w q → (s.pa part).devq = r :: rest →
        (((∃ w1, s.request (.hub part) w q = (.ok w1, s1)) → (s.pa part).devTurn = true → exec (.launchAcceptance part) s = .next (s.takeDev part r))
          ∧ ((∃ w1, s.request (.hub part) w q = (.ok w1, s1)) → (s.pa part).devTurn = false → exec (.launchAcceptance part) s = .next s1)
          ∧ (∀ f, s.request (.hub part) w q = (.error f, s1) → exec (.launchAcceptance part) s = .next (s1.takeDev part r))))
      ∧ (s.hostQueue part = .bad → exec (.launchAcceptance part) s = .next (((s.dropAnswers (.hub part)).setPa part { s.pa part with hostBad := true }).fqEnter part 3 0 0 0 0 0 0))
      ∧ (∀ head ptr s1, s.hostQueue part = .record head ptr s1 → (s.pa part).devq = [] ∨ (s.pa part).devTurn = false →
        exec (.launchAcceptance part) s = .next (s1.takeHost part head ptr))
      ∧ (∀ r rest, (s.pa part).devq = r :: rest →
        s.hostQueue part = .idle ∨ (∃ head ptr s1, s.hostQueue part = .record head ptr s1 ∧ (s.pa part).devTurn = true) →
        exec (.launchAcceptance part) s = .next (s.takeDev part r))
      ∧ (s.hostQueue part = .idle → (s.pa part).devq = [] → exec (.launchAcceptance part) s = .next (s.dropAnswers (.hub part))))
    ∧ (∀ part, s.resetting part = true → exec (.launchAcceptance part) s = .next s)
    ∧ exec .dispatchTick s = .next { s with due := true }
    ∧ ((s.due = true → s.placeDue = { s.curate with due := false }) ∧ (s.due = false → s.placeDue = s))
    ∧ (s.hubq = [] → s.fabric.podDue = [] → s.fabric.letGo = [] → s.fabric.outDue = [] → s.fabric.reds = [] → s.prov.reds = [] →
      let s1 := (({ s with cur := none } : State).placeDue.endGroup).relist
      s.closeStep = { s1 with cur := none, svc := s1.svc.tick, prov := { s1.prov with picks := s1.prov.picks + 64 } })
    ∧ (∀ coh, (s.co coh).place = .resident → (∀ t ∈ s.thsOf coh, (s.th t).run = .exited) → s.busyOps (s.co coh) = false → s.redsAway coh = false →
      let c := s.co coh
      let s1 := ((s.unlist coh).releaseCohort coh).freeRings coh
      let s2 := (s1.setCo coh { s1.co coh with place := .gone, taken := .no, holds := [], leftAt := s.svc.time.toNat }).updLaunch c.part c.seq fun l => l.oneDone c.lin
      exec (.cohortComplete coh) s = .next { (if (s1.co coh).faults = 0 then s2.putCounts c.part c.seq
        else s2.faultLaunch c.part c.seq (s1.co coh).faults (s1.co coh).first).settleLaunch c.part c.seq with due := true })
    ∧ (∀ coh, (s.co coh).taken = .save → (s.co coh).place = .resident → s.saveWaits coh = false → s.redsAway coh = false →
      let c := s.co coh
      let s1 := ((s.flushMat c.core).drainChains coh).releaseCohort coh
      let granules := s1.freeGranules c.part (s1.imageGranules coh)
      let s2 := (((s1.thsOf coh).foldl (fun st t => st.see (.thread t) (s1.cohortKnown coh)) s1).mapThs (s1.thsOf coh)
        fun t => { t with listed := .no }).losePools coh
      ∀ s4, (s2.image coh).2.writeImage c.part granules (s2.image coh).1 = .ok s4 → exec (.save coh) s = .next (s4.leaveSaved coh granules))
    ∧ (∀ coh, let c := s.co coh
      let im := (s.image coh).1
      let at_ : Nat := 256 + (s.thsOf coh).length * (64 + 4 * c.gregs)
      let kept := (List.range c.tileBytes).filter fun o => !c.sparePools.any fun r => decide (r.1 ≤ o) && decide (o < r.2)
      im.length = at_ + 4096 + 16 * s.pendingRegs coh + kept.length + c.scrBytes
      ∧ (∀ i t n k, (s.thsOf coh)[i]? = some t → n < c.gregs → k < 4 → im[256 + i * (64 + 4 * c.gregs) + 64 + 4 * n + k]? = (toLE 4 (nth 0 (s.th t).g n).toNat)[k]?)
      ∧ (∀ j o, kept[j]? = some o → im[at_ + 4096 + 16 * s.pendingRegs coh + j]? = some (Memory.get s.mem (tileKey c.uid o)))
      ∧ (∀ o, o < c.scrBytes → im[at_ + 4096 + 16 * s.pendingRegs coh + kept.length + o]? = some (Memory.get s.mem (scrKey c.uid o)))
      ∧ (s.image coh).2.mem = s.mem)
    ∧ (∀ part g gs bytes ls s1, let ptr := DWord.plus (s.pa part).savebase (4096 * g)
      s.port (hubCtx part none) .write ptr (bytes.take 4096).length = .ok (.here ls, s1) → s1.guardLocs (hubCtx part none) .write ptr ls = .ok () →
      s.writeImage part (g :: gs) bytes = (s1.putImage part ls (bytes.take 4096)).writeImage part gs (bytes.drop 4096))
    ∧ (∀ part ls (bytes : List Byte), ls.length = bytes.length → (keysOf ls).Nodup → Memory.wf s.mem = true → s.svc.enc = [] → (∀ l ∈ ls, l.enc = false) →
      (keysOf ls).map (Memory.get (s.putImage part ls bytes).mem) = bytes
      ∧ ∀ k, k ∉ keysOf ls → Memory.get (s.putImage part ls bytes).mem k = Memory.get s.mem k)
    ∧ (∀ coh granules, coh < s.cohorts.length → ∃ s1 : State, (s1.co coh).place = .saved granules ∧ (s1.co coh).taken = .no ∧ s1.threads = s.threads
        ∧ s1.mem = s.mem ∧ s.leaveSaved coh granules = { s1.tryBars coh with due := true })
    ∧ (∀ coh limit p q lin l, (s.co coh).taken = .drain limit p q lin → limit ≠ 0 → limit ≤ s.svc.time.toNat → (s.co coh).place = .resident →
      let u := s.unitOf coh
      let s1 : State := u.foldl (fun st i => st.setCo i { st.co i with taken := .no }) s
      s1.launch p q = some l →
        (s1.eligible l = true → s1.awaits l lin = true → exec (.drainTimeout coh) s
          = .next { ((s1.preempt l false u).getD s1).dispatch u 4096 with due := false })
        ∧ (s1.eligible l = false ∨ s1.awaits l lin = false → exec (.drainTimeout coh) s
          = .next { s1.dispatch u 4096 with due := false }))
    ∧ (∀ part (seq : BitVec 32) l, s.launch part seq.toNat = some l → l.aborting = true → l.state < 2 →
      let mine := (List.range s.cohorts.length).filter fun i => (s.co i).part == part && (s.co i).seq == seq.toNat && (s.co i).place != .gone
      let s1 := (mine.foldl State.stopCohort s).updLaunch part seq.toNat fun x => { x with flushed := [] }
      exec (.launchAbort part seq) s = .next (if s1.ops.any (fun o => o.phase != .done && o.part == part && o.seq == seq.toNat) then s1
        else s1.endLaunch part seq.toNat 3))
    ∧ (s.curate = s.dispatch [] 4096)
    ∧ (∀ part, part < 16 → exec (.ctrlReset part) s
        = .next ((s.setWin (0x1000 + 256 * part + 0x70) 8 (s.win (0x1000 + 256 * part + 0x70) 8 / 2 * 2 + 1)).resetPart part))
    ∧ (∀ part, 16 ≤ part → exec (.ctrlReset part) s = .next s)
    ∧ (∀ part, part < 16 → s.svc.booted = true → s.resetting part = false →
      s.resetPart part = (s.resetStop part).hubDo (.reset part (if (s.pa part).present then (s.pa part).hctrl else 0)))
    ∧ (∀ part b s1, (s.pa part).present = true → (s.pa part).hctrl ≠ 0 → s.resetting part = false → s.hubRead part none (s.pa part).hctrl 64 = .ok (b, s1) →
      (field b 0 8 = 1 → field b 0x10 48 = 0 → exec (.hostResetRequest part) s = .next (s1.resetPart part))
      ∧ (field b 0 8 ≠ 1 ∨ field b 0x10 48 ≠ 0 → exec (.hostResetRequest part) s = .next s1))

/-- O57. A fill brings the word at a thread's PC into the cache; a merge joins Registrar entries of one cohort and PC; a migration completes for the
parked threads or, when the transfer fails, faults them and is kept for the other agents that asked; writes and REDs reach their homes; remote requests are served, answered from the replay cache, relayed or refused, and remote
answers, resends and timeouts act on the outstanding request; a request of the companion processor is answered; a refused thread replays; a report of a pod
barrier is collected at the pod's lowest node, whose release completes the barrier elsewhere, and an answer or a barrier message for another node is relayed: it leaves,
or is kept until a port takes it. A request that is made again leaves with its sequence, fails when no port leads to its node, and waits when its port carries none. The
model's choices: a failed page is kept for the other askers (log 80), reads are served again and others are answered from the replay cache, and PAGE has cause 6 without a
route (log 50), the collection of a pod barrier's reports (log 59), and events that find nothing to act on (log 63). -/
def Obligations.FabricAndHomeEvents : Prop :=
  ∀ s : State,
    let es (x : PendingRed) (r : Nat) : List PendingRed := s.prov.reds.filter fun y =>
      y.thread == x.thread && decide (y.id ≤ r) && decide (y.key < x.key + 8) && decide (x.key < y.key + 8)
    (∀ coh (pc : DWord) f len s1, (s.co coh).place = .resident → (∃ t ∈ s.thsOf coh, (s.th t).pc = pc ∧ (s.th t).run ≠ .exited) →
      let c := s.co coh
      s.cached c.core c.part pc = none →
      s.fill { agent := .core c.core, part := c.part, core := some c.core, quad := quadOf c.core, seq := some c.seq } c.core (s.fetchKnown c.part c.seq) pc
        = .word f len s1 →
      exec (.instructionFill coh pc) s = .next s1)
    ∧ (∀ core, exec (.registrarMerge core) s = .next
        { s with registrar := (s.registrar.filter fun e => e.core != core) ++ mergeEntries (s.registrar.filter fun e => e.core == core) })
    ∧ (∀ m x, s.migrations.find? (fun y => y.id == m) = some x →
      let s0 := { s with migrations := s.migrations.filter fun y => y.id != m }
      let inSrc (k : Nat) : Prop := capKey x.leaf.frame ≤ k ∧ k < capKey x.leaf.frame + x.leaf.size
      let s1 := (s0.parkedOn m).foldl State.failPage s0
      let kept := s1.failedMoves.filter fun y => !(x.askers.contains y.1 && y.2 == (x.leaf.part, x.leaf.va))
      let failed : State := { s1 with failedMoves := x.askers.map (fun a => (a, x.leaf.part, x.leaf.va)) ++ kept }
      exec (.migrationComplete m false) s = .next failed
      ∧ ((∃ k ∈ s.poison, inSrc k) → exec (.migrationComplete m true) s = .next failed)
      ∧ (∀ t d, (s0.th t).run = .blocked (.page m d) → s0.failPage t = s0.takeFault t 0x0A (withCause d 5))
      ∧ ((∀ k ∈ s.poison, ¬ inSrc k) →
          (s.leafHeld x = false → exec (.migrationComplete m true) s = .next (s0.pageArrives x))
          ∧ (s.leafHeld x = true → exec (.migrationComplete m true) s = .next s)))
    ∧ (∀ t, (s.th t).run = .blocked .retry → exec (.requestRetry t) s = .next (s.ready t))
    ∧ (∀ w r, s.writeRec w = some r → isGlobal r.key = true →
      (∀ k ∈ r.keys, s.refused r.agent { key := k, va := 0, mside := false, enc := false } = false) →
      exec (.writeReachesHome w) s = .next (s.arrive (r.keys.foldl (fun l k =>
        union l (((s.histAt k).writes.filter fun x => x.wid == w).flatMap (·.before))) [w])))
    ∧ (∀ r x, s.prov.reds.find? (fun y => y.id == r) = some x → (∃ y ∈ es x r, s.redWaits y = true) → exec (.redAtHome r) s = .next s)
    ∧ (∀ r x, s.prov.reds.find? (fun y => y.id == r) = some x → (∀ y ∈ es x r, s.redWaits y = false) →
      exec (.redAtHome r) s = .next ((es x r).foldl State.redNow s))
    ∧ (∀ (src : Sender) (dest : BitVec 22) (seq : BitVec 32) part (va : BitVec 64) kind n (mod : BitVec 18) data, s.svc.booted = true →
      (dest.toNat = s.node → exec (.remoteRequest src dest seq part va kind n mod data) s
        = .next (s.serveRemote src.node.toNat src.part src.who seq.toNat part va.toNat kind n mod data src.known))
      ∧ (dest.toNat ≠ s.node → s.routePorts dest.toNat = 0 → exec (.remoteRequest src dest seq part va kind n mod data) s
        = .next (s.sendAnswer src.node.toNat seq.toNat 3 0x0A 0 []))
      ∧ (dest.toNat ≠ s.node → s.routePorts dest.toNat ≠ 0 →
        let msg (port : Nat) : Out := .forward port src.node.toNat src.part src.who dest.toNat seq.toNat part va.toNat kind n mod data
        (∀ s1, s.sendMsg dest.toNat src.node.toNat seq.toNat data.length msg = some s1 → exec (.remoteRequest src dest seq part va kind n mod data) s = .next s1)
        ∧ (s.sendMsg dest.toNat src.node.toNat seq.toNat data.length msg = none → exec (.remoteRequest src dest seq part va kind n mod data) s
          = .next (s.sendAnswer src.node.toNat seq.toNat 2 0 0 []))))
    ∧ (∀ (src own seq part who va kind n : Nat) (mod : BitVec 18) data known, s.resetting part = false →
      let c : Ctx := { agent := .node src own who, part := part, core := none, quad := 48, seq := none }
      let bytes := if kind = 7 then max n 16 else n
      (∀ r, kind ∉ [0, 4, 5, 8] → s.fabric.replay.find? (fun r => r.src == src && r.seq == seq) = some r →
        s.serveRemote src own who seq part va kind n mod data known = s.sendAnswer src seq 0 0 0 r.result)
      ∧ (kind ∈ [0, 4, 5, 8] ∨ s.fabric.replay.find? (fun r => r.src == src && r.seq == seq) = none →
        (∀ code d, s.farPlace c va kind bytes mod = .error (.fault code d) →
          s.serveRemote src own who seq part va kind n mod data known = s.sendAnswer src seq 1 code (BitVec.ofNat 64 (d.toNat % 2 ^ 48)) [])
        ∧ (∀ w q w1 s1, s.farPlace c va kind bytes mod = .error (.wait w q) → s.request c.agent w q = (.ok w1, s1) →
          s.serveRemote src own who seq part va kind n mod data known = s1.sendAnswer src seq 2 0 0 [])
        ∧ (∀ w q code d s1, s.farPlace c va kind bytes mod = .error (.wait w q) → s.request c.agent w q = (.error (code, d), s1) →
          s.serveRemote src own who seq part va kind n mod data known = s1.sendAnswer src seq 1 code (BitVec.ofNat 64 (d.toNat % 2 ^ 48)) [])
        ∧ (∀ ls s1, s.farPlace c va kind bytes mod = .ok (ls, s1) →
          let s2 := s1.see c.agent (s1.madeHere known)
          let r := s2.homeEffect c src who ls kind n mod data
          let memory : Prop := kind = 2 ∧ mod.getLsbD 17 = true ∧ ∃ l ∈ ls, l.mside = false
          (memory → s.serveRemote src own who seq part va kind n mod data known = s1.sendAnswer src seq 1 0x08 0 [])
          ∧ (¬ memory → s2.farWaits c ls kind mod = true → s.serveRemote src own who seq part va kind n mod data known = s1.sendAnswer src seq 2 0 0 [])
          ∧ (¬ memory → s2.farWaits c ls kind mod = false → s.serveRemote src own who seq part va kind n mod data known
            = (if kind ∈ [0, 4, 5, 8] then r.2 else r.2.remember src seq (if kind = 2 ∨ kind = 6 then r.1 else [])).sendAnswer src seq 0 0 0 r.1))))
    ∧ (∀ part, s.resetting part = true → ∀ (src own seq who va kind n : Nat) (mod : BitVec 18) data known,
      (kind ∈ [0, 4, 5, 8] ∨ s.fabric.replay.find? (fun r => r.src == src && r.seq == seq) = none) →
      s.serveRemote src own who seq part va kind n mod data known = s.sendAnswer src seq 2 0 0 [])
    ∧ (∀ (h : AnswerHead) x (f : BitVec 8) d data, h.dest.toNat = s.node →
      s.fabric.reqs.find? (fun x => x.node == h.src.toNat && x.seq == h.seq.toNat && x.answer.isNone) = some x →
      exec (.remoteAnswer h 0 f d data) s = .next (s.answered x 0 0 data (s.farKnown x h.rels h.known))
      ∧ exec (.remoteAnswer h 1 f d data) s = .next (s.answered x (max 1 f.toNat) (remoteDetail x f.toNat d) [] [])
      ∧ exec (.remoteAnswer h 2 f d data) s = .next (s.resend x true)
      ∧ exec (.remoteAnswer h 3 f d data) s = .next (s.answered x 0x0A (remoteLost x.off x.kind) [] []))
    ∧ (∀ (h : AnswerHead) kind (f : BitVec 8) d data,
      (h.dest.toNat ≠ s.node → exec (.remoteAnswer h kind f d data) s = .next (s.sendOut ⟨h.dest.toNat, h.src.toNat, h.seq.toNat, data.length,
        .answer 0 h.src.toNat h.dest.toNat h.seq.toNat kind f.toNat d data⟩))
      ∧ (h.dest.toNat = s.node → (∀ x ∈ s.fabric.reqs, x.node = h.src.toNat → x.seq = h.seq.toNat → x.answer ≠ none) →
        exec (.remoteAnswer h kind f d data) s = .next s))
    ∧ (∀ r x, s.findReq r = some x → x.answer = none →
      (x.again + 20000 ≤ s.svc.time.toNat → exec (.remoteResend r) s = .next (s.resend x false))
      ∧ (x.sent + 10 ^ 7 ≤ s.svc.time.toNat → exec (.remoteRequestTimeout r) s = .next (s.answered x 0x0A (remoteLost x.off x.kind) [] [])))
    ∧ (∀ (x : RemoteReq) (fresh : Bool), (s.stillDue x = false → s.resend x fresh = s.dropReq x.id)
      ∧ (s.stillDue x = true → s.hasRoute x.node = false → s.resend x fresh = s.answered x 0x0A (remoteLost x.off x.kind) [] [])
      ∧ (s.stillDue x = true → s.hasRoute x.node = true →
        (∀ s1, s.countFlits x.node s.node x.seq x.data.length = some s1 → ∃ s2 : State, s2 = { s1 with fabric := { s1.fabric with
            out := s1.fabric.out ++ [.request (s.sendPort x.node s.node x.seq) x.node x.agent x.seq x.part x.va x.kind x.len x.mod x.data] } }
          ∧ s.resend x fresh = s2.updReq x.id fun y => { y with sent := if fresh then s.svc.time.toNat else y.sent, again := s.svc.time.toNat })
        ∧ (s.countFlits x.node s.node x.seq x.data.length = none →
          s.resend x fresh = s.updReq x.id fun y => { y with sent := s.svc.time.toNat, again := s.svc.time.toNat })))
    ∧ (∀ d : HeldMsg, (∀ s1, s.sendMsg d.node d.src d.seq d.len d.msg.via = some s1 → s.sendOut d = s1)
      ∧ (s.sendMsg d.node d.src d.seq d.len d.msg.via = none → s.sendOut d = { s with fabric := { s.fabric with outDue := s.fabric.outDue ++ [d] } }))
    ∧ (∀ part (ptr : DWord) write order n data heard b s1, s.svc.booted = true → (s.pa part).present = true → s.resetting part = false →
      (s.hostHears part heard).hostAccess { agent := .host part, part := part, core := none, quad := 48, seq := none } ptr write order n data = .ok (b, s1) →
      exec (.companionRequest ⟨part, heard⟩ ptr write order n data) s = .next ((s1.dropAnswers (.host part)).emit (.host part 0 b)))
    ∧ (∀ part tag (x : PodMsg), x.dest ≠ s.node → exec (.podBarrierRelease part tag x) s
      = .next (s.sendOut ⟨x.dest, x.node, x.id, 0, .barrier 0 x.node x.dest part tag x.id (!x.report)⟩))
    ∧ (∀ part tag id node known,
      (tag ≠ 0 → node = s.podBase → s.node ≠ s.podBase →
        exec (.podBarrierRelease part tag ⟨id, node, s.node, false, known⟩) s = .next (s.podReleased part tag id (s.madeHere known)))
      ∧ ((s.podComplete (.pod part tag 0 id) known).podGone part tag = false →
        s.podReleased part tag id known = s.podComplete (.pod part tag 0 id) known)
      ∧ (tag ≠ 0 → s.node = s.podBase → s.inPod node = true → node ≠ s.node → (∀ r ∈ s.podReports part tag id, r.node ≠ node) →
        exec (.podBarrierRelease part tag ⟨id, node, s.node, true, known⟩) s = .next (({ s with fabric := { s.fabric with reports := s.fabric.reports
          ++ [{ part := part, tag := tag, id := id, node := node, known := s.madeHere known }] } } : State).podCollect (.pod part tag 0 id))))

/-- O58. Time synchronisation and pod join set the base's correction; refresh, errors, retirement and rebuild act on the channel's status; window,
domain-map and node-id writes store what may be written; Mirdar takes a request and then answers it; boot records each step's outcome
(0 passed, 1 failed, 2 skipped, 3 passed from its fallback image) and sets BOOTFAIL when a required step fails in both, an image passing only
when its signature holds and its version is not below the fused minimum; sampling,
throttling, shutdown, port training, re-encryption and key installation change what their rules say. The model's choices: Mirdar's two events (log 85), the run of a start
(log 56), corrected errors as an input of REFRESH (log 54), the clock's steps of 100 MHz (log 57), events that name nothing there (log 63), and rows that keep their bytes
over a change of DOMMAP (log 84). -/
def Obligations.ManagementEvents : Prop :=
  ∀ s : State,
    (∀ ref : DWord, exec (.timeSync ref) s = .next (if s.lowestNode then s else { s with svc := { s.svc with trim := (ref.toNat : Int) - s.svc.time.toNat } }))
    ∧ (∀ ref : DWord, (∀ p ∈ s.parts, p.present = false) → exec (.podJoin ref) s = .next
        (if s.svc.time.toNat ≤ ref.toNat then { s with svc := { s.svc with time := ref, hold := 0, trim := 0 } }
         else { s with svc := { s.svc with hold := s.svc.time - ref, trim := 0 } }))
    ∧ (∀ (ch : Nat) (due : Bool) (run corrected : Nat), let b : Int := s.refbal ch + (if due then 1 else 0) - (run : Int)
        (ch < 256 → -8 ≤ b → b ≤ 8 → exec (.refresh ch due ⟨run, corrected⟩) s
          = .next ((s.setCh ch 4 0 (wrapInt 5 b)).setCh ch 23 8 (min (s.chstat ch / 2 ^ 8 % 2 ^ 16 + corrected) 65535)))
        ∧ (256 ≤ ch ∨ b < -8 ∨ 8 < b → exec (.refresh ch due ⟨run, corrected⟩) s = .next s))
    ∧ (∀ ch row, ch < 256 → row < 11718750 → (s.chstat ch).testBit 5 = false →
        let n := min (s.chstat ch / 2 ^ 24 % 2 ^ 8 + 1) 255
        let s1 := s.setCh ch 31 24 n
        exec (.uncorrectableError ch row) s = .next (if s1.win 0x108 1 ≤ n then s1.startRetire ch else s1))
    ∧ (∀ ch, ch < 256 → exec (.retire ch) s = .next (s.startRetire ch))
    ∧ (∀ grp ch, s.svc.rebuilding.find? (fun c => c / 16 == grp) = some ch →
        exec (.channelRebuildDone grp) s = .next ((((((groupOf grp).foldl (fun (st : State) c => st.setCh c 6 6 0)
          { s with svc := { s.svc with rebuilding := s.svc.rebuilding.filter fun x => x / 16 != grp } }).setCh ch 5 5 1).setDev 1 true).setDev 0 true).failReds))
    ∧ (∀ off data, let s1 := s.winWrite (fun x => if 0x40 ≤ x ∧ x < 0xF0 ∧ x % 16 < 8 then 0xFF else 0) off data
        (s1.domapOk = false → exec (.dommapWrite off data) s = .next s)
        ∧ (s1.domapOk = true → (∀ d, d < 11 → s.dom d = s1.dom d) → exec (.dommapWrite off data) s = .next s1)
        ∧ (s1.domapOk = true → ¬ (∀ d, d < 11 → s.dom d = s1.dom d) →
          exec (.dommapWrite off data) s = .next (s1.rekey (rowMoves s s1) (Memory.moved s1.mem (rowMoves s s1))).failReds))
    ∧ (∀ v : DWord, (∀ p ∈ s.parts, p.present = false) → exec (.nodeidWrite v) s = .next (s.setWin 0x118 8 (v.toNat % 2 ^ 22)))
    ∧ (∀ off data, exec (.mgmtWindowWrite off data) s = .next (((List.range 16).filter (asksReset off data)).foldl State.resetPart
        ((s.winWrite windowMask off data).clearDrops off data)))
    ∧ (∀ off data part, asksReset off data part = true ↔
        off ≤ 0x1000 + 256 * part + 0x70 ∧ (nth (0 : BitVec 8) data (0x1000 + 256 * part + 0x70 - off)).getLsbD 0 = true)
    ∧ (s.svc.mail = none → s.mailPending = true →
        (s.win 0x4000 4 = 1 → exec .attestationReport s = .next s.mailTaken) ∧ (s.win 0x4000 4 = 2 → exec .identityPublicKey s = .next s.mailTaken)
        ∧ (s.win 0x4000 4 ≠ 1 → s.win 0x4000 4 ≠ 2 → exec .mirdarCmdRefused s = .next s.mailTaken))
    ∧ (s.svc.mail = none → s.mailPending = false → exec .attestationReport s = .next s ∧ exec .identityPublicKey s = .next s ∧ exec .mirdarCmdRefused s = .next s)
    ∧ (s.mailTaken.svc.mail = some (s.win 0x4000 4, Memory.getAll s.window 0x4010 32, s.win 0x4004 4))
    ∧ (∀ nonce seq, (s.svc.mail = some (1, nonce, seq) →
          exec .attestationReport s = .next (s.mailAnswer (s.report nonce ++ identitySig (s.report nonce)) seq 2))
        ∧ (s.svc.mail = some (2, nonce, seq) → exec .identityPublicKey s = .next (s.mailAnswer publicKey seq 2))
        ∧ (∀ cmd, s.svc.mail = some (cmd, nonce, seq) → cmd ≠ 1 → cmd ≠ 2 → exec .mirdarCmdRefused s = .next (s.mailAnswer [] seq 3)))
    ∧ (∀ primary fallback ok, let outs := bootRun s.svc.failedBefore (stepsPass primary (ok.map (·.1))) (stepsPass fallback (ok.map (·.2))) (List.range 7)
        let fail : Bool := (List.range 5).any fun i => nth 0 outs i == 1
        let entries := (List.range 7).map fun i =>
          ({ count := s.svc.bootCount + 1, step := i, outcome := nth 0 outs i, version := bootVersion primary fallback i (nth 0 outs i) } : BootEntry)
        outs.length = 7
        ∧ ∃ svc : Services,
          let s1 := ({ (if s.svc.booted then State.reset else s) with svc := svc } : State).setDev 4 fail
          exec (.boot primary fallback ok) s
            = .next (((List.range 16).filter fun p => (s1.win (0x1000 + 256 * p + 0x70) 8).testBit 0).foldl State.resetPart s1)
          ∧ svc.bootCount = s.svc.bootCount + 1 ∧ svc.booted = !fail
          ∧ svc.history = (s.svc.history ++ entries).drop ((s.svc.history ++ entries).length - 64))
    ∧ (∀ (before : Nat → Bool) (primary fallback : List Bool), let outs := bootRun before primary fallback (List.range 7)
        ∀ i, i < 7 →
          let p : Bool := nth false primary i
          let f : Bool := nth false fallback i
          let halted : Prop := ∃ j, j < i ∧ j ≤ 4 ∧ nth 0 outs j = 1
          (halted → nth 0 outs i = 2)
          ∧ (¬ halted → i = 0 → nth 0 outs i = if p then 0 else 1)
          ∧ (¬ halted → 1 ≤ i → i ≤ 4 → nth 0 outs i = if p && !before i then 0 else if f then 3 else 1)
          ∧ (¬ halted → 5 ≤ i → nth 0 outs i = if before i then 2 else if p then 0 else 1))
    ∧ (∀ i, s.svc.failedBefore i = true ↔ ∃ e ∈ s.svc.history, e.count = s.svc.bootCount ∧ e.step = i ∧ e.outcome = 1)
    ∧ (∀ (images : List Image) (ok : List Bool) (i : Nat), 0 < i → i < 7 →
        ((stepsPass images ok)[i]? = some true ↔ nth false ok i = true ∧ ∃ x, images.find? (fun x => x.step == i) = some x
          ∧ Config.imageSigned (shake256 x.rest) x.signature = true ∧ Config.minSecurity ≤ x.security))
    ∧ (∀ bw pw, exec (.estimatorSample bw pw) s = .next { s with svc := { s.svc with bw := bw, pw := pw } })
    ∧ (∀ temp power, 105 ≤ temp ∨ s.pcap < power →
        exec (.thermalThrottle temp power) s = .next (({ s with svc := { s.svc with clock := max 9 (s.svc.clock - 1) } } : State).setDev 3
          (decide (max 9 (s.svc.clock - 1) < 18))))
    ∧ (∀ temp power, temp < 105 → power ≤ s.pcap →
        exec (.throttleEnd temp power) s = .next (({ s with svc := { s.svc with clock := min 18 (s.svc.clock + 1) } } : State).setDev 3
          (decide (min 18 (s.svc.clock + 1) < 18))))
    ∧ (∀ temp, 115 ≤ temp → exec (.thermalShutdown temp) s = .next (((List.range 16).foldl State.resetPart s).setDev 0 true))
    ∧ (∀ port up, port < 16 → exec (.fabricPortTraining port up) s = .next (s.setDev (9 + port) up))
    ∧ (∀ port, exec (.portKeyInstall port) s = .next { s with fabric := { s.fabric with portFlits := s.fabric.portFlits.filter fun x => x.1 != port } })
    ∧ (∀ b, exec (.blockReencryptionDone b) s = .next
        { s with svc := { s.svc with enc := s.svc.enc.map fun x => if x.block == b then { x with busy := false } else x } })

/-- O59. A well-formed instruction with an opcode up to 0x30 (the integer, logic, move, conversion and floating-point families) changes no general
register but those its d field names, no predicate and no k register but its d, no flag below opcode 0x20 and clears none above, no other special
register, no other thread or cohort, and no byte of memory: only its thread's PC goes on. -/
def Obligations.RegisterFrame : Prop :=
  ∀ (i : Instr) (op : Nat) (o : Canon) (s s' : State) (t : Nat), canonOf i = some (op, o) → i.wellFormed = true → op ≤ 0x30 → s.Ready t op o →
    exec i s = .next s' →
    let th := s.th t
    let th' := s'.th t
    let c := s.co th.coh
    let c' := s'.co th.coh
    (∀ n, n ∉ clsRegs (canonCls op o).1 o.d.toNat → th'.gv n = th.gv n ∧ th'.isPend n = th.isPend n)
    ∧ (∀ n, n < 8 → o.d.toNat ≠ 0x60 + n → th'.pv n = th.pv n)
    ∧ (op < 0x20 → th'.fstat = th.fstat) ∧ (th.fstat &&& th'.fstat = th.fstat)
    ∧ th'.rmode = th.rmode ∧ th'.fcode = th.fcode ∧ th'.fpc = th.fpc ∧ th'.fdetail = th.fdetail ∧ th'.region = th.region ∧ th'.seen = th.seen
    ∧ th'.tid = th.tid ∧ th'.coh = th.coh ∧ th'.arrivals = th.arrivals ∧ th'.run = .ready ∧ th'.pc = fallPc th.pc o.len.toNat
    ∧ (∀ n, o.d.toNat ≠ 0x40 + n → c'.kc n = c.kc n) ∧ { c' with k := c.k, unext := c.unext } = c
    ∧ (∀ u, u ≠ t → s'.th u = s.th u) ∧ (∀ d, d ≠ th.coh → s'.co d = s.co d)
    ∧ { s' with threads := s.threads, cohorts := s.cohorts, fabric := s.fabric } = s

/-- O60. With no RED of a thread pending and the byte store in its canonical form: a load, LDACQ, LDS or RED that the port or the scratchpad admits changes no
byte; a store, STREL or atomic none but those that the port places at its computed address (and encrypted blocks with them, which the partition's own encrypted
view sees unchanged), STS none but those at its offset; VST, VZERO, MCOPY and MTRANS none but those of the elements and scales that their views and counts name.
None changes a register but those that its d field names, a predicate, another thread or cohort, or clears a flag. -/
def Obligations.MemoryFrame : Prop :=
  (∀ (i : Instr) (op : Nat) (o : Canon) (s s' : State) (t : Nat), canonOf i = some (op, o) → i.wellFormed = true → s.Ready t op o → s.prov.reds = [] →
    Memory.wf s.mem = true → exec i s = .next s' →
    let n := 2 ^ wOf o
    let dest := clsRegs (canonCls op o).1 o.d.toNat
    let quiet (d : List Nat) : Prop := Frame s s' t (fun _ => False) d ∧ (s'.th t).fstat = (s.th t).fstat ∧ s'.cohorts = s.cohorts
    let stores (ls : List Loc) (d : List Nat) : Prop := Frame s s' t (Touches ls) d ∧ (s'.th t).fstat = (s.th t).fstat ∧ s'.cohorts = s.cohorts
    let fits (k : Nat) : Prop := s.scrOff o % k = 0 ∧ s.cco.scrFail (s.scrOff o) k = none
    let an := if 2 ≤ o.mod.toNat / 16 % 4 then 8 else 4
    let ap := ea (s.a64 o) o.imm.toInt
    (∀ r, op = 0x60 ∨ op = 0x61 → ptrOff (s.memAddr o (op == 0x61)) % n = 0 → s.readMem s.tctx (s.memAddr o (op == 0x61)) n (min n 8) = .ok r → quiet dest)
    ∧ (∀ r, op = 0x64 → ptrOff (s.memAddr o true) % n = 0 → s.acquireRead s.tctx (s.memAddr o true) n (o.mod.toNat / 2 ^ 9 % 8) = .ok r → quiet dest)
    ∧ (op = 0x66 → fits n → quiet dest)
    ∧ (∀ c, op = 0x67 → s.scrOff o % n = 0 → s.peer (o.mod.toNat / 2 ^ 12 % 4) (s.scrOff o) = .ok c → s.scrOff o + n ≤ c.scrgr * 4096 → quiet dest)
    ∧ (∀ ps stop s1, op = 0x62 ∨ op = 0x63 → ptrOff (s.memAddr o (op == 0x63)) % n = 0 →
        s.portPlan s.tctx .write (s.memAddr o (op == 0x63)) n = .ok (ps, stop, s1) →
        s1.writeStop s.tctx (s.memAddr o (op == 0x63)) ps stop = .ok () → s1.sendParts s.tctx (s.storeData o.d (wOf o)) ps = .ok () →
        stores (partLocs ps) [])
    ∧ (∀ ls s1, op = 0x65 → ptrOff (s.memAddr o true) % n = 0 → s.port s.tctx .write (s.memAddr o true) n = .ok (.here ls, s1) →
        s1.guardLocs s.tctx .write (s.memAddr o true) ls = .ok () → stores ls [])
    ∧ (∀ ls s1, op = 0x69 ∨ op = 0x6A ∨ op = 0x6B → ptrOff ap % an = 0 → s.port s.tctx .atomic ap an = .ok (.here ls, s1) →
        (op = 0x6B → ∀ l ∈ ls, l.mside = true) → s1.guardLocs s.tctx .atomic ap ls = .ok () → stores ls dest)
    ∧ (∀ ls s1, op = 0x6C → ptrOff ap % an = 0 → s.port s.tctx .atomic ap an = .ok (.here ls, s1) → quiet [])
    ∧ (op = 0x68 → fits n → Frame s s' t (fun k => ∃ j, j < n ∧ k = scrKey s.cco.uid (s.scrOff o + j)) []
        ∧ (s'.th t).fstat = (s.th t).fstat ∧ s'.cohorts = s.cohorts)
    ∧ (∀ v, op = 0x83 → s.viewOf 3 o.b = .ok v → s.vCheck o v = none →
        Frame s s' t (fun k => ∃ j, j < ceilDiv (2 ^ (o.mod.toNat / 2 % 4) * v.bits) 8 ∧ k = tileKey s.cco.uid (v.elemOff (s.vRow o) (s.a32 o).toNat + j))
          (if v.fmt = fCF32 then [o.d.toNat + 1] else [])
        ∧ (o.mod.getLsbD 3 = false → (s'.th t).fstat = (s.th t).fstat) ∧ s'.cohorts = s.cohorts)
    ∧ (∀ v, op = 0x84 → s.viewOf 1 o.d = .ok v → v.isPlain = true →
        Frame s s' t (fun k => ∃ r j, r < v.rows ∧ j < v.rowBytes ∧ k = tileKey s.cco.uid (v.base + r * v.pitch + j)) []
        ∧ (s'.th t).fstat = (s.th t).fstat ∧ s'.cohorts = s.cohorts)
    ∧ (∀ p, op = 0x95 → s.copyPlan o = .ok p → p.part ≠ 3 → p.spaceFail = none →
        let area := ((if o.mod.toNat % 4 = 1 then s.d32 o else s.a32 o) + o.imm).toNat
        (p.scr = true → area % 4 = 0 ∧ s.cco.scrFail area (p.count * p.areaRow) = none) →
        Frame s s' t (fun k =>
          if p.toMat = true then
            if p.mv.kind = 6 then ∃ j, j < (p.mv.rows + p.mv.cols) * p.cols * p.mv.size ∧ k = tileKey s.cco.uid (p.mv.base + j)
            else ∃ r j, r < p.count ∧ j < p.mv.rowBytes ∧ (k = tileKey s.cco.uid (p.mv.base + (p.first + r) * p.mv.pitch + j)
              ∨ p.mv.kind = 4 ∧ k = tileKey s.cco.uid (p.mv.base + (p.mv.rows + (p.first + r)) * p.mv.pitch + j))
          else if p.scr = true then ∃ j, j < p.count * p.areaRow ∧ k = scrKey s.cco.uid (area + j)
          else ∃ r j, r < p.count ∧ j < ceilDiv (p.cols * p.pv.bits) 8 ∧ k = tileKey s.cco.uid (p.pv.base + (p.first + r) * p.pv.pitch + j)) []
        ∧ (p.toMat = false ∨ p.mv.kind ≠ 6 ∨ p.part ≠ 1 → s'.cohorts = s.cohorts))
    ∧ (∀ d v, op = 0x96 → s.viewOf 1 o.d = .ok d → s.viewOf 2 o.a = .ok v → (d.kind = 2 ∨ d.kind = 5) → (v.kind = 2 ∨ v.kind = 5) → d.layout ≠ 1 → d.fmt = v.fmt →
        d.signed = v.signed → d.scl = v.scl → d.rows = v.cols → d.cols = v.rows →
        Frame s s' t (fun k => (∃ r j, r < d.rows ∧ j < d.rowBytes ∧ k = tileKey s.cco.uid (d.base + r * d.pitch + j))
          ∨ (∃ j, d.layout ≠ 0 ∧ j < ceilDiv d.rows d.bl * ceilDiv d.cols d.bl * d.scaleSize ∧ k = tileKey s.cco.uid (d.soff + j))) []
        ∧ (s'.th t).fstat = (s.th t).fstat ∧ s'.cohorts = s.cohorts))
  ∧ (∀ (s : State) (r : PendingRed), Memory.wf s.mem = true → ∀ k, ¬ Touches r.locs k → Memory.get (s.doRed r).mem k = Memory.get s.mem k)
  ∧ (∀ (s : State) (part : Nat) (ls : List Loc) (l : Loc), Memory.wf s.mem = true → l.enc = true →
      (s.encWrite part ls).unmask part [l] [Memory.get (s.encWrite part ls).mem l.key] = s.unmask part [l] [Memory.get s.mem l.key])

end
end

