-- ==== Sys2Proof/Laws/Exec.lean ====
section
/-! SUPPORT. Every instruction is one run of a body under the shared frame; what that frame does. -/

namespace Sys2Proof.Laws

open Sys2Proof.Machine

/-- Every instruction but BRA is a run of one body over the word it executes as. -/
theorem exec_is_run (i : Instr) (op : Nat) (o : Canon) (h : canonOf i = some (op, o)) (hb : op ≠ 0x40) :
    ∃ body, ∀ s, exec i s = run op o s body := by
  cases i <;> simp only [canonOf, longOf, shortOf, Option.or, Option.some.injEq, Prod.mk.injEq, reduceCtorEq] at h
  all_goals (obtain ⟨rfl, rfl⟩ := h)
  all_goals first | exact absurd rfl hb | exact ⟨_, fun s => rfl⟩

/-- Sources without a pending future are settled already. -/
theorem settle_of_not_pend (s : State) (t r : Nat) (h : (s.th t).isPend r = false) : s.settle t r = s := by
  simp [State.settle, h]

/-- Settling a list of registers without pending futures changes nothing. -/
theorem settle_all (s : State) (t : Nat) (rs : List Nat) (h : (rs.all fun r => !(s.th t).isPend r) = true) :
    rs.foldl (fun st r => st.settle t r) s = s := by
  induction rs with
  | nil => rfl
  | cons r rs ih =>
    simp only [List.all_cons, Bool.and_eq_true, Bool.not_eq_true'] at h
    rw [List.foldl_cons, settle_of_not_pend s t r h.1, ih h.2]

/-- No register without a pending future is unsettled. -/
theorem unsettled_none (s : State) (t : Nat) (rs : List Nat) (h : (rs.all fun r => !(s.th t).isPend r) = true) :
    rs.findSome? (s.unsettled t) = none := by
  simp only [List.all_eq_true, Bool.not_eq_true'] at h
  simp only [List.findSome?_eq_none_iff]
  intro r hr
  simp [State.unsettled, h r hr]

/-- An instruction that need not come after the thread's REDs has its effect where it stands. -/
theorem redsDone_of_not {op : Nat} {o : Canon} (h : ordersReds op o = false) (s : State) (t : Nat) : s.redsDone t op o = s := by simp [State.redsDone, h]

/-- Without pending REDs every instruction has its effect where it stands. -/
theorem redsDone_of_no_reds {s : State} (h : s.prov.reds = []) (t op : Nat) (o : Canon) : s.redsDone t op o = s := by
  simp [State.redsDone, State.forceReds, State.redsBefore, h]

/-- A ready instruction does what its body says. -/
theorem perform_ready {s : State} {t op : Nat} {o : Canon} (h : s.Ready t op o) (body : Body) :
    s.perform t op o body = match body (s.redsDone t op o) with | .error tr => (s.redsDone t op o).trap t tr | .ok (fl, s2) => s2.after t o fl := by
  obtain ⟨_, _, hb, hr, hp⟩ := h
  simp only [State.perform, hb, hr, unsettled_none _ t _ hp, settle_all _ t _ hp]
  rfl

/-- A ready instruction completes when its body does. -/
theorem run_ready {s : State} {t op : Nat} {o : Canon} (h : s.Ready t op o) {body : Body} {fl : Flow} {s2 : State} (hb : body (s.redsDone t op o) = .ok (fl, s2)) :
    run op o s body = .next (s2.after t o fl) := by
  have hc : s.cur = some t := h.1.1
  simp only [run, hc, h.2.1, if_true, perform_ready h, hb]

/-- A ready instruction whose body traps takes the trap. -/
theorem run_trap {s : State} {t op : Nat} {o : Canon} (h : s.Ready t op o) {body : Body} {tr : Trap} (hb : body (s.redsDone t op o) = .error tr) :
    run op o s body = .next ((s.redsDone t op o).trap t tr) := by
  have hc : s.cur = some t := h.1.1
  simp only [run, hc, h.2.1, if_true, perform_ready h, hb]

/-- A body that only changes the state completes at the fall-through. -/
theorem computes_plain (op : Nat) (o : Canon) (f : State → State) {s : State} {t : Nat} (h : s.Ready t op o) :
    run op o s (plain f) = .next ((f (s.redsDone t op o)).after t o .fall) := run_ready h rfl

/-- A false guard only passes on. -/
theorem run_false {s : State} {t : Nat} (op : Nat) (o : Canon) (body : Body) (hc : s.cur = some t) (hg : (s.th t).guard o.guard = false) :
    run op o s body = .next (s.goOn t o.len.toNat .fall) := by
  simp [run, hc, hg]

/-- An instruction of a thread that executes always answers a next state. -/
theorem run_next {s : State} {t : Nat} (op : Nat) (o : Canon) (body : Body) (hc : s.cur = some t) : ∃ s', run op o s body = .next s' := by
  simp only [run, hc]; exact ⟨_, rfl⟩

end Sys2Proof.Laws
end

