-- ==== Sys2Proof/Laws/State.lean ====
section
/-! SUPPORT. What each update of the state, of a thread and of a cohort leaves in every field, and how the accessors see it. -/

namespace Sys2Proof.Laws

open Sys2Proof.Machine

@[simp] theorem setTh_mem (s : State) (t : Nat) (x : Thread) : (s.setTh t x).mem = s.mem := rfl
@[simp] theorem setTh_window (s : State) (t : Nat) (x : Thread) : (s.setTh t x).window = s.window := rfl
@[simp] theorem setTh_poison (s : State) (t : Nat) (x : Thread) : (s.setTh t x).poison = s.poison := rfl
@[simp] theorem setTh_prov (s : State) (t : Nat) (x : Thread) : (s.setTh t x).prov = s.prov := rfl
@[simp] theorem setTh_cohorts (s : State) (t : Nat) (x : Thread) : (s.setTh t x).cohorts = s.cohorts := rfl
@[simp] theorem setTh_cur (s : State) (t : Nat) (x : Thread) : (s.setTh t x).cur = s.cur := rfl
@[simp] theorem setTh_guess (s : State) (t : Nat) (x : Thread) : (s.setTh t x).guess = s.guess := rfl
@[simp] theorem setTh_group (s : State) (t : Nat) (x : Thread) : (s.setTh t x).group = s.group := rfl
@[simp] theorem setTh_registrar (s : State) (t : Nat) (x : Thread) : (s.setTh t x).registrar = s.registrar := rfl
@[simp] theorem setTh_readyq (s : State) (t : Nat) (x : Thread) : (s.setTh t x).readyq = s.readyq := rfl
@[simp] theorem setTh_bars (s : State) (t : Nat) (x : Thread) : (s.setTh t x).bars = s.bars := rfl
@[simp] theorem setTh_icache (s : State) (t : Nat) (x : Thread) : (s.setTh t x).icache = s.icache := rfl
@[simp] theorem setTh_tlb1 (s : State) (t : Nat) (x : Thread) : (s.setTh t x).tlb1 = s.tlb1 := rfl
@[simp] theorem setTh_tlb2 (s : State) (t : Nat) (x : Thread) : (s.setTh t x).tlb2 = s.tlb2 := rfl
@[simp] theorem setTh_bigPages (s : State) (t : Nat) (x : Thread) : (s.setTh t x).bigPages = s.bigPages := rfl
@[simp] theorem setTh_bufc (s : State) (t : Nat) (x : Thread) : (s.setTh t x).bufc = s.bufc := rfl
@[simp] theorem setTh_catc (s : State) (t : Nat) (x : Thread) : (s.setTh t x).catc = s.catc := rfl
@[simp] theorem setTh_pins (s : State) (t : Nat) (x : Thread) : (s.setTh t x).pins = s.pins := rfl
@[simp] theorem setTh_migrations (s : State) (t : Nat) (x : Thread) : (s.setTh t x).migrations = s.migrations := rfl
@[simp] theorem setTh_failedMoves (s : State) (t : Nat) (x : Thread) : (s.setTh t x).failedMoves = s.failedMoves := rfl
@[simp] theorem setTh_held (s : State) (t : Nat) (x : Thread) : (s.setTh t x).held = s.held := rfl
@[simp] theorem setTh_rings (s : State) (t : Nat) (x : Thread) : (s.setTh t x).rings = s.rings := rfl
@[simp] theorem setTh_tables (s : State) (t : Nat) (x : Thread) : (s.setTh t x).tables = s.tables := rfl
@[simp] theorem setTh_reasm (s : State) (t : Nat) (x : Thread) : (s.setTh t x).reasm = s.reasm := rfl
@[simp] theorem setTh_ops (s : State) (t : Nat) (x : Thread) : (s.setTh t x).ops = s.ops := rfl
@[simp] theorem setTh_matops (s : State) (t : Nat) (x : Thread) : (s.setTh t x).matops = s.matops := rfl
@[simp] theorem setTh_serials (s : State) (t : Nat) (x : Thread) : (s.setTh t x).serials = s.serials := rfl
@[simp] theorem setTh_parts (s : State) (t : Nat) (x : Thread) : (s.setTh t x).parts = s.parts := rfl
@[simp] theorem setTh_launches (s : State) (t : Nat) (x : Thread) : (s.setTh t x).launches = s.launches := rfl
@[simp] theorem setTh_waiters (s : State) (t : Nat) (x : Thread) : (s.setTh t x).waiters = s.waiters := rfl
@[simp] theorem setTh_hubq (s : State) (t : Nat) (x : Thread) : (s.setTh t x).hubq = s.hubq := rfl
@[simp] theorem setTh_fabric (s : State) (t : Nat) (x : Thread) : (s.setTh t x).fabric = s.fabric := rfl
@[simp] theorem setTh_svc (s : State) (t : Nat) (x : Thread) : (s.setTh t x).svc = s.svc := rfl
@[simp] theorem setTh_due (s : State) (t : Nat) (x : Thread) : (s.setTh t x).due = s.due := rfl
@[simp] theorem setTh_count (s : State) (t : Nat) (x : Thread) : (s.setTh t x).count = s.count := rfl
@[simp] theorem setTh_agenda (s : State) (t : Nat) (x : Thread) : (s.setTh t x).agenda = s.agenda := rfl
@[simp] theorem setCo_mem (s : State) (c : Nat) (x : Cohort) : (s.setCo c x).mem = s.mem := rfl
@[simp] theorem setCo_window (s : State) (c : Nat) (x : Cohort) : (s.setCo c x).window = s.window := rfl
@[simp] theorem setCo_poison (s : State) (c : Nat) (x : Cohort) : (s.setCo c x).poison = s.poison := rfl
@[simp] theorem setCo_prov (s : State) (c : Nat) (x : Cohort) : (s.setCo c x).prov = s.prov := rfl
@[simp] theorem setCo_threads (s : State) (c : Nat) (x : Cohort) : (s.setCo c x).threads = s.threads := rfl
@[simp] theorem setCo_cur (s : State) (c : Nat) (x : Cohort) : (s.setCo c x).cur = s.cur := rfl
@[simp] theorem setCo_guess (s : State) (c : Nat) (x : Cohort) : (s.setCo c x).guess = s.guess := rfl
@[simp] theorem setCo_group (s : State) (c : Nat) (x : Cohort) : (s.setCo c x).group = s.group := rfl
@[simp] theorem setCo_registrar (s : State) (c : Nat) (x : Cohort) : (s.setCo c x).registrar = s.registrar := rfl
@[simp] theorem setCo_readyq (s : State) (c : Nat) (x : Cohort) : (s.setCo c x).readyq = s.readyq := rfl
@[simp] theorem setCo_bars (s : State) (c : Nat) (x : Cohort) : (s.setCo c x).bars = s.bars := rfl
@[simp] theorem setCo_icache (s : State) (c : Nat) (x : Cohort) : (s.setCo c x).icache = s.icache := rfl
@[simp] theorem setCo_tlb1 (s : State) (c : Nat) (x : Cohort) : (s.setCo c x).tlb1 = s.tlb1 := rfl
@[simp] theorem setCo_tlb2 (s : State) (c : Nat) (x : Cohort) : (s.setCo c x).tlb2 = s.tlb2 := rfl
@[simp] theorem setCo_bigPages (s : State) (c : Nat) (x : Cohort) : (s.setCo c x).bigPages = s.bigPages := rfl
@[simp] theorem setCo_bufc (s : State) (c : Nat) (x : Cohort) : (s.setCo c x).bufc = s.bufc := rfl
@[simp] theorem setCo_catc (s : State) (c : Nat) (x : Cohort) : (s.setCo c x).catc = s.catc := rfl
@[simp] theorem setCo_pins (s : State) (c : Nat) (x : Cohort) : (s.setCo c x).pins = s.pins := rfl
@[simp] theorem setCo_migrations (s : State) (c : Nat) (x : Cohort) : (s.setCo c x).migrations = s.migrations := rfl
@[simp] theorem setCo_failedMoves (s : State) (c : Nat) (x : Cohort) : (s.setCo c x).failedMoves = s.failedMoves := rfl
@[simp] theorem setCo_held (s : State) (c : Nat) (x : Cohort) : (s.setCo c x).held = s.held := rfl
@[simp] theorem setCo_rings (s : State) (c : Nat) (x : Cohort) : (s.setCo c x).rings = s.rings := rfl
@[simp] theorem setCo_tables (s : State) (c : Nat) (x : Cohort) : (s.setCo c x).tables = s.tables := rfl
@[simp] theorem setCo_reasm (s : State) (c : Nat) (x : Cohort) : (s.setCo c x).reasm = s.reasm := rfl
@[simp] theorem setCo_ops (s : State) (c : Nat) (x : Cohort) : (s.setCo c x).ops = s.ops := rfl
@[simp] theorem setCo_matops (s : State) (c : Nat) (x : Cohort) : (s.setCo c x).matops = s.matops := rfl
@[simp] theorem setCo_serials (s : State) (c : Nat) (x : Cohort) : (s.setCo c x).serials = s.serials := rfl
@[simp] theorem setCo_parts (s : State) (c : Nat) (x : Cohort) : (s.setCo c x).parts = s.parts := rfl
@[simp] theorem setCo_launches (s : State) (c : Nat) (x : Cohort) : (s.setCo c x).launches = s.launches := rfl
@[simp] theorem setCo_waiters (s : State) (c : Nat) (x : Cohort) : (s.setCo c x).waiters = s.waiters := rfl
@[simp] theorem setCo_hubq (s : State) (c : Nat) (x : Cohort) : (s.setCo c x).hubq = s.hubq := rfl
@[simp] theorem setCo_fabric (s : State) (c : Nat) (x : Cohort) : (s.setCo c x).fabric = s.fabric := rfl
@[simp] theorem setCo_svc (s : State) (c : Nat) (x : Cohort) : (s.setCo c x).svc = s.svc := rfl
@[simp] theorem setCo_due (s : State) (c : Nat) (x : Cohort) : (s.setCo c x).due = s.due := rfl
@[simp] theorem setCo_count (s : State) (c : Nat) (x : Cohort) : (s.setCo c x).count = s.count := rfl
@[simp] theorem setCo_agenda (s : State) (c : Nat) (x : Cohort) : (s.setCo c x).agenda = s.agenda := rfl
@[simp] theorem setCth_mem (s : State) (x : Thread) : (s.setCth x).mem = s.mem := rfl
@[simp] theorem setCth_window (s : State) (x : Thread) : (s.setCth x).window = s.window := rfl
@[simp] theorem setCth_poison (s : State) (x : Thread) : (s.setCth x).poison = s.poison := rfl
@[simp] theorem setCth_prov (s : State) (x : Thread) : (s.setCth x).prov = s.prov := rfl
@[simp] theorem setCth_cohorts (s : State) (x : Thread) : (s.setCth x).cohorts = s.cohorts := rfl
@[simp] theorem setCth_cur (s : State) (x : Thread) : (s.setCth x).cur = s.cur := rfl
@[simp] theorem setCth_guess (s : State) (x : Thread) : (s.setCth x).guess = s.guess := rfl
@[simp] theorem setCth_group (s : State) (x : Thread) : (s.setCth x).group = s.group := rfl
@[simp] theorem setCth_registrar (s : State) (x : Thread) : (s.setCth x).registrar = s.registrar := rfl
@[simp] theorem setCth_readyq (s : State) (x : Thread) : (s.setCth x).readyq = s.readyq := rfl
@[simp] theorem setCth_bars (s : State) (x : Thread) : (s.setCth x).bars = s.bars := rfl
@[simp] theorem setCth_icache (s : State) (x : Thread) : (s.setCth x).icache = s.icache := rfl
@[simp] theorem setCth_tlb1 (s : State) (x : Thread) : (s.setCth x).tlb1 = s.tlb1 := rfl
@[simp] theorem setCth_tlb2 (s : State) (x : Thread) : (s.setCth x).tlb2 = s.tlb2 := rfl
@[simp] theorem setCth_bigPages (s : State) (x : Thread) : (s.setCth x).bigPages = s.bigPages := rfl
@[simp] theorem setCth_bufc (s : State) (x : Thread) : (s.setCth x).bufc = s.bufc := rfl
@[simp] theorem setCth_catc (s : State) (x : Thread) : (s.setCth x).catc = s.catc := rfl
@[simp] theorem setCth_pins (s : State) (x : Thread) : (s.setCth x).pins = s.pins := rfl
@[simp] theorem setCth_migrations (s : State) (x : Thread) : (s.setCth x).migrations = s.migrations := rfl
@[simp] theorem setCth_failedMoves (s : State) (x : Thread) : (s.setCth x).failedMoves = s.failedMoves := rfl
@[simp] theorem setCth_held (s : State) (x : Thread) : (s.setCth x).held = s.held := rfl
@[simp] theorem setCth_rings (s : State) (x : Thread) : (s.setCth x).rings = s.rings := rfl
@[simp] theorem setCth_tables (s : State) (x : Thread) : (s.setCth x).tables = s.tables := rfl
@[simp] theorem setCth_reasm (s : State) (x : Thread) : (s.setCth x).reasm = s.reasm := rfl
@[simp] theorem setCth_ops (s : State) (x : Thread) : (s.setCth x).ops = s.ops := rfl
@[simp] theorem setCth_matops (s : State) (x : Thread) : (s.setCth x).matops = s.matops := rfl
@[simp] theorem setCth_serials (s : State) (x : Thread) : (s.setCth x).serials = s.serials := rfl
@[simp] theorem setCth_parts (s : State) (x : Thread) : (s.setCth x).parts = s.parts := rfl
@[simp] theorem setCth_launches (s : State) (x : Thread) : (s.setCth x).launches = s.launches := rfl
@[simp] theorem setCth_waiters (s : State) (x : Thread) : (s.setCth x).waiters = s.waiters := rfl
@[simp] theorem setCth_hubq (s : State) (x : Thread) : (s.setCth x).hubq = s.hubq := rfl
@[simp] theorem setCth_fabric (s : State) (x : Thread) : (s.setCth x).fabric = s.fabric := rfl
@[simp] theorem setCth_svc (s : State) (x : Thread) : (s.setCth x).svc = s.svc := rfl
@[simp] theorem setCth_due (s : State) (x : Thread) : (s.setCth x).due = s.due := rfl
@[simp] theorem setCth_count (s : State) (x : Thread) : (s.setCth x).count = s.count := rfl
@[simp] theorem setCth_agenda (s : State) (x : Thread) : (s.setCth x).agenda = s.agenda := rfl
@[simp] theorem setCco_mem (s : State) (x : Cohort) : (s.setCco x).mem = s.mem := rfl
@[simp] theorem setCco_window (s : State) (x : Cohort) : (s.setCco x).window = s.window := rfl
@[simp] theorem setCco_poison (s : State) (x : Cohort) : (s.setCco x).poison = s.poison := rfl
@[simp] theorem setCco_prov (s : State) (x : Cohort) : (s.setCco x).prov = s.prov := rfl
@[simp] theorem setCco_threads (s : State) (x : Cohort) : (s.setCco x).threads = s.threads := rfl
@[simp] theorem setCco_cur (s : State) (x : Cohort) : (s.setCco x).cur = s.cur := rfl
@[simp] theorem setCco_guess (s : State) (x : Cohort) : (s.setCco x).guess = s.guess := rfl
@[simp] theorem setCco_group (s : State) (x : Cohort) : (s.setCco x).group = s.group := rfl
@[simp] theorem setCco_registrar (s : State) (x : Cohort) : (s.setCco x).registrar = s.registrar := rfl
@[simp] theorem setCco_readyq (s : State) (x : Cohort) : (s.setCco x).readyq = s.readyq := rfl
@[simp] theorem setCco_bars (s : State) (x : Cohort) : (s.setCco x).bars = s.bars := rfl
@[simp] theorem setCco_icache (s : State) (x : Cohort) : (s.setCco x).icache = s.icache := rfl
@[simp] theorem setCco_tlb1 (s : State) (x : Cohort) : (s.setCco x).tlb1 = s.tlb1 := rfl
@[simp] theorem setCco_tlb2 (s : State) (x : Cohort) : (s.setCco x).tlb2 = s.tlb2 := rfl
@[simp] theorem setCco_bigPages (s : State) (x : Cohort) : (s.setCco x).bigPages = s.bigPages := rfl
@[simp] theorem setCco_bufc (s : State) (x : Cohort) : (s.setCco x).bufc = s.bufc := rfl
@[simp] theorem setCco_catc (s : State) (x : Cohort) : (s.setCco x).catc = s.catc := rfl
@[simp] theorem setCco_pins (s : State) (x : Cohort) : (s.setCco x).pins = s.pins := rfl
@[simp] theorem setCco_migrations (s : State) (x : Cohort) : (s.setCco x).migrations = s.migrations := rfl
@[simp] theorem setCco_failedMoves (s : State) (x : Cohort) : (s.setCco x).failedMoves = s.failedMoves := rfl
@[simp] theorem setCco_held (s : State) (x : Cohort) : (s.setCco x).held = s.held := rfl
@[simp] theorem setCco_rings (s : State) (x : Cohort) : (s.setCco x).rings = s.rings := rfl
@[simp] theorem setCco_tables (s : State) (x : Cohort) : (s.setCco x).tables = s.tables := rfl
@[simp] theorem setCco_reasm (s : State) (x : Cohort) : (s.setCco x).reasm = s.reasm := rfl
@[simp] theorem setCco_ops (s : State) (x : Cohort) : (s.setCco x).ops = s.ops := rfl
@[simp] theorem setCco_matops (s : State) (x : Cohort) : (s.setCco x).matops = s.matops := rfl
@[simp] theorem setCco_serials (s : State) (x : Cohort) : (s.setCco x).serials = s.serials := rfl
@[simp] theorem setCco_parts (s : State) (x : Cohort) : (s.setCco x).parts = s.parts := rfl
@[simp] theorem setCco_launches (s : State) (x : Cohort) : (s.setCco x).launches = s.launches := rfl
@[simp] theorem setCco_waiters (s : State) (x : Cohort) : (s.setCco x).waiters = s.waiters := rfl
@[simp] theorem setCco_hubq (s : State) (x : Cohort) : (s.setCco x).hubq = s.hubq := rfl
@[simp] theorem setCco_fabric (s : State) (x : Cohort) : (s.setCco x).fabric = s.fabric := rfl
@[simp] theorem setCco_svc (s : State) (x : Cohort) : (s.setCco x).svc = s.svc := rfl
@[simp] theorem setCco_due (s : State) (x : Cohort) : (s.setCco x).due = s.due := rfl
@[simp] theorem setCco_count (s : State) (x : Cohort) : (s.setCco x).count = s.count := rfl
@[simp] theorem setCco_agenda (s : State) (x : Cohort) : (s.setCco x).agenda = s.agenda := rfl
@[simp] theorem setPa_mem (s : State) (p : Nat) (x : Part) : (s.setPa p x).mem = s.mem := rfl
@[simp] theorem setPa_window (s : State) (p : Nat) (x : Part) : (s.setPa p x).window = s.window := rfl
@[simp] theorem setPa_poison (s : State) (p : Nat) (x : Part) : (s.setPa p x).poison = s.poison := rfl
@[simp] theorem setPa_prov (s : State) (p : Nat) (x : Part) : (s.setPa p x).prov = s.prov := rfl
@[simp] theorem setPa_threads (s : State) (p : Nat) (x : Part) : (s.setPa p x).threads = s.threads := rfl
@[simp] theorem setPa_cohorts (s : State) (p : Nat) (x : Part) : (s.setPa p x).cohorts = s.cohorts := rfl
@[simp] theorem setPa_cur (s : State) (p : Nat) (x : Part) : (s.setPa p x).cur = s.cur := rfl
@[simp] theorem setPa_guess (s : State) (p : Nat) (x : Part) : (s.setPa p x).guess = s.guess := rfl
@[simp] theorem setPa_group (s : State) (p : Nat) (x : Part) : (s.setPa p x).group = s.group := rfl
@[simp] theorem setPa_registrar (s : State) (p : Nat) (x : Part) : (s.setPa p x).registrar = s.registrar := rfl
@[simp] theorem setPa_readyq (s : State) (p : Nat) (x : Part) : (s.setPa p x).readyq = s.readyq := rfl
@[simp] theorem setPa_bars (s : State) (p : Nat) (x : Part) : (s.setPa p x).bars = s.bars := rfl
@[simp] theorem setPa_icache (s : State) (p : Nat) (x : Part) : (s.setPa p x).icache = s.icache := rfl
@[simp] theorem setPa_tlb1 (s : State) (p : Nat) (x : Part) : (s.setPa p x).tlb1 = s.tlb1 := rfl
@[simp] theorem setPa_tlb2 (s : State) (p : Nat) (x : Part) : (s.setPa p x).tlb2 = s.tlb2 := rfl
@[simp] theorem setPa_bigPages (s : State) (p : Nat) (x : Part) : (s.setPa p x).bigPages = s.bigPages := rfl
@[simp] theorem setPa_bufc (s : State) (p : Nat) (x : Part) : (s.setPa p x).bufc = s.bufc := rfl
@[simp] theorem setPa_catc (s : State) (p : Nat) (x : Part) : (s.setPa p x).catc = s.catc := rfl
@[simp] theorem setPa_pins (s : State) (p : Nat) (x : Part) : (s.setPa p x).pins = s.pins := rfl
@[simp] theorem setPa_migrations (s : State) (p : Nat) (x : Part) : (s.setPa p x).migrations = s.migrations := rfl
@[simp] theorem setPa_failedMoves (s : State) (p : Nat) (x : Part) : (s.setPa p x).failedMoves = s.failedMoves := rfl
@[simp] theorem setPa_held (s : State) (p : Nat) (x : Part) : (s.setPa p x).held = s.held := rfl
@[simp] theorem setPa_rings (s : State) (p : Nat) (x : Part) : (s.setPa p x).rings = s.rings := rfl
@[simp] theorem setPa_tables (s : State) (p : Nat) (x : Part) : (s.setPa p x).tables = s.tables := rfl
@[simp] theorem setPa_reasm (s : State) (p : Nat) (x : Part) : (s.setPa p x).reasm = s.reasm := rfl
@[simp] theorem setPa_ops (s : State) (p : Nat) (x : Part) : (s.setPa p x).ops = s.ops := rfl
@[simp] theorem setPa_matops (s : State) (p : Nat) (x : Part) : (s.setPa p x).matops = s.matops := rfl
@[simp] theorem setPa_serials (s : State) (p : Nat) (x : Part) : (s.setPa p x).serials = s.serials := rfl
@[simp] theorem setPa_launches (s : State) (p : Nat) (x : Part) : (s.setPa p x).launches = s.launches := rfl
@[simp] theorem setPa_waiters (s : State) (p : Nat) (x : Part) : (s.setPa p x).waiters = s.waiters := rfl
@[simp] theorem setPa_hubq (s : State) (p : Nat) (x : Part) : (s.setPa p x).hubq = s.hubq := rfl
@[simp] theorem setPa_fabric (s : State) (p : Nat) (x : Part) : (s.setPa p x).fabric = s.fabric := rfl
@[simp] theorem setPa_svc (s : State) (p : Nat) (x : Part) : (s.setPa p x).svc = s.svc := rfl
@[simp] theorem setPa_due (s : State) (p : Nat) (x : Part) : (s.setPa p x).due = s.due := rfl
@[simp] theorem setPa_count (s : State) (p : Nat) (x : Part) : (s.setPa p x).count = s.count := rfl
@[simp] theorem setPa_agenda (s : State) (p : Nat) (x : Part) : (s.setPa p x).agenda = s.agenda := rfl
@[simp] theorem setWin_mem (s : State) (o n v : Nat) : (s.setWin o n v).mem = s.mem := rfl
@[simp] theorem setWin_poison (s : State) (o n v : Nat) : (s.setWin o n v).poison = s.poison := rfl
@[simp] theorem setWin_prov (s : State) (o n v : Nat) : (s.setWin o n v).prov = s.prov := rfl
@[simp] theorem setWin_threads (s : State) (o n v : Nat) : (s.setWin o n v).threads = s.threads := rfl
@[simp] theorem setWin_cohorts (s : State) (o n v : Nat) : (s.setWin o n v).cohorts = s.cohorts := rfl
@[simp] theorem setWin_cur (s : State) (o n v : Nat) : (s.setWin o n v).cur = s.cur := rfl
@[simp] theorem setWin_guess (s : State) (o n v : Nat) : (s.setWin o n v).guess = s.guess := rfl
@[simp] theorem setWin_group (s : State) (o n v : Nat) : (s.setWin o n v).group = s.group := rfl
@[simp] theorem setWin_registrar (s : State) (o n v : Nat) : (s.setWin o n v).registrar = s.registrar := rfl
@[simp] theorem setWin_readyq (s : State) (o n v : Nat) : (s.setWin o n v).readyq = s.readyq := rfl
@[simp] theorem setWin_bars (s : State) (o n v : Nat) : (s.setWin o n v).bars = s.bars := rfl
@[simp] theorem setWin_icache (s : State) (o n v : Nat) : (s.setWin o n v).icache = s.icache := rfl
@[simp] theorem setWin_tlb1 (s : State) (o n v : Nat) : (s.setWin o n v).tlb1 = s.tlb1 := rfl
@[simp] theorem setWin_tlb2 (s : State) (o n v : Nat) : (s.setWin o n v).tlb2 = s.tlb2 := rfl
@[simp] theorem setWin_bigPages (s : State) (o n v : Nat) : (s.setWin o n v).bigPages = s.bigPages := rfl
@[simp] theorem setWin_bufc (s : State) (o n v : Nat) : (s.setWin o n v).bufc = s.bufc := rfl
@[simp] theorem setWin_catc (s : State) (o n v : Nat) : (s.setWin o n v).catc = s.catc := rfl
@[simp] theorem setWin_pins (s : State) (o n v : Nat) : (s.setWin o n v).pins = s.pins := rfl
@[simp] theorem setWin_migrations (s : State) (o n v : Nat) : (s.setWin o n v).migrations = s.migrations := rfl
@[simp] theorem setWin_failedMoves (s : State) (o n v : Nat) : (s.setWin o n v).failedMoves = s.failedMoves := rfl
@[simp] theorem setWin_held (s : State) (o n v : Nat) : (s.setWin o n v).held = s.held := rfl
@[simp] theorem setWin_rings (s : State) (o n v : Nat) : (s.setWin o n v).rings = s.rings := rfl
@[simp] theorem setWin_tables (s : State) (o n v : Nat) : (s.setWin o n v).tables = s.tables := rfl
@[simp] theorem setWin_reasm (s : State) (o n v : Nat) : (s.setWin o n v).reasm = s.reasm := rfl
@[simp] theorem setWin_ops (s : State) (o n v : Nat) : (s.setWin o n v).ops = s.ops := rfl
@[simp] theorem setWin_matops (s : State) (o n v : Nat) : (s.setWin o n v).matops = s.matops := rfl
@[simp] theorem setWin_serials (s : State) (o n v : Nat) : (s.setWin o n v).serials = s.serials := rfl
@[simp] theorem setWin_parts (s : State) (o n v : Nat) : (s.setWin o n v).parts = s.parts := rfl
@[simp] theorem setWin_launches (s : State) (o n v : Nat) : (s.setWin o n v).launches = s.launches := rfl
@[simp] theorem setWin_waiters (s : State) (o n v : Nat) : (s.setWin o n v).waiters = s.waiters := rfl
@[simp] theorem setWin_hubq (s : State) (o n v : Nat) : (s.setWin o n v).hubq = s.hubq := rfl
@[simp] theorem setWin_fabric (s : State) (o n v : Nat) : (s.setWin o n v).fabric = s.fabric := rfl
@[simp] theorem setWin_svc (s : State) (o n v : Nat) : (s.setWin o n v).svc = s.svc := rfl
@[simp] theorem setWin_due (s : State) (o n v : Nat) : (s.setWin o n v).due = s.due := rfl
@[simp] theorem setWin_count (s : State) (o n v : Nat) : (s.setWin o n v).count = s.count := rfl
@[simp] theorem setWin_agenda (s : State) (o n v : Nat) : (s.setWin o n v).agenda = s.agenda := rfl
@[simp] theorem setG_coh (t : Thread) (n : Nat) (v : Word) : (t.setG n v).coh = t.coh := rfl
@[simp] theorem setPair_coh (t : Thread) (n : Nat) (v : DWord) : (t.setPair n v).coh = t.coh := rfl
@[simp] theorem setFuture_coh (t : Thread) (n : Nat) (h : Word) : (t.setFuture n h).coh = t.coh := rfl
@[simp] theorem setP_coh (t : Thread) (n : Nat) (b : Bool) : (t.setP n b).coh = t.coh := by unfold Thread.setP; split <;> rfl
@[simp] theorem see_coh (t : Thread) (ws : List Nat) : (t.see ws).coh = t.coh := rfl
@[simp] theorem setG_tid (t : Thread) (n : Nat) (v : Word) : (t.setG n v).tid = t.tid := rfl
@[simp] theorem setPair_tid (t : Thread) (n : Nat) (v : DWord) : (t.setPair n v).tid = t.tid := rfl
@[simp] theorem setFuture_tid (t : Thread) (n : Nat) (h : Word) : (t.setFuture n h).tid = t.tid := rfl
@[simp] theorem setP_tid (t : Thread) (n : Nat) (b : Bool) : (t.setP n b).tid = t.tid := by unfold Thread.setP; split <;> rfl
@[simp] theorem see_tid (t : Thread) (ws : List Nat) : (t.see ws).tid = t.tid := rfl
@[simp] theorem setG_pc (t : Thread) (n : Nat) (v : Word) : (t.setG n v).pc = t.pc := rfl
@[simp] theorem setPair_pc (t : Thread) (n : Nat) (v : DWord) : (t.setPair n v).pc = t.pc := rfl
@[simp] theorem setFuture_pc (t : Thread) (n : Nat) (h : Word) : (t.setFuture n h).pc = t.pc := rfl
@[simp] theorem setP_pc (t : Thread) (n : Nat) (b : Bool) : (t.setP n b).pc = t.pc := by unfold Thread.setP; split <;> rfl
@[simp] theorem see_pc (t : Thread) (ws : List Nat) : (t.see ws).pc = t.pc := rfl
@[simp] theorem setP_g (t : Thread) (n : Nat) (b : Bool) : (t.setP n b).g = t.g := by unfold Thread.setP; split <;> rfl
@[simp] theorem see_g (t : Thread) (ws : List Nat) : (t.see ws).g = t.g := rfl
@[simp] theorem setP_pend (t : Thread) (n : Nat) (b : Bool) : (t.setP n b).pend = t.pend := by unfold Thread.setP; split <;> rfl
@[simp] theorem see_pend (t : Thread) (ws : List Nat) : (t.see ws).pend = t.pend := rfl
@[simp] theorem setG_p (t : Thread) (n : Nat) (v : Word) : (t.setG n v).p = t.p := rfl
@[simp] theorem setPair_p (t : Thread) (n : Nat) (v : DWord) : (t.setPair n v).p = t.p := rfl
@[simp] theorem setFuture_p (t : Thread) (n : Nat) (h : Word) : (t.setFuture n h).p = t.p := rfl
@[simp] theorem see_p (t : Thread) (ws : List Nat) : (t.see ws).p = t.p := rfl
@[simp] theorem setG_fstat (t : Thread) (n : Nat) (v : Word) : (t.setG n v).fstat = t.fstat := rfl
@[simp] theorem setPair_fstat (t : Thread) (n : Nat) (v : DWord) : (t.setPair n v).fstat = t.fstat := rfl
@[simp] theorem setFuture_fstat (t : Thread) (n : Nat) (h : Word) : (t.setFuture n h).fstat = t.fstat := rfl
@[simp] theorem setP_fstat (t : Thread) (n : Nat) (b : Bool) : (t.setP n b).fstat = t.fstat := by unfold Thread.setP; split <;> rfl
@[simp] theorem see_fstat (t : Thread) (ws : List Nat) : (t.see ws).fstat = t.fstat := rfl
@[simp] theorem setG_rmode (t : Thread) (n : Nat) (v : Word) : (t.setG n v).rmode = t.rmode := rfl
@[simp] theorem setPair_rmode (t : Thread) (n : Nat) (v : DWord) : (t.setPair n v).rmode = t.rmode := rfl
@[simp] theorem setFuture_rmode (t : Thread) (n : Nat) (h : Word) : (t.setFuture n h).rmode = t.rmode := rfl
@[simp] theorem setP_rmode (t : Thread) (n : Nat) (b : Bool) : (t.setP n b).rmode = t.rmode := by unfold Thread.setP; split <;> rfl
@[simp] theorem see_rmode (t : Thread) (ws : List Nat) : (t.see ws).rmode = t.rmode := rfl
@[simp] theorem setG_fcode (t : Thread) (n : Nat) (v : Word) : (t.setG n v).fcode = t.fcode := rfl
@[simp] theorem setPair_fcode (t : Thread) (n : Nat) (v : DWord) : (t.setPair n v).fcode = t.fcode := rfl
@[simp] theorem setFuture_fcode (t : Thread) (n : Nat) (h : Word) : (t.setFuture n h).fcode = t.fcode := rfl
@[simp] theorem setP_fcode (t : Thread) (n : Nat) (b : Bool) : (t.setP n b).fcode = t.fcode := by unfold Thread.setP; split <;> rfl
@[simp] theorem see_fcode (t : Thread) (ws : List Nat) : (t.see ws).fcode = t.fcode := rfl
@[simp] theorem setG_fpc (t : Thread) (n : Nat) (v : Word) : (t.setG n v).fpc = t.fpc := rfl
@[simp] theorem setPair_fpc (t : Thread) (n : Nat) (v : DWord) : (t.setPair n v).fpc = t.fpc := rfl
@[simp] theorem setFuture_fpc (t : Thread) (n : Nat) (h : Word) : (t.setFuture n h).fpc = t.fpc := rfl
@[simp] theorem setP_fpc (t : Thread) (n : Nat) (b : Bool) : (t.setP n b).fpc = t.fpc := by unfold Thread.setP; split <;> rfl
@[simp] theorem see_fpc (t : Thread) (ws : List Nat) : (t.see ws).fpc = t.fpc := rfl
@[simp] theorem setG_fdetail (t : Thread) (n : Nat) (v : Word) : (t.setG n v).fdetail = t.fdetail := rfl
@[simp] theorem setPair_fdetail (t : Thread) (n : Nat) (v : DWord) : (t.setPair n v).fdetail = t.fdetail := rfl
@[simp] theorem setFuture_fdetail (t : Thread) (n : Nat) (h : Word) : (t.setFuture n h).fdetail = t.fdetail := rfl
@[simp] theorem setP_fdetail (t : Thread) (n : Nat) (b : Bool) : (t.setP n b).fdetail = t.fdetail := by unfold Thread.setP; split <;> rfl
@[simp] theorem see_fdetail (t : Thread) (ws : List Nat) : (t.see ws).fdetail = t.fdetail := rfl
@[simp] theorem setG_region (t : Thread) (n : Nat) (v : Word) : (t.setG n v).region = t.region := rfl
@[simp] theorem setPair_region (t : Thread) (n : Nat) (v : DWord) : (t.setPair n v).region = t.region := rfl
@[simp] theorem setFuture_region (t : Thread) (n : Nat) (h : Word) : (t.setFuture n h).region = t.region := rfl
@[simp] theorem setP_region (t : Thread) (n : Nat) (b : Bool) : (t.setP n b).region = t.region := by unfold Thread.setP; split <;> rfl
@[simp] theorem see_region (t : Thread) (ws : List Nat) : (t.see ws).region = t.region := rfl
@[simp] theorem setG_run (t : Thread) (n : Nat) (v : Word) : (t.setG n v).run = t.run := rfl
@[simp] theorem setPair_run (t : Thread) (n : Nat) (v : DWord) : (t.setPair n v).run = t.run := rfl
@[simp] theorem setFuture_run (t : Thread) (n : Nat) (h : Word) : (t.setFuture n h).run = t.run := rfl
@[simp] theorem setP_run (t : Thread) (n : Nat) (b : Bool) : (t.setP n b).run = t.run := by unfold Thread.setP; split <;> rfl
@[simp] theorem see_run (t : Thread) (ws : List Nat) : (t.see ws).run = t.run := rfl
@[simp] theorem setG_listed (t : Thread) (n : Nat) (v : Word) : (t.setG n v).listed = t.listed := rfl
@[simp] theorem setPair_listed (t : Thread) (n : Nat) (v : DWord) : (t.setPair n v).listed = t.listed := rfl
@[simp] theorem setFuture_listed (t : Thread) (n : Nat) (h : Word) : (t.setFuture n h).listed = t.listed := rfl
@[simp] theorem setP_listed (t : Thread) (n : Nat) (b : Bool) : (t.setP n b).listed = t.listed := by unfold Thread.setP; split <;> rfl
@[simp] theorem see_listed (t : Thread) (ws : List Nat) : (t.see ws).listed = t.listed := rfl
@[simp] theorem setG_since (t : Thread) (n : Nat) (v : Word) : (t.setG n v).since = t.since := rfl
@[simp] theorem setPair_since (t : Thread) (n : Nat) (v : DWord) : (t.setPair n v).since = t.since := rfl
@[simp] theorem setFuture_since (t : Thread) (n : Nat) (h : Word) : (t.setFuture n h).since = t.since := rfl
@[simp] theorem setP_since (t : Thread) (n : Nat) (b : Bool) : (t.setP n b).since = t.since := by unfold Thread.setP; split <;> rfl
@[simp] theorem see_since (t : Thread) (ws : List Nat) : (t.see ws).since = t.since := rfl
@[simp] theorem setG_seen (t : Thread) (n : Nat) (v : Word) : (t.setG n v).seen = t.seen := rfl
@[simp] theorem setPair_seen (t : Thread) (n : Nat) (v : DWord) : (t.setPair n v).seen = t.seen := rfl
@[simp] theorem setFuture_seen (t : Thread) (n : Nat) (h : Word) : (t.setFuture n h).seen = t.seen := rfl
@[simp] theorem setP_seen (t : Thread) (n : Nat) (b : Bool) : (t.setP n b).seen = t.seen := by unfold Thread.setP; split <;> rfl
@[simp] theorem setG_arrivals (t : Thread) (n : Nat) (v : Word) : (t.setG n v).arrivals = t.arrivals := rfl
@[simp] theorem setPair_arrivals (t : Thread) (n : Nat) (v : DWord) : (t.setPair n v).arrivals = t.arrivals := rfl
@[simp] theorem setFuture_arrivals (t : Thread) (n : Nat) (h : Word) : (t.setFuture n h).arrivals = t.arrivals := rfl
@[simp] theorem setP_arrivals (t : Thread) (n : Nat) (b : Bool) : (t.setP n b).arrivals = t.arrivals := by unfold Thread.setP; split <;> rfl
@[simp] theorem see_arrivals (t : Thread) (ws : List Nat) : (t.see ws).arrivals = t.arrivals := rfl
@[simp] theorem setK_uid (c : Cohort) (ts : List Nat) (i : Nat) (v : DWord) : (c.setK ts i v).uid = c.uid := rfl
@[simp] theorem setK_part (c : Cohort) (ts : List Nat) (i : Nat) (v : DWord) : (c.setK ts i v).part = c.part := rfl
@[simp] theorem setK_seq (c : Cohort) (ts : List Nat) (i : Nat) (v : DWord) : (c.setK ts i v).seq = c.seq := rfl
@[simp] theorem setK_lin (c : Cohort) (ts : List Nat) (i : Nat) (v : DWord) : (c.setK ts i v).lin = c.lin := rfl
@[simp] theorem setK_core (c : Cohort) (ts : List Nat) (i : Nat) (v : DWord) : (c.setK ts i v).core = c.core := rfl
@[simp] theorem setK_place (c : Cohort) (ts : List Nat) (i : Nat) (v : DWord) : (c.setK ts i v).place = c.place := rfl
@[simp] theorem setK_taken (c : Cohort) (ts : List Nat) (i : Nat) (v : DWord) : (c.setK ts i v).taken = c.taken := rfl
@[simp] theorem setK_placedAt (c : Cohort) (ts : List Nat) (i : Nat) (v : DWord) : (c.setK ts i v).placedAt = c.placedAt := rfl
@[simp] theorem setK_nthr (c : Cohort) (ts : List Nat) (i : Nat) (v : DWord) : (c.setK ts i v).nthr = c.nthr := rfl
@[simp] theorem setK_gregs (c : Cohort) (ts : List Nat) (i : Nat) (v : DWord) : (c.setK ts i v).gregs = c.gregs := rfl
@[simp] theorem setK_tilegr (c : Cohort) (ts : List Nat) (i : Nat) (v : DWord) : (c.setK ts i v).tilegr = c.tilegr := rfl
@[simp] theorem setK_scrgr (c : Cohort) (ts : List Nat) (i : Nat) (v : DWord) : (c.setK ts i v).scrgr = c.scrgr := rfl
@[simp] theorem setK_spanSize (c : Cohort) (ts : List Nat) (i : Nat) (v : DWord) : (c.setK ts i v).spanSize = c.spanSize := rfl
@[simp] theorem setK_kentry (c : Cohort) (ts : List Nat) (i : Nat) (v : DWord) : (c.setK ts i v).kentry = c.kentry := rfl
@[simp] theorem setK_handler (c : Cohort) (ts : List Nat) (i : Nat) (v : DWord) : (c.setK ts i v).handler = c.handler := rfl
@[simp] theorem setK_vw (c : Cohort) (ts : List Nat) (i : Nat) (v : DWord) : (c.setK ts i v).vw = c.vw := rfl
@[simp] theorem setK_cv (c : Cohort) (ts : List Nat) (i : Nat) (v : DWord) : (c.setK ts i v).cv = c.cv := rfl
@[simp] theorem setK_ct (c : Cohort) (ts : List Nat) (i : Nat) (v : DWord) : (c.setK ts i v).ct = c.ct := rfl
@[simp] theorem setK_ftol (c : Cohort) (ts : List Nat) (i : Nat) (v : DWord) : (c.setK ts i v).ftol = c.ftol := rfl
@[simp] theorem setK_drain (c : Cohort) (ts : List Nat) (i : Nat) (v : DWord) : (c.setK ts i v).drain = c.drain := rfl
@[simp] theorem setK_divcnt (c : Cohort) (ts : List Nat) (i : Nat) (v : DWord) : (c.setK ts i v).divcnt = c.divcnt := rfl
@[simp] theorem setK_queues (c : Cohort) (ts : List Nat) (i : Nat) (v : DWord) : (c.setK ts i v).queues = c.queues := rfl
@[simp] theorem setK_points (c : Cohort) (ts : List Nat) (i : Nat) (v : DWord) : (c.setK ts i v).points = c.points := rfl
@[simp] theorem setK_regions (c : Cohort) (ts : List Nat) (i : Nat) (v : DWord) : (c.setK ts i v).regions = c.regions := rfl
@[simp] theorem setK_chains (c : Cohort) (ts : List Nat) (i : Nat) (v : DWord) : (c.setK ts i v).chains = c.chains := rfl
@[simp] theorem setK_holds (c : Cohort) (ts : List Nat) (i : Nat) (v : DWord) : (c.setK ts i v).holds = c.holds := rfl
@[simp] theorem setK_faults (c : Cohort) (ts : List Nat) (i : Nat) (v : DWord) : (c.setK ts i v).faults = c.faults := rfl
@[simp] theorem setK_first (c : Cohort) (ts : List Nat) (i : Nat) (v : DWord) : (c.setK ts i v).first = c.first := rfl
@[simp] theorem setK_replaced (c : Cohort) (ts : List Nat) (i : Nat) (v : DWord) : (c.setK ts i v).replaced = c.replaced := rfl
@[simp] theorem setK_yieldsTo (c : Cohort) (ts : List Nat) (i : Nat) (v : DWord) : (c.setK ts i v).yieldsTo = c.yieldsTo := rfl
@[simp] theorem setK_leftAt (c : Cohort) (ts : List Nat) (i : Nat) (v : DWord) : (c.setK ts i v).leftAt = c.leftAt := rfl
@[simp] theorem setK_opsKnown (c : Cohort) (ts : List Nat) (i : Nat) (v : DWord) : (c.setK ts i v).opsKnown = c.opsKnown := rfl
@[simp] theorem setV_uid (c : Cohort) (ts : List Nat) (i : Nat) (v : View) : (c.setV ts i v).uid = c.uid := rfl
@[simp] theorem setV_part (c : Cohort) (ts : List Nat) (i : Nat) (v : View) : (c.setV ts i v).part = c.part := rfl
@[simp] theorem setV_seq (c : Cohort) (ts : List Nat) (i : Nat) (v : View) : (c.setV ts i v).seq = c.seq := rfl
@[simp] theorem setV_lin (c : Cohort) (ts : List Nat) (i : Nat) (v : View) : (c.setV ts i v).lin = c.lin := rfl
@[simp] theorem setV_core (c : Cohort) (ts : List Nat) (i : Nat) (v : View) : (c.setV ts i v).core = c.core := rfl
@[simp] theorem setV_place (c : Cohort) (ts : List Nat) (i : Nat) (v : View) : (c.setV ts i v).place = c.place := rfl
@[simp] theorem setV_taken (c : Cohort) (ts : List Nat) (i : Nat) (v : View) : (c.setV ts i v).taken = c.taken := rfl
@[simp] theorem setV_placedAt (c : Cohort) (ts : List Nat) (i : Nat) (v : View) : (c.setV ts i v).placedAt = c.placedAt := rfl
@[simp] theorem setV_nthr (c : Cohort) (ts : List Nat) (i : Nat) (v : View) : (c.setV ts i v).nthr = c.nthr := rfl
@[simp] theorem setV_gregs (c : Cohort) (ts : List Nat) (i : Nat) (v : View) : (c.setV ts i v).gregs = c.gregs := rfl
@[simp] theorem setV_tilegr (c : Cohort) (ts : List Nat) (i : Nat) (v : View) : (c.setV ts i v).tilegr = c.tilegr := rfl
@[simp] theorem setV_scrgr (c : Cohort) (ts : List Nat) (i : Nat) (v : View) : (c.setV ts i v).scrgr = c.scrgr := rfl
@[simp] theorem setV_spanSize (c : Cohort) (ts : List Nat) (i : Nat) (v : View) : (c.setV ts i v).spanSize = c.spanSize := rfl
@[simp] theorem setV_kentry (c : Cohort) (ts : List Nat) (i : Nat) (v : View) : (c.setV ts i v).kentry = c.kentry := rfl
@[simp] theorem setV_handler (c : Cohort) (ts : List Nat) (i : Nat) (v : View) : (c.setV ts i v).handler = c.handler := rfl
@[simp] theorem setV_k (c : Cohort) (ts : List Nat) (i : Nat) (v : View) : (c.setV ts i v).k = c.k := rfl
@[simp] theorem setV_cv (c : Cohort) (ts : List Nat) (i : Nat) (v : View) : (c.setV ts i v).cv = c.cv := rfl
@[simp] theorem setV_ct (c : Cohort) (ts : List Nat) (i : Nat) (v : View) : (c.setV ts i v).ct = c.ct := rfl
@[simp] theorem setV_ftol (c : Cohort) (ts : List Nat) (i : Nat) (v : View) : (c.setV ts i v).ftol = c.ftol := rfl
@[simp] theorem setV_drain (c : Cohort) (ts : List Nat) (i : Nat) (v : View) : (c.setV ts i v).drain = c.drain := rfl
@[simp] theorem setV_divcnt (c : Cohort) (ts : List Nat) (i : Nat) (v : View) : (c.setV ts i v).divcnt = c.divcnt := rfl
@[simp] theorem setV_queues (c : Cohort) (ts : List Nat) (i : Nat) (v : View) : (c.setV ts i v).queues = c.queues := rfl
@[simp] theorem setV_points (c : Cohort) (ts : List Nat) (i : Nat) (v : View) : (c.setV ts i v).points = c.points := rfl
@[simp] theorem setV_regions (c : Cohort) (ts : List Nat) (i : Nat) (v : View) : (c.setV ts i v).regions = c.regions := rfl
@[simp] theorem setV_chains (c : Cohort) (ts : List Nat) (i : Nat) (v : View) : (c.setV ts i v).chains = c.chains := rfl
@[simp] theorem setV_holds (c : Cohort) (ts : List Nat) (i : Nat) (v : View) : (c.setV ts i v).holds = c.holds := rfl
@[simp] theorem setV_faults (c : Cohort) (ts : List Nat) (i : Nat) (v : View) : (c.setV ts i v).faults = c.faults := rfl
@[simp] theorem setV_first (c : Cohort) (ts : List Nat) (i : Nat) (v : View) : (c.setV ts i v).first = c.first := rfl
@[simp] theorem setV_replaced (c : Cohort) (ts : List Nat) (i : Nat) (v : View) : (c.setV ts i v).replaced = c.replaced := rfl
@[simp] theorem setV_yieldsTo (c : Cohort) (ts : List Nat) (i : Nat) (v : View) : (c.setV ts i v).yieldsTo = c.yieldsTo := rfl
@[simp] theorem setV_leftAt (c : Cohort) (ts : List Nat) (i : Nat) (v : View) : (c.setV ts i v).leftAt = c.leftAt := rfl
@[simp] theorem setV_opsKnown (c : Cohort) (ts : List Nat) (i : Nat) (v : View) : (c.setV ts i v).opsKnown = c.opsKnown := rfl
@[simp] theorem setC_uid (c : Cohort) (ts : List Nat) (i : Nat) (v : CvReg) : (c.setC ts i v).uid = c.uid := rfl
@[simp] theorem setC_part (c : Cohort) (ts : List Nat) (i : Nat) (v : CvReg) : (c.setC ts i v).part = c.part := rfl
@[simp] theorem setC_seq (c : Cohort) (ts : List Nat) (i : Nat) (v : CvReg) : (c.setC ts i v).seq = c.seq := rfl
@[simp] theorem setC_lin (c : Cohort) (ts : List Nat) (i : Nat) (v : CvReg) : (c.setC ts i v).lin = c.lin := rfl
@[simp] theorem setC_core (c : Cohort) (ts : List Nat) (i : Nat) (v : CvReg) : (c.setC ts i v).core = c.core := rfl
@[simp] theorem setC_place (c : Cohort) (ts : List Nat) (i : Nat) (v : CvReg) : (c.setC ts i v).place = c.place := rfl
@[simp] theorem setC_taken (c : Cohort) (ts : List Nat) (i : Nat) (v : CvReg) : (c.setC ts i v).taken = c.taken := rfl
@[simp] theorem setC_placedAt (c : Cohort) (ts : List Nat) (i : Nat) (v : CvReg) : (c.setC ts i v).placedAt = c.placedAt := rfl
@[simp] theorem setC_nthr (c : Cohort) (ts : List Nat) (i : Nat) (v : CvReg) : (c.setC ts i v).nthr = c.nthr := rfl
@[simp] theorem setC_gregs (c : Cohort) (ts : List Nat) (i : Nat) (v : CvReg) : (c.setC ts i v).gregs = c.gregs := rfl
@[simp] theorem setC_tilegr (c : Cohort) (ts : List Nat) (i : Nat) (v : CvReg) : (c.setC ts i v).tilegr = c.tilegr := rfl
@[simp] theorem setC_scrgr (c : Cohort) (ts : List Nat) (i : Nat) (v : CvReg) : (c.setC ts i v).scrgr = c.scrgr := rfl
@[simp] theorem setC_spanSize (c : Cohort) (ts : List Nat) (i : Nat) (v : CvReg) : (c.setC ts i v).spanSize = c.spanSize := rfl
@[simp] theorem setC_kentry (c : Cohort) (ts : List Nat) (i : Nat) (v : CvReg) : (c.setC ts i v).kentry = c.kentry := rfl
@[simp] theorem setC_handler (c : Cohort) (ts : List Nat) (i : Nat) (v : CvReg) : (c.setC ts i v).handler = c.handler := rfl
@[simp] theorem setC_k (c : Cohort) (ts : List Nat) (i : Nat) (v : CvReg) : (c.setC ts i v).k = c.k := rfl
@[simp] theorem setC_vw (c : Cohort) (ts : List Nat) (i : Nat) (v : CvReg) : (c.setC ts i v).vw = c.vw := rfl
@[simp] theorem setC_ct (c : Cohort) (ts : List Nat) (i : Nat) (v : CvReg) : (c.setC ts i v).ct = c.ct := rfl
@[simp] theorem setC_ftol (c : Cohort) (ts : List Nat) (i : Nat) (v : CvReg) : (c.setC ts i v).ftol = c.ftol := rfl
@[simp] theorem setC_drain (c : Cohort) (ts : List Nat) (i : Nat) (v : CvReg) : (c.setC ts i v).drain = c.drain := rfl
@[simp] theorem setC_divcnt (c : Cohort) (ts : List Nat) (i : Nat) (v : CvReg) : (c.setC ts i v).divcnt = c.divcnt := rfl
@[simp] theorem setC_queues (c : Cohort) (ts : List Nat) (i : Nat) (v : CvReg) : (c.setC ts i v).queues = c.queues := rfl
@[simp] theorem setC_points (c : Cohort) (ts : List Nat) (i : Nat) (v : CvReg) : (c.setC ts i v).points = c.points := rfl
@[simp] theorem setC_regions (c : Cohort) (ts : List Nat) (i : Nat) (v : CvReg) : (c.setC ts i v).regions = c.regions := rfl
@[simp] theorem setC_chains (c : Cohort) (ts : List Nat) (i : Nat) (v : CvReg) : (c.setC ts i v).chains = c.chains := rfl
@[simp] theorem setC_holds (c : Cohort) (ts : List Nat) (i : Nat) (v : CvReg) : (c.setC ts i v).holds = c.holds := rfl
@[simp] theorem setC_faults (c : Cohort) (ts : List Nat) (i : Nat) (v : CvReg) : (c.setC ts i v).faults = c.faults := rfl
@[simp] theorem setC_first (c : Cohort) (ts : List Nat) (i : Nat) (v : CvReg) : (c.setC ts i v).first = c.first := rfl
@[simp] theorem setC_replaced (c : Cohort) (ts : List Nat) (i : Nat) (v : CvReg) : (c.setC ts i v).replaced = c.replaced := rfl
@[simp] theorem setC_yieldsTo (c : Cohort) (ts : List Nat) (i : Nat) (v : CvReg) : (c.setC ts i v).yieldsTo = c.yieldsTo := rfl
@[simp] theorem setC_leftAt (c : Cohort) (ts : List Nat) (i : Nat) (v : CvReg) : (c.setC ts i v).leftAt = c.leftAt := rfl
@[simp] theorem setC_opsKnown (c : Cohort) (ts : List Nat) (i : Nat) (v : CvReg) : (c.setC ts i v).opsKnown = c.opsKnown := rfl
@[simp] theorem setT_uid (c : Cohort) (ts : List Nat) (i : Nat) (v : Option CtImg) : (c.setT ts i v).uid = c.uid := rfl
@[simp] theorem setT_part (c : Cohort) (ts : List Nat) (i : Nat) (v : Option CtImg) : (c.setT ts i v).part = c.part := rfl
@[simp] theorem setT_seq (c : Cohort) (ts : List Nat) (i : Nat) (v : Option CtImg) : (c.setT ts i v).seq = c.seq := rfl
@[simp] theorem setT_lin (c : Cohort) (ts : List Nat) (i : Nat) (v : Option CtImg) : (c.setT ts i v).lin = c.lin := rfl
@[simp] theorem setT_core (c : Cohort) (ts : List Nat) (i : Nat) (v : Option CtImg) : (c.setT ts i v).core = c.core := rfl
@[simp] theorem setT_place (c : Cohort) (ts : List Nat) (i : Nat) (v : Option CtImg) : (c.setT ts i v).place = c.place := rfl
@[simp] theorem setT_taken (c : Cohort) (ts : List Nat) (i : Nat) (v : Option CtImg) : (c.setT ts i v).taken = c.taken := rfl
@[simp] theorem setT_placedAt (c : Cohort) (ts : List Nat) (i : Nat) (v : Option CtImg) : (c.setT ts i v).placedAt = c.placedAt := rfl
@[simp] theorem setT_nthr (c : Cohort) (ts : List Nat) (i : Nat) (v : Option CtImg) : (c.setT ts i v).nthr = c.nthr := rfl
@[simp] theorem setT_gregs (c : Cohort) (ts : List Nat) (i : Nat) (v : Option CtImg) : (c.setT ts i v).gregs = c.gregs := rfl
@[simp] theorem setT_tilegr (c : Cohort) (ts : List Nat) (i : Nat) (v : Option CtImg) : (c.setT ts i v).tilegr = c.tilegr := rfl
@[simp] theorem setT_scrgr (c : Cohort) (ts : List Nat) (i : Nat) (v : Option CtImg) : (c.setT ts i v).scrgr = c.scrgr := rfl
@[simp] theorem setT_spanSize (c : Cohort) (ts : List Nat) (i : Nat) (v : Option CtImg) : (c.setT ts i v).spanSize = c.spanSize := rfl
@[simp] theorem setT_kentry (c : Cohort) (ts : List Nat) (i : Nat) (v : Option CtImg) : (c.setT ts i v).kentry = c.kentry := rfl
@[simp] theorem setT_handler (c : Cohort) (ts : List Nat) (i : Nat) (v : Option CtImg) : (c.setT ts i v).handler = c.handler := rfl
@[simp] theorem setT_k (c : Cohort) (ts : List Nat) (i : Nat) (v : Option CtImg) : (c.setT ts i v).k = c.k := rfl
@[simp] theorem setT_vw (c : Cohort) (ts : List Nat) (i : Nat) (v : Option CtImg) : (c.setT ts i v).vw = c.vw := rfl
@[simp] theorem setT_cv (c : Cohort) (ts : List Nat) (i : Nat) (v : Option CtImg) : (c.setT ts i v).cv = c.cv := rfl
@[simp] theorem setT_ftol (c : Cohort) (ts : List Nat) (i : Nat) (v : Option CtImg) : (c.setT ts i v).ftol = c.ftol := rfl
@[simp] theorem setT_drain (c : Cohort) (ts : List Nat) (i : Nat) (v : Option CtImg) : (c.setT ts i v).drain = c.drain := rfl
@[simp] theorem setT_divcnt (c : Cohort) (ts : List Nat) (i : Nat) (v : Option CtImg) : (c.setT ts i v).divcnt = c.divcnt := rfl
@[simp] theorem setT_queues (c : Cohort) (ts : List Nat) (i : Nat) (v : Option CtImg) : (c.setT ts i v).queues = c.queues := rfl
@[simp] theorem setT_points (c : Cohort) (ts : List Nat) (i : Nat) (v : Option CtImg) : (c.setT ts i v).points = c.points := rfl
@[simp] theorem setT_regions (c : Cohort) (ts : List Nat) (i : Nat) (v : Option CtImg) : (c.setT ts i v).regions = c.regions := rfl
@[simp] theorem setT_chains (c : Cohort) (ts : List Nat) (i : Nat) (v : Option CtImg) : (c.setT ts i v).chains = c.chains := rfl
@[simp] theorem setT_holds (c : Cohort) (ts : List Nat) (i : Nat) (v : Option CtImg) : (c.setT ts i v).holds = c.holds := rfl
@[simp] theorem setT_faults (c : Cohort) (ts : List Nat) (i : Nat) (v : Option CtImg) : (c.setT ts i v).faults = c.faults := rfl
@[simp] theorem setT_first (c : Cohort) (ts : List Nat) (i : Nat) (v : Option CtImg) : (c.setT ts i v).first = c.first := rfl
@[simp] theorem setT_replaced (c : Cohort) (ts : List Nat) (i : Nat) (v : Option CtImg) : (c.setT ts i v).replaced = c.replaced := rfl
@[simp] theorem setT_yieldsTo (c : Cohort) (ts : List Nat) (i : Nat) (v : Option CtImg) : (c.setT ts i v).yieldsTo = c.yieldsTo := rfl
@[simp] theorem setT_leftAt (c : Cohort) (ts : List Nat) (i : Nat) (v : Option CtImg) : (c.setT ts i v).leftAt = c.leftAt := rfl
@[simp] theorem setT_opsKnown (c : Cohort) (ts : List Nat) (i : Nat) (v : Option CtImg) : (c.setT ts i v).opsKnown = c.opsKnown := rfl

/-- A thread of the table reads back what replaced it. -/
@[simp] theorem th_setTh_self {s : State} {t : Nat} (x : Thread) (h : t < s.threads.length) : (s.setTh t x).th t = x := by
  simp [State.th, State.setTh, h]

/-- Replacing one thread leaves every other. -/
@[simp] theorem th_setTh_ne {s : State} {t u : Nat} (x : Thread) (h : u ≠ t) : (s.setTh t x).th u = s.th u := by
  simp [State.th, State.setTh, List.getElem?_set_ne (Ne.symm h)]

/-- Outside the table nothing is replaced. -/
theorem th_setTh_out {s : State} {t : Nat} (x : Thread) (h : s.threads.length ≤ t) : s.setTh t x = s := by
  simp [State.setTh, List.set_eq_of_length_le h]

/-- Replacing a thread leaves the cohorts. -/
@[simp] theorem co_setTh (s : State) (t c : Nat) (x : Thread) : (s.setTh t x).co c = s.co c := rfl

/-- A cohort of the table reads back what replaced it. -/
@[simp] theorem co_setCo_self {s : State} {c : Nat} (x : Cohort) (h : c < s.cohorts.length) : (s.setCo c x).co c = x := by
  simp [State.co, State.setCo, h]

/-- Replacing one cohort leaves every other. -/
@[simp] theorem co_setCo_ne {s : State} {c d : Nat} (x : Cohort) (h : d ≠ c) : (s.setCo c x).co d = s.co d := by
  simp [State.co, State.setCo, List.getElem?_set_ne (Ne.symm h)]

/-- Replacing a cohort leaves the threads. -/
@[simp] theorem th_setCo (s : State) (c t : Nat) (x : Cohort) : (s.setCo c x).th t = s.th t := rfl

/-- Replacing a thread keeps the table's length. -/
@[simp] theorem threads_length_setTh (s : State) (t : Nat) (x : Thread) : (s.setTh t x).threads.length = s.threads.length := by simp [State.setTh]

/-- Replacing a cohort keeps the table's length. -/
@[simp] theorem cohorts_length_setCo (s : State) (c : Nat) (x : Cohort) : (s.setCo c x).cohorts.length = s.cohorts.length := by simp [State.setCo]

/-- The thread that executes, its number and its cohort. -/
theorem me_of_cur {s : State} {t : Nat} (h : s.cur = some t) : s.me = t := by simp [State.me, h]

/-- The executing thread's record. -/
theorem cth_of_cur {s : State} {t : Nat} (h : s.cur = some t) : s.cth = s.th t := by simp [State.cth, me_of_cur h]

/-- The executing thread's cohort. -/
theorem cco_of_cur {s : State} {t : Nat} (h : s.cur = some t) : s.cco = s.co (s.th t).coh := by simp [State.cco, State.cci, cth_of_cur h]

/-- Dropping used answers touches the fabric alone. -/
theorem dropAnswers_eq (s : State) (a : Agent) : s.dropAnswers a = { s with fabric := (s.dropAnswers a).fabric } := by
  unfold State.dropAnswers; split <;> rfl

/-- Dropping used answers leaves the threads. -/
@[simp] theorem th_dropAnswers (s : State) (a : Agent) (t : Nat) : (s.dropAnswers a).th t = s.th t := by rw [dropAnswers_eq]; rfl

/-- Dropping used answers leaves the cohorts. -/
@[simp] theorem co_dropAnswers (s : State) (a : Agent) (c : Nat) : (s.dropAnswers a).co c = s.co c := by rw [dropAnswers_eq]; rfl

/-- Dropping used answers leaves memory. -/
@[simp] theorem mem_dropAnswers (s : State) (a : Agent) : (s.dropAnswers a).mem = s.mem := by rw [dropAnswers_eq]

/-- Dropping used answers keeps the tables' lengths. -/
@[simp] theorem threads_dropAnswers (s : State) (a : Agent) : (s.dropAnswers a).threads = s.threads := by rw [dropAnswers_eq]

/-- Going on touches its thread and, when the thread blocks, the counter. -/
theorem goOn_eq (s : State) (t len : Nat) (fl : Flow) :
    s.goOn t len fl = { s with threads := (s.goOn t len fl).threads, count := (s.goOn t len fl).count } := by
  cases fl <;> rfl

/-- Going on leaves every other thread. -/
theorem th_goOn_ne {s : State} {t u : Nat} (len : Nat) (fl : Flow) (h : u ≠ t) : (s.goOn t len fl).th u = s.th u := by
  cases fl <;> simp [State.goOn, State.block, State.th, State.setTh, List.getElem?_set_ne (Ne.symm h)]

/-- Going on leaves memory. -/
@[simp] theorem mem_goOn (s : State) (t len : Nat) (fl : Flow) : (s.goOn t len fl).mem = s.mem := by rw [goOn_eq]

/-- Going on leaves the cohorts. -/
@[simp] theorem co_goOn (s : State) (t len c : Nat) (fl : Flow) : (s.goOn t len fl).co c = s.co c := by rw [goOn_eq]; rfl

/-- After an instruction memory is what its effect left. -/
@[simp] theorem mem_after (s : State) (t : Nat) (o : Canon) (fl : Flow) : (s.after t o fl).mem = s.mem := by simp [State.after]

/-- After an instruction the cohorts are what its effect left. -/
@[simp] theorem co_after (s : State) (t c : Nat) (o : Canon) (fl : Flow) : (s.after t o fl).co c = s.co c := by simp [State.after]

/-- After an instruction every other thread is what the effect left. -/
theorem th_after_ne {s : State} {t u : Nat} (o : Canon) (fl : Flow) (h : u ≠ t) : (s.after t o fl).th u = s.th u := by
  simp [State.after, th_goOn_ne _ _ h]

/-- A 32-bit result changes one thread or one cohort, or nothing. -/
theorem put32_cases (s : State) (sel : BitVec 8) (v : Word) :
    (∃ n, n < 0x40 ∧ s.put32 sel v = s.setCth (s.cth.setG n v)) ∨ (∃ n, s.put32 sel v = s.setCth (s.cth.setP n (v.getLsbD 0)))
    ∨ (∃ n, s.put32 sel v = s.setCco (s.cco.setK [s.cth.tid] n (v.setWidth 64))) ∨ s.put32 sel v = s := by
  unfold State.put32
  dsimp only
  by_cases h1 : isG sel.toNat = true
  · refine .inl ⟨sel.toNat, ?_, by simp [h1, State.putG]⟩
    simpa [isG] using h1
  · by_cases h2 : isK sel.toNat = true
    · exact .inr (.inr (.inl ⟨sel.toNat - 0x40, by simp [h1, h2, State.putK]⟩))
    · by_cases h3 : isP sel.toNat = true
      · exact .inr (.inl ⟨sel.toNat - 0x60, by simp [h1, h2, h3, State.putP]⟩)
      · exact .inr (.inr (.inr (by simp [h1, h2, h3])))

/-- A 32-bit result leaves memory. -/
@[simp] theorem mem_put32 (s : State) (sel : BitVec 8) (v : Word) : (s.put32 sel v).mem = s.mem := by
  rcases put32_cases s sel v with ⟨_, _, h⟩ | ⟨_, h⟩ | ⟨_, h⟩ | h <;> simp [h]

/-- A 64-bit result leaves memory. -/
@[simp] theorem mem_put64 (s : State) (sel : BitVec 8) (v : DWord) : (s.put64 sel v).mem = s.mem := by
  unfold State.put64 State.putK; dsimp only; (repeat' split) <;> rfl

/-- The registers of a thread after a register write. -/
theorem gv_setG (t : Thread) (n m : Nat) (v : Word) : (t.setG n v).gv m = if n = m ∧ n < t.g.length then v else t.gv m := by
  simp only [Thread.gv, Thread.setG, nth, List.getElem?_set]
  by_cases h : n = m
  · subst h
    by_cases h2 : n < t.g.length <;> simp [h2]
  · simp [h]

/-- Raising flags changes %fstat alone. -/
theorem raise_eq (s : State) (f : Flags) : s.raise f = s.setCth { s.cth with fstat := s.cth.fstat ||| f } := rfl

end Sys2Proof.Laws
end

