-- ==== Sys2Proof/Laws/Memory.lean ====
section
/-! SUPPORT. The byte store: a read after a write, what a write leaves, and that every operation on memory keeps the canonical form. -/

namespace Sys2Proof.Laws

open Sys2Proof.Machine

/-- A store whose keys lie above `l` has them above every smaller bound. -/
theorem above_mono {l k : Nat} {m : Memory} (h : Memory.above (some l) m = true) (hk : k ≤ l) : Memory.above (some k) m = true := by
  cases m with
  | nil => rfl
  | cons c r =>
    simp only [Memory.above, Bool.and_eq_true, decide_eq_true_eq, bne_iff_ne] at h ⊢
    exact ⟨⟨by omega, h.1.2⟩, h.2⟩

/-- A store above any bound is in canonical form. -/
theorem wf_of_above {l : Nat} {m : Memory} (h : Memory.above (some l) m = true) : m.wf = true := by
  cases m with
  | nil => rfl
  | cons c r => simp_all [Memory.wf, Memory.above]

/-- A key below the bound is not listed. -/
theorem get_below {l k : Nat} {m : Memory} (h : Memory.above (some l) m = true) (hk : k ≤ l) : m.get k = 0#8 := by
  cases m with
  | nil => rfl
  | cons c r =>
    simp only [Memory.above, Bool.and_eq_true, decide_eq_true_eq] at h
    simp only [Memory.get]
    rw [if_neg (by omega), if_pos (by omega)]

/-- Storing a byte above a bound keeps the store above it. -/
theorem above_set {l k : Nat} {m : Memory} {v : Byte} (h : Memory.above (some l) m = true) (hk : l < k) :
    Memory.above (some l) (m.set k v) = true := by
  induction m generalizing l with
  | nil => by_cases hv : v = 0#8 <;> simp [Memory.set, Memory.above, hv, hk]
  | cons c r ih =>
    obtain ⟨a, w⟩ := c
    have h0 := h
    simp only [Memory.above, Bool.and_eq_true, decide_eq_true_eq, bne_iff_ne] at h
    simp only [Memory.set]
    split
    · split
      · exact h0
      · simp_all [Memory.above]
    · split
      · split
        · exact above_mono h.2 (by omega)
        · subst k; simp_all [Memory.above]
      · simp only [Memory.above, Bool.and_eq_true, decide_eq_true_eq, bne_iff_ne]
        exact ⟨h.1, ih h.2 (by omega)⟩

/-- Storing a byte keeps the canonical form. -/
theorem wf_set {m : Memory} (h : m.wf = true) (k : Nat) (v : Byte) : (m.set k v).wf = true := by
  cases m with
  | nil => by_cases hv : v = 0#8 <;> simp [Memory.wf, Memory.set, Memory.above, hv]
  | cons c r =>
    obtain ⟨a, w⟩ := c
    have h0 := h
    simp only [Memory.wf, Memory.above, Bool.and_eq_true, bne_iff_ne] at h
    simp only [Memory.set]
    split
    · split
      · exact h0
      · simp_all [Memory.wf, Memory.above]
    · split
      · split
        · exact wf_of_above h.2
        · subst k; simp_all [Memory.wf, Memory.above]
      · simp only [Memory.wf, Memory.above, Bool.and_eq_true, bne_iff_ne]
        exact ⟨h.1, above_set h.2 (by omega)⟩

/-- Storing consecutive bytes keeps the canonical form. -/
theorem wf_setAll {m : Memory} (h : m.wf = true) (k : Nat) (bs : List Byte) : (m.setAll k bs).wf = true := by
  induction bs generalizing m k with
  | nil => exact h
  | cons b bs ih => exact ih (wf_set h k b) (k + 1)

/-- Storing bytes at listed keys keeps the canonical form. -/
theorem wf_foldl_set {α : Type} {m : Memory} (h : m.wf = true) (f : α → Nat) (g : α → Byte) (l : List α) :
    (l.foldl (fun m c => Memory.set m (f c) (g c)) m).wf = true := by
  induction l generalizing m with
  | nil => exact h
  | cons c l ih => exact ih (wf_set h _ _)

/-- Dropping cells keeps a store above its bound. -/
theorem above_filter {l : Nat} {m : Memory} (p : Host.Cell → Bool) (h : Memory.above (some l) m = true) :
    Memory.above (some l) (m.filter p) = true := by
  induction m generalizing l with
  | nil => rfl
  | cons c r ih =>
    obtain ⟨a, w⟩ := c
    simp only [Memory.above, Bool.and_eq_true, decide_eq_true_eq, bne_iff_ne] at h
    simp only [List.filter_cons]
    split
    · simp only [Memory.above, Bool.and_eq_true, decide_eq_true_eq, bne_iff_ne]
      exact ⟨h.1, ih h.2⟩
    · exact above_mono (ih h.2) (by omega)

/-- Dropping cells keeps the canonical form. -/
theorem wf_filter {m : Memory} (p : Host.Cell → Bool) (h : m.wf = true) : Memory.wf (m.filter p) = true := by
  cases m with
  | nil => rfl
  | cons c r =>
    obtain ⟨a, w⟩ := c
    simp only [Memory.wf, Memory.above, Bool.and_eq_true, bne_iff_ne] at h
    simp only [List.filter_cons]
    split
    · simp only [Memory.wf, Memory.above, Bool.and_eq_true, bne_iff_ne]
      exact ⟨h.1, above_filter p h.2⟩
    · exact wf_of_above (above_filter p h.2)

/-- Reading a store above a bound at the byte just written. -/
theorem get_set_above {l k : Nat} {m : Memory} {v : Byte} (h : Memory.above (some l) m = true) (hk : l < k) : (m.set k v).get k = v := by
  induction m generalizing l with
  | nil => by_cases hv : v = 0#8 <;> simp [Memory.set, Memory.get, hv]
  | cons c r ih =>
    obtain ⟨a, w⟩ := c
    simp only [Memory.above, Bool.and_eq_true, decide_eq_true_eq] at h
    simp only [Memory.set]
    split
    · split
      · rename_i hv; rw [hv]; simp only [Memory.get]; rw [if_neg (by omega), if_pos (by omega)]
      · simp [Memory.get]
    · split
      · subst k
        split
        · rename_i hv; rw [hv]; exact get_below h.2 (Nat.le_refl _)
        · simp [Memory.get]
      · simp only [Memory.get]; rw [if_neg (by omega), if_neg (by omega)]; exact ih h.2 (by omega)

/-- A byte just written reads back. -/
theorem get_set_self {m : Memory} (h : m.wf = true) (k : Nat) (v : Byte) : (m.set k v).get k = v := by
  cases m with
  | nil => by_cases hv : v = 0#8 <;> simp [Memory.set, Memory.get, hv]
  | cons c r =>
    obtain ⟨a, w⟩ := c
    simp only [Memory.wf, Memory.above, Bool.and_eq_true] at h
    simp only [Memory.set]
    split
    · split
      · rename_i hv; rw [hv]; simp only [Memory.get]; rw [if_neg (by omega), if_pos (by omega)]
      · simp [Memory.get]
    · split
      · subst k
        split
        · rename_i hv; rw [hv]; exact get_below h.2 (Nat.le_refl _)
        · simp [Memory.get]
      · simp only [Memory.get]; rw [if_neg (by omega), if_neg (by omega)]; exact get_set_above h.2 (by omega)

/-- Reading a store above a bound away from the byte written. -/
theorem get_set_ne_above {l j k : Nat} {m : Memory} {v : Byte} (h : Memory.above (some l) m = true) (hj : j ≠ k) :
    (m.set k v).get j = m.get j := by
  induction m generalizing l with
  | nil => by_cases hv : v = 0#8 <;> simp [Memory.set, Memory.get, hv, hj]
  | cons c r ih =>
    obtain ⟨a, w⟩ := c
    simp only [Memory.above, Bool.and_eq_true, decide_eq_true_eq] at h
    simp only [Memory.set]
    split
    · split
      · rfl
      · simp only [Memory.get, hj, if_false]
        split
        · rw [if_neg (by omega), if_pos (by omega)]
        · rfl
    · split
      · subst k
        split
        · simp only [Memory.get, hj, if_false]
          split
          · exact get_below h.2 (by omega)
          · rfl
        · simp [Memory.get, hj]
      · simp only [Memory.get, ih h.2]

/-- Every other byte reads as before. -/
theorem get_set_ne {m : Memory} (h : m.wf = true) {j k : Nat} (v : Byte) (hj : j ≠ k) : (m.set k v).get j = m.get j := by
  cases m with
  | nil => by_cases hv : v = 0#8 <;> simp [Memory.set, Memory.get, hv, hj]
  | cons c r =>
    obtain ⟨a, w⟩ := c
    simp only [Memory.wf, Memory.above, Bool.and_eq_true] at h
    simp only [Memory.set]
    split
    · split
      · rfl
      · simp only [Memory.get, hj, if_false]
        split
        · rw [if_neg (by omega), if_pos (by omega)]
        · rfl
    · split
      · subst k
        split
        · simp only [Memory.get, hj, if_false]
          split
          · exact get_below h.2 (by omega)
          · rfl
        · simp [Memory.get, hj]
      · simp only [Memory.get, get_set_ne_above h.2 hj]

/-- Bytes stored at keys leave every other key. -/
theorem get_foldl_set_out {m : Memory} (h : m.wf = true) {j : Nat} (l : List (Nat × Byte)) (hj : j ∉ l.map (·.1)) :
    (l.foldl (fun m kb => Memory.set m kb.1 kb.2) m).get j = m.get j := by
  induction l generalizing m with
  | nil => rfl
  | cons c l ih =>
    simp only [List.map_cons, List.mem_cons, not_or] at hj
    rw [List.foldl_cons, ih (wf_set h _ _) hj.2, get_set_ne h _ hj.1]

/-- Consecutive bytes leave every key outside them. -/
theorem get_setAll_out {m : Memory} (h : m.wf = true) {j k : Nat} (bs : List Byte) (hj : j < k ∨ k + bs.length ≤ j) :
    (m.setAll k bs).get j = m.get j := by
  induction bs generalizing m k with
  | nil => rfl
  | cons b bs ih =>
    simp only [List.length_cons] at hj
    rw [Memory.setAll, ih (wf_set h _ _) (by omega), get_set_ne h _ (by omega)]

/-- Consecutive bytes read back. -/
theorem get_setAll_in {m : Memory} (h : m.wf = true) {k i : Nat} (bs : List Byte) (hi : i < bs.length) :
    (m.setAll k bs).get (k + i) = bs[i] := by
  induction bs generalizing m k i with
  | nil => simp at hi
  | cons b bs ih =>
    cases i with
    | zero => rw [Memory.setAll, get_setAll_out (wf_set h _ _) _ (by omega)]; exact get_set_self h _ _
    | succ n =>
      have := ih (wf_set h k b) (k := k + 1) (i := n) (by simpa using hi)
      rw [Memory.setAll, show k + (n + 1) = k + 1 + n by omega, this]; rfl

/-- After reset both stores are in canonical form. -/
theorem reset_stores_wf : Memory.wf State.reset.mem = true ∧ Memory.wf State.reset.window = true := by decide

/-- A field of the window keeps its form. -/
theorem window_setWin {s : State} (h : Memory.wf s.window = true) (o n v : Nat) : Memory.wf (s.setWin o n v).window = true := wf_setAll h _ _

/-- What enters an agent's visible sets leaves memory. -/
@[simp] theorem mem_take (s : State) (a : Agent) (ws : List Nat) : (s.take a ws).mem = s.mem := by
  unfold State.take; repeat' (first | rfl | split)

/-- The marks of visible writes leave memory. -/
@[simp] theorem mem_setMarks (s : State) (a : Agent) (r w : List Nat) : (s.setMarks a r w).mem = s.mem := rfl

/-- An edge leaves memory. -/
@[simp] theorem mem_see (s : State) (a : Agent) (ws : List Nat) : (s.see a ws).mem = s.mem := by simp [State.see]

/-- An observation leaves memory. -/
@[simp] theorem mem_note (s : State) (a : Agent) (ws : List Nat) : (s.note a ws).mem = s.mem := by simp [State.note]

/-- A write of one piece: each of its bytes goes to its key and no other byte changes. -/
theorem mem_storePiece (s : State) (a : Agent) (part va : Nat) (side : Bool) (keys : List Nat) (bytes : List Byte) (home : Bool)
    (carry : List Release) (extra : List Nat) :
    (s.storePiece a part va side keys bytes home carry extra).mem = (keys.zip bytes).foldl (fun m kb => Memory.set m kb.1 kb.2) s.mem := by
  unfold State.storePiece; simp

/-- A write of one piece keeps the canonical form. -/
theorem wf_storePiece {s : State} (h : Memory.wf s.mem = true) (a : Agent) (part va : Nat) (side : Bool) (keys : List Nat) (bytes : List Byte)
    (home : Bool) (carry : List Release) (extra : List Nat) :
    Memory.wf (s.storePiece a part va side keys bytes home carry extra).mem = true := by
  rw [mem_storePiece]; exact wf_foldl_set h _ _ _

/-- A fold of operations that keep a property of the state keeps it. -/
theorem foldl_keeps {α β : Type} (P : β → Prop) (f : β → α → β) (hf : ∀ b a, P b → P (f b a)) (l : List α) (b : β) (hb : P b) : P (l.foldl f b) := by
  induction l generalizing b with
  | nil => exact hb
  | cons a l ih => exact ih _ (hf _ _ hb)

/-- A write in pieces keeps the canonical form. -/
theorem wf_storeBytes {s : State} (h : Memory.wf s.mem = true) (a : Agent) (part va : Nat) (side : Bool) (keys : List Nat) (bytes : List Byte)
    (n : Nat) : Memory.wf (s.storeBytes a part va side keys bytes n).mem = true := by
  unfold State.storeBytes
  exact foldl_keeps (fun r : State × Nat => Memory.wf r.1.mem = true) _ (fun r p hr => wf_storePiece hr _ _ _ _ _ _ _ _ _) _ _ h

/-- A byte that takes another key's view keeps the canonical form. -/
theorem wf_reveil {s : State} (h : Memory.wf s.mem = true) (k : Nat) (d : Byte) : Memory.wf (s.reveil k d).mem = true := wf_set h _ _

/-- Replacing the counters of a block leaves memory. -/
@[simp] theorem mem_setEnc (s : State) (b : EncBlock) : (s.setEnc b).mem = s.mem := rfl

/-- A line that comes under a key keeps the canonical form. -/
theorem wf_sealLine {s : State} (h : Memory.wf s.mem = true) (part line : Nat) : Memory.wf (s.sealLine part line).mem = true := by
  unfold State.sealLine
  dsimp only
  split
  · exact h
  · rw [mem_setEnc]
    exact foldl_keeps (fun st : State => Memory.wf st.mem = true) _ (fun st k hs => wf_reveil hs _ _) _ _ h

/-- A write of an encrypted line keeps the canonical form. -/
theorem wf_encLine {s : State} (h : Memory.wf s.mem = true) (part line : Nat) : Memory.wf (s.encLine part line).mem = true := by
  unfold State.encLine
  dsimp only
  generalize hr : ((s.sealLine part line).encBlock (line / 64)).bump (line % 64) = r
  obtain ⟨b, again, full⟩ := r
  dsimp only
  split
  · exact wf_sealLine h _ _
  · rw [mem_setEnc]
    split
    · exact foldl_keeps (fun st : State => Memory.wf st.mem = true) _ (fun st i hs => wf_sealLine hs _ _) _ _ (wf_sealLine h _ _)
    · exact wf_sealLine h _ _

/-- Encrypted lines that are about to be written keep the canonical form. -/
theorem wf_encWrite {s : State} (h : Memory.wf s.mem = true) (part : Nat) (ls : List Loc) : Memory.wf (s.encWrite part ls).mem = true := by
  unfold State.encWrite
  exact foldl_keeps (fun st : State => Memory.wf st.mem = true) _ (fun st ln hs => wf_encLine hs _ _) _ _ h

/-- Bytes of which none is encrypted advance no counter. -/
theorem encWrite_plain (s : State) (part : Nat) (ls : List Loc) (h : ls.all (fun l => !l.enc) = true) : s.encWrite part ls = s := by
  have : ls.filter (·.enc) = [] := by
    simp only [List.all_eq_true, Bool.not_eq_true'] at h
    simp only [List.filter_eq_nil_iff]
    intro a ha; simp [h a ha]
  simp [State.encWrite, this]

/-- Bytes of which none is encrypted are the same in the store and in the view while no line is encrypted. -/
theorem unmask_plain (s : State) (part : Nat) (ls : List Loc) (bs : List Byte) (he : s.svc.enc = []) (h : ls.all (fun l => !l.enc) = true) :
    s.unmask part ls bs = bs := by simp [State.unmask, he, h]

/-- What a run of bytes held is dropped without breaking the canonical form. -/
theorem wf_clearRun {s : State} (h : Memory.wf s.mem = true) (base size : Nat) : Memory.wf (s.clearRun base size).mem = true := wf_filter _ h

/-- Bytes that take other keys keep the canonical form. -/
theorem wf_moved {m : Memory} (h : m.wf = true) (f : Nat → Nat) : (m.moved f).wf = true := by
  unfold Memory.moved; exact wf_foldl_set (wf_filter _ h) _ _ _

/-- A page that moves keeps the canonical form. -/
theorem wf_movePage {s : State} (h : Memory.wf s.mem = true) (m : Migration) : Memory.wf (s.movePage m).mem = true := by
  unfold State.movePage
  dsimp only
  refine foldl_keeps (fun st : State => Memory.wf st.mem = true) _ (fun st i hs => ?_) _ _ (wf_foldl_set (wf_clearRun h _ _) _ _ _)
  exact foldl_keeps (fun st : State => Memory.wf st.mem = true) _ (fun st j hs => wf_reveil hs _ _) _ _ hs

/-- Code placed where a thread fetches keeps the canonical form. -/
theorem wf_storeCode {s s' : State} (h : Memory.wf s.mem = true) {t : Nat} {bytes : List Byte} (hs : s.storeCode t bytes = some s') : Memory.wf s'.mem = true := by
  simp only [State.storeCode, Option.map_eq_some_iff] at hs
  obtain ⟨_, _, rfl⟩ := hs
  exact wf_foldl_set h _ _ _

/-- A masked write of the window keeps its form. -/
theorem window_winWrite {s : State} (h : Memory.wf s.window = true) (mask : Nat → Nat) (off : Nat) (data : List Byte) :
    Memory.wf (s.winWrite mask off data).window = true := by
  unfold State.winWrite
  generalize hr : (s, off) = r
  have hw : Memory.wf r.1.window = true := by rw [← hr]; exact h
  clear hr
  induction data generalizing r with
  | nil => exact hw
  | cons b bs ih => exact ih _ (wf_set hw _ _)

/-- An answer in the mailbox keeps the window's form. -/
theorem window_mailAnswer {s : State} (h : Memory.wf s.window = true) (resp : List Byte) (seq status : Nat) :
    Memory.wf (s.mailAnswer resp seq status).window = true := by
  unfold State.mailAnswer
  exact window_setWin (window_setWin (window_setWin (wf_setAll h _ _) _ _ _) _ _ _) _ _ _

end Sys2Proof.Laws
end

