-- ==== Sys2Proof/Laws/Ops.lean ====
section
/-! SUPPORT. What the shared operations can do: sorting, pointers, blocking, settling a source, choosing the writes a read returns, issuing an operation. -/

namespace Sys2Proof.Laws

open Sys2Proof.Machine

/-- Insertion adds its element and nothing else. -/
theorem insertSorted_perm {α : Type} (le : α → α → Bool) (x : α) (xs : List α) : (insertSorted le x xs).Perm (x :: xs) := by
  induction xs with
  | nil => exact .refl _
  | cons y ys ih =>
    simp only [insertSorted]
    split
    · exact .refl _
    · exact (ih.cons y).trans (.swap x y ys)

/-- A sorted list has the same elements. -/
theorem sorted_perm {α : Type} (xs : List α) (le : α → α → Bool) : (sorted xs le).Perm xs := by
  induction xs with
  | nil => exact .refl _
  | cons x xs ih => exact (insertSorted_perm le x _).trans (ih.cons x)

/-- A sorted list is in order, where the order is transitive and total. -/
theorem sorted_pairwise {α : Type} {le : α → α → Bool} (trans : ∀ a b c, le a b = true → le b c = true → le a c = true)
    (total : ∀ a b, le a b = true ∨ le b a = true) (xs : List α) : (sorted xs le).Pairwise fun a b => le a b = true := by
  have step : ∀ x ys, (ys : List α).Pairwise (fun a b => le a b = true) → (insertSorted le x ys).Pairwise fun a b => le a b = true := by
    intro x ys h
    induction ys with
    | nil => simp [insertSorted]
    | cons y ys ih =>
      obtain ⟨hy, hs⟩ := List.pairwise_cons.mp h
      simp only [insertSorted]
      split
      · next hxy => exact List.pairwise_cons.mpr ⟨fun z hz => (List.mem_cons.mp hz).elim (· ▸ hxy) fun hz => trans x y z hxy (hy z hz), h⟩
      · next hxy =>
        refine List.pairwise_cons.mpr ⟨fun z hz => ?_, ih hs⟩
        rcases List.mem_cons.mp ((insertSorted_perm le x ys).mem_iff.mp hz) with rfl | hz
        · exact (total z y).resolve_left hxy
        · exact hy z hz
  induction xs with
  | nil => exact .nil
  | cons x xs ih => exact step x _ ih
/-- The index of a pointer that was composed. -/
@[simp] theorem ptrBuf_mkPtr (b o : Nat) : ptrBuf (mkPtr b o) = b % 2 ^ 16 := by
  simp only [ptrBuf, mkPtr, BitVec.toNat_ofNat]; omega

/-- The offset of a pointer that was composed. -/
@[simp] theorem ptrOff_mkPtr (b o : Nat) : ptrOff (mkPtr b o) = o % 2 ^ 48 := by
  simp only [ptrOff, mkPtr, BitVec.toNat_ofNat]; omega

/-- A pointer's index is a 16-bit number. -/
theorem ptrBuf_lt (p : DWord) : ptrBuf p < 2 ^ 16 := by have := p.isLt; simp only [ptrBuf]; omega

/-- A pointer is its index and its offset. -/
@[simp] theorem mkPtr_ptr (p : DWord) : mkPtr (ptrBuf p) (ptrOff p) = p := by
  apply BitVec.eq_of_toNat_eq
  have := p.isLt
  simp only [mkPtr, ptrBuf, ptrOff, BitVec.toNat_ofNat]; omega

/-- The fall-through stays in the code's buffer. -/
@[simp] theorem ptrBuf_fallPc (pc : DWord) (len : Nat) : ptrBuf (fallPc pc len) = ptrBuf pc := by
  have := ptrBuf_lt pc; simp only [fallPc, ptrBuf_mkPtr]; omega

/-- A jump stays in the code's buffer. -/
@[simp] theorem ptrBuf_pcAt (pc : DWord) (off : Nat) : ptrBuf (pcAt pc off) = ptrBuf pc := by
  have := ptrBuf_lt pc; simp only [pcAt, ptrBuf_mkPtr]; omega

/-- The fall-through of an aligned instruction is aligned. -/
theorem fallPc_aligned {pc : DWord} {len : Nat} (h : ptrOff pc % 4 = 0) : ptrOff (fallPc pc len) % 4 = 0 := by
  simp only [fallPc, ptrOff_mkPtr]; omega

/-- Blocking touches its thread and the counter. -/
theorem block_eq (s : State) (t : Nat) (w : Wait) :
    s.block t w = { s with threads := s.threads.set t { s.th t with run := .blocked w, listed := .no, since := s.count }, count := s.count + 1 } := rfl

/-- A blocked thread keeps its PC and its registers. -/
theorem th_block {s : State} {t : Nat} (w : Wait) (h : t < s.threads.length) :
    (s.block t w).th t = { s.th t with run := .blocked w, listed := .no, since := s.count } := by
  simp [State.block, State.th, State.setTh, h]

/-- Blocking a thread leaves every other. -/
theorem th_block_ne {s : State} {t u : Nat} (w : Wait) (h : u ≠ t) : (s.block t w).th u = s.th u := by
  simp [State.block, State.th, State.setTh, List.getElem?_set_ne (Ne.symm h)]

/-- A free choice changes the counter of the choices alone. -/
theorem usePick_eq (s : State) : s.usePick = { s with prov := { s.prov with picks := s.prov.picks + 1 } } := rfl

/-- Choosing the writes of a read changes the provenance record alone. -/
theorem pickPiece_eq (s : State) (keys : List Nat) (options : ByteHist → List (Nat × Byte)) (single : Bool) :
    (s.pickPiece keys options single).2 = { s with prov := (s.pickPiece keys options single).2.prov } := by
  unfold State.pickPiece
  split
  · split
    · rfl
    · dsimp only; split <;> rfl
  · suffices h : ∀ (l : List Nat) (r : List (Nat × Byte) × State), r.2 = { s with prov := r.2.prov } →
        (l.foldl (fun (r : List (Nat × Byte) × State) k =>
          (r.1 ++ [choose (0, 0#8) r.2.prov.picks (options (r.2.histAt k))], if (options (r.2.histAt k)).length ≤ 1 then r.2 else r.2.usePick)) r).2
        = { s with prov := (l.foldl (fun (r : List (Nat × Byte) × State) k =>
          (r.1 ++ [choose (0, 0#8) r.2.prov.picks (options (r.2.histAt k))], if (options (r.2.histAt k)).length ≤ 1 then r.2 else r.2.usePick)) r).2.prov } from
      h keys ([], s) rfl
    intro l
    induction l with
    | nil => intro r h; exact h
    | cons k l ih =>
      intro r h
      apply ih
      dsimp only
      split
      · exact h
      · rw [h]; rfl

/-- A read of one piece leaves memory. -/
@[simp] theorem mem_loadPiece (s : State) (a : Agent) (keys : List Nat) (single : Bool) (va : Nat) : (s.loadPiece a keys single va).2.2.mem = s.mem := by
  unfold State.loadPiece
  split
  · simp [State.takeGuess]
  · split
    · rfl
    · have h := pickPiece_eq s keys (fun h => h.mayRead (s.seenBy a)) single
      dsimp only
      rw [mem_note, h]

/-- A read in pieces leaves memory. -/
@[simp] theorem mem_loadBytes (s : State) (a : Agent) (keys : List Nat) (n va : Nat) : (s.loadBytes a keys n va).2.2.mem = s.mem := by
  unfold State.loadBytes
  suffices h : ∀ (ps : List (List Nat)) (r : List Byte × List Nat × State), r.2.2.mem = s.mem →
      (ps.foldl (fun (r : List Byte × List Nat × State) p =>
        (r.1 ++ (r.2.2.loadPiece a p true (va + r.1.length)).1, r.2.1 ++ (r.2.2.loadPiece a p true (va + r.1.length)).2.1,
          (r.2.2.loadPiece a p true (va + r.1.length)).2.2)) r).2.2.mem = s.mem from
    h _ _ rfl
  intro ps
  induction ps with
  | nil => intro r h; exact h
  | cons p ps ih => intro r h; exact ih _ (by simpa using h)

/-- A settled register without a pending future is left alone; every other settling leaves memory. -/
@[simp] theorem mem_settle (s : State) (t n : Nat) : (s.settle t n).mem = s.mem := by
  unfold State.settle State.observe
  repeat' (first | rfl | split | simp)

/-- The handle of a new operation holds its kind, its core and a serial number. -/
theorem fork_handle (s : State) (kind : Nat) (entry : Bool) (phase : Phase) (start : DWord) (body : OpBody) :
    (s.fork kind entry phase start body).1
      = handleWord kind s.cco.core (freeSerial s.ops s.cco.core (s.ops.length + 1) (nth 0 s.serials s.cco.core)) := rfl

end Sys2Proof.Laws
end

