-- ==== Sys2Proof/Tests/Slice0.lean ====
section
/-! SUPPORT. Tests: decoding of words written out from the spec's encodings, ill-formed words, single instructions on small states, and for every
obligation with hypotheses a state and operands that meet them. Expected values come from the spec's examples and rules, or are worked out by hand from
them; the rule stands beside each. -/

namespace Sys2Proof.Tests

open Sys2Proof.Machine

set_option Elab.async false

/-- The bytes decode to the instruction and nothing is left. -/
def reads (bs : List Byte) (i : Instr) : Bool := match decode bs with | .ok (j, []) => i == j | _ => false

/-- The answer is a value with the property. -/
def gives {ε α : Type} (x : Except ε α) (p : α → Bool) : Bool := match x with | .ok a => p a | .error _ => false

/-- The answer is a failure with the property. -/
def fails {ε α : Type} (x : Except ε α) (p : ε → Bool) : Bool := match x with | .ok _ => false | .error e => p e

/-- The state after an instruction; the reset state where it answers none. -/
def go (i : Instr) (s : State) : State := match exec i s with | .next t => t | _ => State.reset

/-- A canonical word in the 64-bit form with guard p0. -/
def w (d a b c : BitVec 8) (mod : BitVec 18) : Canon := ⟨1, 0, d, a, b, c, mod, 0⟩

/-- A canonical word in the 96-bit form with guard p0. -/
def wi (d a b c : BitVec 8) (mod : BitVec 18) (imm : BitVec 32) : Canon := ⟨2, 0, d, a, b, c, mod, imm⟩

/-- Partition 0 with a launch of one cohort of `n` threads on core 0, thread 0 executing at offset 0x8000 of the flat buffer, which the caches of core 0,
of its quad and of the hub hold with every right; 64 registers, `gr` granules of tile space and of scratchpad, a fault handler at `handler` from the entry. -/
def labOf (n gr : Nat) (handler : Word) : State :=
  let s : State := { State.reset with parts := State.reset.parts.set 0 { Part.absent with present := true, nextSeq := 2 }, launches := [placedLaunch],
                                      bufc := [(0, 0, 0, placedEntry), (48, 0, 0, placedEntry)],
                                      tlb1 := [(0, placedLeaf)], tlb2 := [(48, placedLeaf)], svc := { Services.start with booted := true } }
  let r : LaunchRec := { placedRec with nthr := n, tilegr := gr, scrgr := gr, handler := handler }
  { (s.addCohort (Cohort.begin 1 0 0 0 1 r [] [] 0) 0x8000 []) with cur := some 0 }

/-- One thread, 4 KiB of tile space and scratchpad, a handler at 0x100 from the entry. -/
def lab : State := labOf 1 1 0x100

/-- General registers of thread 0 set to values. -/
def State.withG (s : State) (rs : List (Nat × Nat)) : State := rs.foldl (fun st r => st.setTh 0 ((st.th 0).setG r.1 (BitVec.ofNat 32 r.2))) s

/-- Uniform registers of cohort 0 set to values. -/
def State.withK (s : State) (rs : List (Nat × Nat)) : State :=
  s.setCo 0 { s.co 0 with k := rs.foldl (fun k r => k.set r.1 (UCell.start (BitVec.ofNat 64 r.2))) (s.co 0).k }

/-- View registers of cohort 0 set to records. -/
def State.withV (s : State) (rs : List (Nat × View)) : State :=
  s.setCo 0 { s.co 0 with vw := rs.foldl (fun k r => k.set r.1 (UCell.start r.2)) (s.co 0).vw }

/-- A convergence register of cohort 0 set to a team. -/
def State.withC (s : State) (i : Nat) (r : CvReg) : State := s.setCo 0 { s.co 0 with cv := (s.co 0).cv.set i (UCell.start r) }

/-- Bytes of cohort 0's tile space. -/
def State.withTile (s : State) (off : Nat) (bs : List Nat) : State := { s with mem := Memory.setAll s.mem (tileKey 1 off) (bs.map (BitVec.ofNat 8)) }

/-- Bytes of cohort 0's scratchpad. -/
def State.withScr (s : State) (off : Nat) (bs : List Nat) : State := { s with mem := Memory.setAll s.mem (scrKey 1 off) (bs.map (BitVec.ofNat 8)) }

/-- Bytes of global memory, which buffer 0 maps one to one. -/
def State.withMem (s : State) (off : Nat) (bs : List Nat) : State := { s with mem := Memory.setAll s.mem off (bs.map (BitVec.ofNat 8)) }

/-- General register `n` of thread 0 after the instruction, as a number. -/
def outG (i : Instr) (s : State) (n : Nat) : Nat := (((go i s).th 0).gv n).toNat

/-- The flags of thread 0 after the instruction. -/
def outF (i : Instr) (s : State) : Nat := ((go i s).th 0).fstat.toNat

/-- %fcode and %fdetail of thread 0 after the instruction. -/
def outFault (i : Instr) (s : State) : Nat × Nat := (((go i s).th 0).fcode.toNat, ((go i s).th 0).fdetail.toNat)

/-- Each check of R94 refuses a term: a 64-bit form that needs imm32, a forbidden guard, a reserved field, an undefined mod value, an absent imm32, an
unused one, a field outside its class, an odd pair; and imm32 in the 64-bit form (R81), length code 3 (R94). -/
theorem test_ill_formed_refused :
    [Instr.bra (w 0 0 0 0 0), .tsign ⟨1, 1, 0, 0, 0x78, 0, 0, 0⟩, .iadd (w 1 2 3 4 0), .iadd (w 1 2 3 0 4), .iadd (w 1 2 0xFF 0 0), .nop (wi 0 0 0 0 0 1),
      .jmp (w 0 0x60 0 0 0), .jmp (w 0 3 0 0 0), .iadd ⟨1, 0, 1, 2, 3, 0, 0, 5⟩, .iadd ⟨3, 0, 1, 2, 3, 0, 0, 0⟩, .iadd ⟨0, 0, 1, 2, 3, 0, 0, 0⟩,
      .ldW64Short 0 3 0 0].map Instr.wellFormed = List.replicate 12 false := by decide

/-- The marks of those words (R94, R95): REASON and FIELD. -/
theorem test_marks :
    [(0x40, w 0 0 0 0 0), (0x51, ⟨1, 1, 0, 0, 0x78, 0, 0, 0⟩), (0x00, w 1 2 3 4 0), (0x00, w 1 2 3 0 4), (0x00, w 1 2 0xFF 0 0), (0x46, wi 0 0 0 0 0 1),
      (0x41, w 0 0x60 0 0 0), (0x41, w 0 3 0 0 0)].map (fun x => (longErr x.1 x.2).map fun e => (e.reason, e.field))
      = [some (2, 8), some (8, 7), some (3, 4), some (9, 5), some (5, 3), some (4, 6), some (6, 2), some (7, 2)] := by decide

/-- The example of R96: a word at the middle of a longer one has length code 3, and the next one short opcode 0x3A. -/
theorem test_word_in_the_middle :
    fails (decode [0x3F#8, 0#8, 0#8, 0#8, 0xE8#8, 0x03#8, 0#8, 0#8]) (fun e => e == .illegalEncoding 1 8 3 0)
      && fails (decode [0xE8#8, 0x03#8, 0#8, 0#8]) (fun e => e == .illegalOpcode 0x3A true 3) = true := by decide

/-- ATOM.add.w32.us.rel.quad g5, [k4 + 16], g6; MMA vw3, vw1, vw2, cv0; VLD.cvt g5, vw2[3, 8]; STREL.w32.pkg g1, [k1]; CPY.dscr g3, g6, k4, k8: the
bytes of their entries' examples. -/
theorem test_example_words : (
    reads [0xA6#8, 0x41#8, 0x01#8, 0x91#8, 0x01#8, 0x00#8, 0xA0#8, 0x00#8, 0x10#8, 0#8, 0#8, 0#8] (.atomHome (wi 5 0x44 6 0 0x280 16)) &&
    reads [0x41#8, 0xC2#8, 0x5A#8, 0x9A#8, 0x1A#8, 0x1E#8, 0x00#8, 0x00#8] (.mmaFloat (w 0x6B 0x69 0x6A 0x78 0)) &&
    reads [0x09#8, 0x42#8, 0xC1#8, 0xB9#8, 0x9A#8, 0x78#8, 0x02#8, 0x00#8] (.vld (w 5 0xE7 0x6A 0xE2 9)) &&
    reads [0x95#8, 0x41#8, 0x40#8, 0xD0#8, 0x37#8, 0x80#8, 0x00#8, 0x00#8] (.strel (w 1 0x41 0xDF 0 2)) &&
    reads [0x01#8, 0xC3#8, 0x80#8, 0x01#8, 0x11#8, 0x52#8, 0x00#8, 0x00#8] (.cpy (w 3 6 0x44 0x48 1))) = true := by decide

/-- IMAD, IDIV and IREM: the values of R334's example. -/
theorem test_integer_example :
    outG (.imadShort 0 4 5 0xE6) (State.withG lab [(5, 0xFFFFFFFE), (4, 20)]) 4 = 6
    ∧ outG (.idiv (w 1 2 3 0 1)) (State.withG lab [(2, 0xFFFFFFF9), (3, 2)]) 1 = 0xFFFFFFFD
    ∧ outG (.irem (w 1 2 3 0 1)) (State.withG lab [(2, 0xFFFFFFF9), (3, 2)]) 1 = 0xFFFFFFFF
    ∧ outG (.idiv (w 1 2 0xDF 0 0)) (State.withG lab [(2, 9)]) 1 = 0xFFFFFFFF := by decide

/-- IADD saturates under SAT and wraps otherwise; the destination may be a source (R334). -/
theorem test_iadd :
    outG (.iadd (w 1 1 2 0 3)) (State.withG lab [(1, 0x7FFFFFFF), (2, 1)]) 1 = 0x7FFFFFFF
    ∧ outG (.iadd (w 1 1 2 0 0)) (State.withG lab [(1, 0x7FFFFFFF), (2, 1)]) 1 = 0x80000000 := by decide

/-- ISUB.us.sat below zero gives zero; IMULH is the high half of the signed product; IMIN and IMAX follow SG (R334). -/
theorem test_isub_imulh_imin :
    outG (.isub (w 1 2 3 0 2)) (State.withG lab [(2, 1), (3, 2)]) 1 = 0
    ∧ outG (.imulh (w 1 2 3 0 1)) (State.withG lab [(2, 0xFFFFFFFF), (3, 3)]) 1 = 0xFFFFFFFF
    ∧ outG (.imin (w 1 2 3 0 1)) (State.withG lab [(2, 0xFFFFFFFF), (3, 3)]) 1 = 0xFFFFFFFF
    ∧ outG (.imax (w 1 2 3 0 0)) (State.withG lab [(2, 0xFFFFFFFF), (3, 3)]) 1 = 0xFFFFFFFF
    ∧ outG (.imul (w 1 2 3 0 0)) (State.withG lab [(2, 0x10001), (3, 0x10001)]) 1 = 0x20001
    ∧ outG (.iabs (w 1 0 3 0 1)) (State.withG lab [(3, 0xFFFFFFFB)]) 1 = 5
    ∧ outG (.ineg (w 1 0 3 0 1)) (State.withG lab [(3, 5)]) 1 = 0xFFFFFFFB := by decide

/-- AND.w64 zero-extends imm32 (R289); NOT, OR and XOR over 32 bits. -/
theorem test_logic :
    outG (.and (wi 4 2 0xFF 0 4 0xFFFF0000)) (State.withG lab [(2, 0x12345678), (3, 7), (5, 9)]) 4 = 0x12340000
    ∧ outG (.and (wi 4 2 0xFF 0 4 0xFFFF0000)) (State.withG lab [(2, 0x12345678), (3, 7), (5, 9)]) 5 = 0
    ∧ outG (.not (w 4 0 2 0 0)) (State.withG lab [(2, 0x12345678)]) 4 = 0xEDCBA987
    ∧ outG (.or (w 4 2 3 0 0)) (State.withG lab [(2, 0xF0), (3, 0x3C)]) 4 = 0xFC
    ∧ outG (.xor (w 4 2 3 0 0)) (State.withG lab [(2, 0xF0), (3, 0x3C)]) 4 = 0xCC := by decide

/-- A shift by the width or more gives 0, or copies of the sign; ROT by 33 is ROT by 1 (R403, R402, R395). -/
theorem test_shifts :
    outG (.shl (w 1 2 3 0 0)) (State.withG lab [(2, 1), (3, 32)]) 1 = 0
    ∧ outG (.shr (w 1 2 3 0 1)) (State.withG lab [(2, 0x80000000), (3, 99)]) 1 = 0xFFFFFFFF
    ∧ outG (.shr (w 1 2 3 0 0)) (State.withG lab [(2, 0x80000000), (3, 31)]) 1 = 1
    ∧ outG (.rot (w 1 2 3 0 2)) (State.withG lab [(2, 1), (3, 33)]) 1 = 0x80000000 := by decide

/-- BFE and BFI: the example of their entry; POPC, CLZ of 0 and BREV. -/
theorem test_fields :
    outG (.bfe (wi 1 2 0xFF 0 1 0x0408)) (State.withG lab [(2, 0xF00)]) 1 = 0xFFFFFFFF
    ∧ outG (.bfi (wi 1 2 3 0xFF 0 0x081E)) (State.withG lab [(2, 0xFFFFFFFF)]) 1 = 0x3FFFFFFF
    ∧ outG (.popcShort 0 1 2) (State.withG lab [(2, 0xF00F)]) 1 = 8
    ∧ outG (.clz (w 1 0 2 0 0)) lab 1 = 32
    ∧ outG (.brev (w 1 0 2 0 0)) (State.withG lab [(2, 1)]) 1 = 0x80000000 := by decide +kernel

/-- SEL, MOV from a predicate, MOVI into the upper half, ISET into a predicate and PLOP's LUT (R397, R369, R370, R336, R380). -/
theorem test_moves :
    outG (.sel (w 1 2 3 0x60 0)) (State.withG lab [(2, 5), (3, 6)]) 1 = 5
    ∧ outG (.mov (w 1 0 0x60 0 0)) lab 1 = 1
    ∧ outG (.moviHighHalf (wi 2 0 0 0 0 7)) (State.withG lab [(2, 3), (3, 4)]) 3 = 7
    ∧ outG (.moviLow (wi 2 0 0 0 0 7)) lab 2 = 7
    ∧ ((go (.isetLtSgShort 0 3 1 0xDF) (State.withG lab [(1, 0xFFFFFFFF)])).th 0).pv 3 = true
    ∧ outG (.plop (w 1 0xE0 0xDF 0xE0 0x20)) lab 1 = 1 ∧ outG (.plop (w 1 0xE0 0xE0 0xE0 0x20)) lab 1 = 0 := by decide

/-- The unsigned 8-bit saturating add of 200 and 100 gives 255; the bytes do not carry into each other (R379). -/
theorem test_padd :
    outG (.padd (w 1 2 3 0 8)) (State.withG lab [(2, 200), (3, 100)]) 1 = 255
    ∧ outG (.padd (w 1 2 3 0 0)) (State.withG lab [(2, 0x00FF00C8), (3, 0x00010064)]) 1 = 0x2C := by decide

/-- IADD (64-bit) carries into the high half; DP4 sums signed and unsigned products (R335, R320). -/
theorem test_wide :
    outG (.iadd64Bit (w 4 2 0xE0 0 0)) (State.withG lab [(2, 0xFFFFFFFF), (3, 1)]) 5 = 2
    ∧ outG (.dp4 (w 1 2 3 0xE0 3)) (State.withG lab [(2, 0x010203FF), (3, 0x01010102)]) 1 = 5 := by decide

/-- FADD rounds once: 1.0 + 2⁻²⁴ is a tie to even and raises NX; ∞ − ∞ is the default NaN with NV (R110, R117). -/
theorem test_fadd :
    outG (.fadd (w 1 2 3 0 0)) (State.withG lab [(2, 0x3F800000), (3, 0x33800000)]) 1 = 0x3F800000
    ∧ outF (.fadd (w 1 2 3 0 0)) (State.withG lab [(2, 0x3F800000), (3, 0x33800000)]) = NX.toNat
    ∧ outG (.fadd (w 1 2 3 0 3)) (State.withG lab [(2, 0x3F800000), (3, 0x33800000)]) 1 = 0x3F800001
    ∧ outF (.fsub (w 1 2 3 0 0)) (State.withG lab [(2, 0x7F800000), (3, 0x7F800000)]) = NV.toNat := by decide

/-- Long words of the integer opcodes, from the layout of R80 and the opcode map of R96. -/
theorem test_long_words_integer : (
    reads [0x02#8, 0x68#8, 0xC1#8, 0xC0#8, 0x3F#8, 0x80#8, 0x00#8, 0x00#8, 0xE8#8, 0x03#8, 0x00#8, 0x00#8] (.iadd ⟨2, 10, 0x05, 0x03, 0xFF, 0x00, 0x2, 0x3E8⟩) &&
    reads [0x05#8, 0xC0#8, 0x10#8, 0x81#8, 0x39#8, 0xC0#8, 0x00#8, 0x00#8] (.isub ⟨1, 0, 0x43, 0x04, 0xE6, 0x00, 0x3, 0x0⟩) &&
    reads [0x09#8, 0x40#8, 0xC2#8, 0x57#8, 0x19#8, 0x40#8, 0x00#8, 0x00#8] (.imul ⟨1, 0, 0x09, 0x5F, 0x65, 0x00, 0x1, 0x0⟩) &&
    reads [0x0D#8, 0x40#8, 0xC2#8, 0x57#8, 0x19#8, 0x40#8, 0x00#8, 0x00#8] (.imulh ⟨1, 0, 0x09, 0x5F, 0x65, 0x00, 0x1, 0x0⟩) &&
    reads [0x11#8, 0x40#8, 0x80#8, 0xC0#8, 0x00#8, 0x41#8, 0x00#8, 0x00#8] (.imad ⟨1, 0, 0x01, 0x02, 0x03, 0x04, 0x1, 0x0⟩) &&
    reads [0x16#8, 0x8C#8, 0xC1#8, 0xC1#8, 0x3F#8, 0x40#8, 0x00#8, 0x00#8, 0xFF#8, 0xFF#8, 0xFF#8, 0xFF#8] (.idiv ⟨2, 3, 0x06, 0x07, 0xFF, 0x00, 0x1, 0xFFFFFFFF⟩) &&
    reads [0x1A#8, 0x8C#8, 0xC1#8, 0xC1#8, 0x3F#8, 0x40#8, 0x00#8, 0x00#8, 0xFF#8, 0xFF#8, 0xFF#8, 0xFF#8] (.irem ⟨2, 3, 0x06, 0x07, 0xFF, 0x00, 0x1, 0xFFFFFFFF⟩) &&
    reads [0x1D#8, 0x40#8, 0xC2#8, 0x57#8, 0x19#8, 0x40#8, 0x00#8, 0x00#8] (.imin ⟨1, 0, 0x09, 0x5F, 0x65, 0x00, 0x1, 0x0⟩) &&
    reads [0x21#8, 0x40#8, 0xC2#8, 0x57#8, 0x19#8, 0x40#8, 0x00#8, 0x00#8] (.imax ⟨1, 0, 0x09, 0x5F, 0x65, 0x00, 0x1, 0x0⟩) &&
    reads [0x25#8, 0x80#8, 0x02#8, 0xC0#8, 0x02#8, 0x00#8, 0x00#8, 0x00#8] (.iabs ⟨1, 0, 0x0A, 0x00, 0x0B, 0x00, 0x0, 0x0⟩) &&
    reads [0x29#8, 0x80#8, 0x02#8, 0xC0#8, 0x02#8, 0x00#8, 0x00#8, 0x00#8] (.ineg ⟨1, 0, 0x0A, 0x00, 0x0B, 0x00, 0x0, 0x0⟩)) = true := by decide

/-- Long words of the logic and move opcodes, from the layout of R80 and the opcode map of R96. -/
theorem test_long_words_logic_and_move_1 : (
    reads [0x2E#8, 0x80#8, 0x00#8, 0xD1#8, 0x3F#8, 0x00#8, 0x01#8, 0x00#8, 0x00#8, 0x00#8, 0x00#8, 0x80#8] (.and ⟨2, 0, 0x02, 0x44, 0xFF, 0x00, 0x4, 0x80000000⟩) &&
    reads [0x31#8, 0xC0#8, 0x8F#8, 0x4F#8, 0x0F#8, 0x00#8, 0x00#8, 0x00#8] (.or ⟨1, 0, 0x3F, 0x3E, 0x3D, 0x00, 0x0, 0x0⟩) &&
    reads [0x35#8, 0xC0#8, 0x8F#8, 0x4F#8, 0x0F#8, 0x00#8, 0x00#8, 0x00#8] (.xor ⟨1, 0, 0x3F, 0x3E, 0x3D, 0x00, 0x0, 0x0⟩) &&
    reads [0x39#8, 0x00#8, 0x01#8, 0x80#8, 0x01#8, 0x00#8, 0x01#8, 0x00#8] (.not ⟨1, 0, 0x04, 0x00, 0x06, 0x00, 0x4, 0x0⟩) &&
    reads [0x3D#8, 0x80#8, 0x50#8, 0xC1#8, 0x38#8, 0x00#8, 0x00#8, 0x00#8] (.shl ⟨1, 0, 0x42, 0x05, 0xE3, 0x00, 0x0, 0x0⟩) &&
    reads [0x41#8, 0xC0#8, 0x01#8, 0x42#8, 0x02#8, 0x40#8, 0x00#8, 0x00#8] (.shr ⟨1, 0, 0x07, 0x08, 0x09, 0x00, 0x1, 0x0⟩) &&
    reads [0x45#8, 0x00#8, 0x82#8, 0x82#8, 0x38#8, 0x80#8, 0x01#8, 0x00#8] (.rot ⟨1, 0, 0x08, 0x0A, 0xE2, 0x00, 0x6, 0x0⟩) &&
    reads [0x49#8, 0x64#8, 0x00#8, 0x40#8, 0x20#8, 0x00#8, 0x00#8, 0x00#8] (.popc ⟨1, 9, 0x01, 0x00, 0x81, 0x00, 0x0, 0x0⟩) &&
    reads [0x4D#8, 0x64#8, 0x00#8, 0x40#8, 0x20#8, 0x00#8, 0x00#8, 0x00#8] (.clz ⟨1, 9, 0x01, 0x00, 0x81, 0x00, 0x0, 0x0⟩) &&
    reads [0x51#8, 0x64#8, 0x00#8, 0x40#8, 0x20#8, 0x00#8, 0x00#8, 0x00#8] (.brev ⟨1, 9, 0x01, 0x00, 0x81, 0x00, 0x0, 0x0⟩) &&
    reads [0x56#8, 0x40#8, 0x80#8, 0xC0#8, 0x3F#8, 0x40#8, 0x00#8, 0x00#8, 0x05#8, 0x08#8, 0x00#8, 0x00#8] (.bfe ⟨2, 0, 0x01, 0x02, 0xFF, 0x00, 0x1, 0x805⟩) &&
    reads [0x5A#8, 0x40#8, 0x80#8, 0xC0#8, 0xC0#8, 0x3F#8, 0x00#8, 0x00#8, 0x07#8, 0x04#8, 0x00#8, 0x00#8] (.bfi ⟨2, 0, 0x01, 0x02, 0x03, 0xFF, 0x0, 0x407⟩)) = true := by decide

/-- Long words of the logic and move opcodes, from the layout of R80 and the opcode map of R96. -/
theorem test_long_words_logic_and_move_2 : (
    reads [0x5D#8, 0x80#8, 0x00#8, 0x81#8, 0xC1#8, 0x18#8, 0x01#8, 0x00#8] (.sel ⟨1, 0, 0x02, 0x04, 0x06, 0x63, 0x4, 0x0⟩) &&
    reads [0x61#8, 0x80#8, 0x19#8, 0x00#8, 0x38#8, 0x00#8, 0x00#8, 0x00#8] (.mov ⟨1, 0, 0x66, 0x00, 0xE0, 0x00, 0x0, 0x0⟩) &&
    reads [0x66#8, 0x40#8, 0x12#8, 0x00#8, 0x00#8, 0x40#8, 0x00#8, 0x00#8, 0xF0#8, 0xFF#8, 0xFF#8, 0xFF#8] (.moviLow ⟨2, 0, 0x49, 0x00, 0x00, 0x00, 0x1, 0xFFFFFFF0⟩) &&
    reads [0x6A#8, 0x00#8, 0x03#8, 0x00#8, 0x00#8, 0x00#8, 0x00#8, 0x00#8, 0x78#8, 0x56#8, 0x34#8, 0x12#8] (.moviHighHalf ⟨2, 0, 0x0C, 0x00, 0x00, 0x00, 0x0, 0x12345678⟩) &&
    reads [0x6D#8, 0x00#8, 0x59#8, 0x80#8, 0x00#8, 0x40#8, 0x14#8, 0x00#8] (.iset ⟨1, 0, 0x64, 0x01, 0x02, 0x00, 0x51, 0x0⟩) &&
    reads [0x71#8, 0x40#8, 0x98#8, 0xD8#8, 0x18#8, 0x19#8, 0x3A#8, 0x00#8] (.plop ⟨1, 0, 0x61, 0x62, 0x63, 0x64, 0xE8, 0x0⟩)) = true := by decide

/-- Long words of the packed and float opcodes, from the layout of R80 and the opcode map of R96. -/
theorem test_long_words_packed_and_float_1 : (
    reads [0x75#8, 0x40#8, 0x80#8, 0xC0#8, 0x00#8, 0x40#8, 0x07#8, 0x00#8] (.padd ⟨1, 0, 0x01, 0x02, 0x03, 0x00, 0x1D, 0x0⟩) &&
    reads [0x79#8, 0x80#8, 0x00#8, 0x81#8, 0x11#8, 0x80#8, 0x04#8, 0x00#8] (.iadd64Bit ⟨1, 0, 0x02, 0x04, 0x46, 0x00, 0x12, 0x0⟩) &&
    reads [0x7D#8, 0x40#8, 0x80#8, 0xC0#8, 0x00#8, 0xC1#8, 0x01#8, 0x00#8] (.dp4 ⟨1, 0, 0x01, 0x02, 0x03, 0x04, 0x7, 0x0⟩) &&
    reads [0x81#8, 0x40#8, 0x80#8, 0xC0#8, 0x00#8, 0xC0#8, 0x02#8, 0x00#8] (.fadd ⟨1, 0, 0x01, 0x02, 0x03, 0x00, 0xB, 0x0⟩) &&
    reads [0x85#8, 0x40#8, 0x80#8, 0xC0#8, 0x00#8, 0xC0#8, 0x02#8, 0x00#8] (.fsub ⟨1, 0, 0x01, 0x02, 0x03, 0x00, 0xB, 0x0⟩) &&
    reads [0x89#8, 0x40#8, 0x80#8, 0xC0#8, 0x00#8, 0xC0#8, 0x02#8, 0x00#8] (.fmul ⟨1, 0, 0x01, 0x02, 0x03, 0x00, 0xB, 0x0⟩) &&
    reads [0x8D#8, 0x40#8, 0x80#8, 0xC0#8, 0x00#8, 0x01#8, 0x01#8, 0x00#8] (.ffma ⟨1, 0, 0x01, 0x02, 0x03, 0x04, 0x4, 0x0⟩) &&
    reads [0x91#8, 0x40#8, 0x80#8, 0xC0#8, 0x00#8, 0x00#8, 0x02#8, 0x00#8] (.fmin ⟨1, 0, 0x01, 0x02, 0x03, 0x00, 0x8, 0x0⟩) &&
    reads [0x95#8, 0x40#8, 0x80#8, 0xC0#8, 0x00#8, 0x00#8, 0x02#8, 0x00#8] (.fmax ⟨1, 0, 0x01, 0x02, 0x03, 0x00, 0x8, 0x0⟩) &&
    reads [0x99#8, 0x40#8, 0x98#8, 0xC0#8, 0x00#8, 0x00#8, 0x0E#8, 0x00#8] (.fset ⟨1, 0, 0x61, 0x02, 0x03, 0x00, 0x38, 0x0⟩) &&
    reads [0x9D#8, 0x40#8, 0x00#8, 0x80#8, 0x00#8, 0x00#8, 0x0A#8, 0x00#8] (.fsf ⟨1, 0, 0x01, 0x00, 0x02, 0x00, 0x28, 0x0⟩) &&
    reads [0xA1#8, 0x40#8, 0x00#8, 0x80#8, 0x00#8, 0x00#8, 0x24#8, 0x01#8] (.fcvt ⟨1, 0, 0x01, 0x00, 0x02, 0x00, 0x490, 0x0⟩)) = true := by decide

/-- Long words of the packed and float opcodes, from the layout of R80 and the opcode map of R96. -/
theorem test_long_words_packed_and_float_2 : (
    reads [0xA5#8, 0x40#8, 0x80#8, 0xC0#8, 0x00#8, 0x01#8, 0x0C#8, 0x01#8] (.fcvtPack ⟨1, 0, 0x01, 0x02, 0x03, 0x04, 0x430, 0x0⟩) &&
    reads [0xA9#8, 0x80#8, 0x00#8, 0x40#8, 0x01#8, 0x00#8, 0xB4#8, 0x00#8] (.icvt ⟨1, 0, 0x02, 0x00, 0x05, 0x00, 0x2D0, 0x0⟩) &&
    reads [0xAD#8, 0x40#8, 0x80#8, 0xC0#8, 0x00#8, 0x41#8, 0x06#8, 0x00#8] (.pfma ⟨1, 0, 0x01, 0x02, 0x03, 0x04, 0x19, 0x0⟩) &&
    reads [0xB1#8, 0x80#8, 0x00#8, 0x81#8, 0x01#8, 0x02#8, 0x06#8, 0x00#8] (.cfma ⟨1, 0, 0x02, 0x04, 0x06, 0x08, 0x18, 0x0⟩) &&
    reads [0xB5#8, 0x40#8, 0x00#8, 0x80#8, 0x00#8, 0x00#8, 0x04#8, 0x01#8] (.fclass ⟨1, 0, 0x01, 0x00, 0x02, 0x00, 0x410, 0x0⟩) &&
    reads [0xB9#8, 0x40#8, 0x80#8, 0xC0#8, 0x00#8, 0x41#8, 0x06#8, 0x00#8] (.dp2 ⟨1, 0, 0x01, 0x02, 0x03, 0x04, 0x19, 0x0⟩) &&
    reads [0xBD#8, 0x40#8, 0x00#8, 0x80#8, 0x00#8, 0xC0#8, 0x00#8, 0x00#8] (.frnd ⟨1, 0, 0x01, 0x00, 0x02, 0x00, 0x3, 0x0⟩) &&
    reads [0xC2#8, 0x40#8, 0x80#8, 0xC0#8, 0x3F#8, 0x00#8, 0x00#8, 0x00#8, 0xFF#8, 0xFF#8, 0xFF#8, 0xFF#8] (.fscl ⟨2, 0, 0x01, 0x02, 0xFF, 0x00, 0x0, 0xFFFFFFFF⟩)) = true := by decide

/-- Long words of the control and team opcodes, from the layout of R80 and the opcode map of R96. -/
theorem test_long_words_control_and_team_1 : (
    reads [0x02#8, 0x05#8, 0x00#8, 0x00#8, 0x00#8, 0x40#8, 0x00#8, 0x00#8, 0xF8#8, 0xFF#8, 0xFF#8, 0xFF#8] (.bra ⟨2, 1, 0x00, 0x00, 0x00, 0x00, 0x1, 0xFFFFFFF8⟩) &&
    reads [0x05#8, 0x01#8, 0x80#8, 0x00#8, 0x00#8, 0x00#8, 0x00#8, 0x00#8] (.jmp ⟨1, 0, 0x00, 0x02, 0x00, 0x00, 0x0, 0x0⟩) &&
    reads [0x0A#8, 0x01#8, 0x01#8, 0x00#8, 0x00#8, 0x00#8, 0x00#8, 0x00#8, 0x00#8, 0x01#8, 0x00#8, 0x00#8] (.callRelative ⟨2, 0, 0x04, 0x00, 0x00, 0x00, 0x0, 0x100⟩) &&
    reads [0x0D#8, 0x81#8, 0x41#8, 0x10#8, 0x00#8, 0x00#8, 0x00#8, 0x00#8] (.callRegister ⟨1, 0, 0x06, 0x41, 0x00, 0x00, 0x0, 0x0⟩) &&
    reads [0x11#8, 0x01#8, 0x00#8, 0x02#8, 0x00#8, 0x00#8, 0x00#8, 0x00#8] (.ret ⟨1, 0, 0x00, 0x08, 0x00, 0x00, 0x0, 0x0⟩) &&
    reads [0x15#8, 0x15#8, 0x00#8, 0x00#8, 0x00#8, 0x00#8, 0x00#8, 0x00#8] (.exit ⟨1, 5, 0x00, 0x00, 0x00, 0x00, 0x0, 0x0⟩) &&
    reads [0x19#8, 0x15#8, 0x00#8, 0x00#8, 0x00#8, 0x00#8, 0x00#8, 0x00#8] (.nop ⟨1, 5, 0x00, 0x00, 0x00, 0x00, 0x0, 0x0⟩) &&
    reads [0x1D#8, 0x15#8, 0x00#8, 0x00#8, 0x00#8, 0x00#8, 0x00#8, 0x00#8] (.yield ⟨1, 5, 0x00, 0x00, 0x00, 0x00, 0x0, 0x0⟩) &&
    reads [0x22#8, 0x01#8, 0x00#8, 0xC0#8, 0x3F#8, 0x00#8, 0x00#8, 0x00#8, 0xCD#8, 0xAB#8, 0x00#8, 0x00#8] (.trap ⟨2, 0, 0x00, 0x00, 0xFF, 0x00, 0x0, 0xABCD⟩) &&
    reads [0x26#8, 0x01#8, 0x00#8, 0xC0#8, 0x3F#8, 0x00#8, 0x00#8, 0x00#8, 0xCD#8, 0xAB#8, 0x00#8, 0x00#8] (.brk ⟨2, 0, 0x00, 0x00, 0xFF, 0x00, 0x0, 0xABCD⟩) &&
    reads [0x29#8, 0x21#8, 0x00#8, 0x00#8, 0xC0#8, 0x1E#8, 0x00#8, 0x00#8] (.lser ⟨1, 8, 0x00, 0x00, 0x00, 0x7B, 0x0, 0x0⟩) &&
    reads [0x2D#8, 0x21#8, 0x00#8, 0x00#8, 0xC0#8, 0x1E#8, 0x00#8, 0x00#8] (.lsend ⟨1, 8, 0x00, 0x00, 0x00, 0x7B, 0x0, 0x0⟩)) = true := by decide

/-- Long words of the control and team opcodes, from the layout of R80 and the opcode map of R96. -/
theorem test_long_words_control_and_team_2 : (
    reads [0x31#8, 0x15#8, 0x00#8, 0x00#8, 0x00#8, 0x00#8, 0x00#8, 0x00#8] (.idem ⟨1, 5, 0x00, 0x00, 0x00, 0x00, 0x0, 0x0⟩) &&
    reads [0x35#8, 0x15#8, 0x00#8, 0x00#8, 0x00#8, 0x00#8, 0x00#8, 0x00#8] (.idemend ⟨1, 5, 0x00, 0x00, 0x00, 0x00, 0x0, 0x0⟩) &&
    reads [0x39#8, 0x01#8, 0xC0#8, 0x11#8, 0x00#8, 0x00#8, 0x00#8, 0x00#8] (.waitt ⟨1, 0, 0x00, 0x47, 0x00, 0x00, 0x0, 0x0⟩) &&
    reads [0x41#8, 0x41#8, 0x9F#8, 0x02#8, 0x00#8, 0x00#8, 0x00#8, 0x00#8] (.tset ⟨1, 0, 0x7D, 0x0A, 0x00, 0x00, 0x0, 0x0⟩) &&
    reads [0x45#8, 0x01#8, 0x00#8, 0x80#8, 0x1F#8, 0x00#8, 0x00#8, 0x00#8] (.tsign ⟨1, 0, 0x00, 0x00, 0x7E, 0x00, 0x0, 0x0⟩) &&
    reads [0x49#8, 0x41#8, 0x80#8, 0x00#8, 0x40#8, 0xDE#8, 0x00#8, 0x00#8] (.vote ⟨1, 0, 0x01, 0x02, 0x00, 0x79, 0x3, 0x0⟩) &&
    reads [0x4D#8, 0x01#8, 0x81#8, 0xC1#8, 0x3B#8, 0x1E#8, 0x01#8, 0x00#8] (.lanex ⟨1, 0, 0x04, 0x06, 0xEF, 0x78, 0x4, 0x0⟩) &&
    reads [0x51#8, 0x41#8, 0x80#8, 0x00#8, 0x80#8, 0x9E#8, 0x04#8, 0x00#8] (.tred ⟨1, 0, 0x01, 0x02, 0x00, 0x7A, 0x12, 0x0⟩) &&
    reads [0x55#8, 0x41#8, 0x80#8, 0x00#8, 0x80#8, 0x5E#8, 0x08#8, 0x00#8] (.tscan ⟨1, 0, 0x01, 0x02, 0x00, 0x7A, 0x21, 0x0⟩) &&
    reads [0x59#8, 0x21#8, 0x00#8, 0x00#8, 0x00#8, 0x80#8, 0x0A#8, 0x00#8] (.bar ⟨1, 8, 0x00, 0x00, 0x00, 0x00, 0x2A, 0x0⟩) &&
    reads [0x5D#8, 0x01#8, 0x00#8, 0x00#8, 0x00#8, 0x40#8, 0x05#8, 0x00#8] (.barArrive ⟨1, 0, 0x00, 0x00, 0x00, 0x00, 0x15, 0x0⟩)) = true := by decide

/-- Long words of the memory opcodes, from the layout of R80 and the opcode map of R96. -/
theorem test_long_words_memory_1 : (
    reads [0x82#8, 0x01#8, 0x81#8, 0x10#8, 0x00#8, 0xC0#8, 0x04#8, 0x00#8, 0xFF#8, 0xFF#8, 0xFF#8, 0x7F#8] (.ldKBase ⟨2, 0, 0x04, 0x42, 0x00, 0x00, 0x13, 0x7FFFFFFF⟩) &&
    reads [0x86#8, 0x41#8, 0x80#8, 0xC0#8, 0x00#8, 0x40#8, 0x6A#8, 0x00#8, 0xFF#8, 0xFF#8, 0xFF#8, 0xFF#8] (.ldGBaseIndexed ⟨2, 0, 0x01, 0x02, 0x03, 0x00, 0x1A9, 0xFFFFFFFF⟩) &&
    reads [0x8A#8, 0x01#8, 0xC2#8, 0x10#8, 0x00#8, 0x00#8, 0x09#8, 0x00#8, 0x40#8, 0x00#8, 0x00#8, 0x00#8] (.stKBase ⟨2, 0, 0x08, 0x43, 0x00, 0x00, 0x24, 0x40⟩) &&
    reads [0x8D#8, 0x41#8, 0x42#8, 0x91#8, 0x37#8, 0x80#8, 0x30#8, 0x00#8] (.stGBaseIndexed ⟨1, 0, 0x09, 0x45, 0xDE, 0x00, 0xC2, 0x0⟩) &&
    reads [0x92#8, 0xC1#8, 0x40#8, 0x10#8, 0x01#8, 0x80#8, 0x80#8, 0x02#8, 0x08#8, 0x00#8, 0x00#8, 0x00#8] (.ldacq ⟨2, 0, 0x03, 0x41, 0x04, 0x00, 0xA02, 0x8⟩) &&
    reads [0x96#8, 0x81#8, 0x40#8, 0x50#8, 0x01#8, 0xC0#8, 0x80#8, 0x00#8, 0x08#8, 0x00#8, 0x00#8, 0x00#8] (.strel ⟨2, 0, 0x02, 0x41, 0x05, 0x00, 0x203, 0x8⟩) &&
    reads [0x9A#8, 0x41#8, 0x80#8, 0x00#8, 0x00#8, 0x40#8, 0x02#8, 0x00#8, 0x0C#8, 0x00#8, 0x00#8, 0x00#8] (.lds ⟨2, 0, 0x01, 0x02, 0x00, 0x00, 0x9, 0xC⟩) &&
    reads [0x9E#8, 0x41#8, 0x80#8, 0x00#8, 0x00#8, 0x80#8, 0x00#8, 0x0C#8, 0x04#8, 0x00#8, 0x00#8, 0x00#8] (.ldsQuadPeer ⟨2, 0, 0x01, 0x02, 0x00, 0x00, 0x3002, 0x4⟩) &&
    reads [0xA2#8, 0x01#8, 0x81#8, 0x00#8, 0x00#8, 0x00#8, 0x01#8, 0x00#8, 0x10#8, 0x00#8, 0x00#8, 0x00#8] (.sts ⟨2, 0, 0x04, 0x02, 0x00, 0x00, 0x4, 0x10⟩) &&
    reads [0xA6#8, 0x41#8, 0x80#8, 0xC0#8, 0x00#8, 0x00#8, 0xB1#8, 0x00#8, 0x04#8, 0x00#8, 0x00#8, 0x00#8] (.atomHome ⟨2, 0, 0x01, 0x02, 0x03, 0x00, 0x2C4, 0x4⟩) &&
    reads [0xAA#8, 0x81#8, 0x00#8, 0x81#8, 0x01#8, 0x02#8, 0xF8#8, 0x00#8, 0x08#8, 0x00#8, 0x00#8, 0x00#8] (.atomCompareSwap ⟨2, 0, 0x02, 0x04, 0x06, 0x08, 0x3E0, 0x8⟩) &&
    reads [0xAD#8, 0x41#8, 0x80#8, 0xC0#8, 0x00#8, 0x01#8, 0x03#8, 0x00#8] (.atomMemorySide ⟨1, 0, 0x01, 0x02, 0x03, 0x04, 0xC, 0x0⟩)) = true := by decide

/-- Long words of the memory opcodes, from the layout of R80 and the opcode map of R96. -/
theorem test_long_words_memory_2 : (
    reads [0xB1#8, 0x01#8, 0x40#8, 0x50#8, 0x01#8, 0x00#8, 0x20#8, 0x01#8] (.red ⟨1, 0, 0x00, 0x41, 0x05, 0x00, 0x480, 0x0⟩) &&
    reads [0xB5#8, 0x01#8, 0x00#8, 0x00#8, 0x00#8, 0x40#8, 0x01#8, 0x00#8] (.fence ⟨1, 0, 0x00, 0x00, 0x00, 0x00, 0x5, 0x0⟩) &&
    reads [0xB9#8, 0x01#8, 0x80#8, 0x00#8, 0x11#8, 0xC0#8, 0x00#8, 0x00#8] (.fencer ⟨1, 0, 0x00, 0x02, 0x44, 0x00, 0x3, 0x0⟩) &&
    reads [0xBE#8, 0x01#8, 0x40#8, 0x10#8, 0x00#8, 0x00#8, 0x0C#8, 0x00#8, 0x00#8, 0x01#8, 0x00#8, 0x00#8] (.pref ⟨2, 0, 0x00, 0x41, 0x00, 0x00, 0x30, 0x100⟩)) = true := by decide

/-- Long words of the views and matrix opcodes, from the layout of R80 and the opcode map of R96. -/
theorem test_long_words_views_and_matrix_1 : (
    reads [0x01#8, 0xC2#8, 0x1A#8, 0x02#8, 0x03#8, 0x00#8, 0x00#8, 0x00#8] (.vset ⟨1, 0, 0x6B, 0x08, 0x0C, 0x00, 0x0, 0x0⟩) &&
    reads [0x05#8, 0x02#8, 0x04#8, 0x1B#8, 0x00#8, 0x40#8, 0x00#8, 0x00#8] (.vget ⟨1, 0, 0x10, 0x6C, 0x00, 0x00, 0x1, 0x0⟩) &&
    reads [0x09#8, 0x42#8, 0x80#8, 0x40#8, 0xDB#8, 0xC0#8, 0x00#8, 0x00#8] (.vld ⟨1, 0, 0x01, 0x02, 0x6D, 0x03, 0x3, 0x0⟩) &&
    reads [0x0D#8, 0x42#8, 0x80#8, 0x80#8, 0x1B#8, 0x00#8, 0x0E#8, 0x00#8] (.vst ⟨1, 0, 0x01, 0x02, 0x6E, 0x00, 0x38, 0x0⟩) &&
    reads [0x11#8, 0xC2#8, 0x1B#8, 0x00#8, 0x00#8, 0x00#8, 0x00#8, 0x00#8] (.vzero ⟨1, 0, 0x6F, 0x00, 0x00, 0x00, 0x0, 0x0⟩) &&
    reads [0x15#8, 0x42#8, 0x9A#8, 0x1A#8, 0xC0#8, 0x5E#8, 0x04#8, 0x00#8] (.reqnt ⟨1, 0, 0x69, 0x6A, 0x00, 0x7B, 0x11, 0x0⟩) &&
    reads [0x41#8, 0x02#8, 0x5A#8, 0x9A#8, 0x1A#8, 0x1E#8, 0xC0#8, 0x00#8] (.mmaFloat ⟨1, 0, 0x68, 0x69, 0x6A, 0x78, 0x300, 0x0⟩) &&
    reads [0x45#8, 0xC2#8, 0x1A#8, 0x5B#8, 0x5B#8, 0x1E#8, 0x80#8, 0x04#8] (.mmaInteger ⟨1, 0, 0x6B, 0x6C, 0x6D, 0x79, 0x1200, 0x0⟩) &&
    reads [0x49#8, 0x82#8, 0xDB#8, 0x1B#8, 0x9C#8, 0x1E#8, 0x00#8, 0x00#8] (.cmma ⟨1, 0, 0x6E, 0x6F, 0x70, 0x7A, 0x0, 0x0⟩) &&
    reads [0x4D#8, 0x02#8, 0x00#8, 0x00#8, 0x00#8, 0x1F#8, 0x00#8, 0x00#8] (.mchb ⟨1, 0, 0x00, 0x00, 0x00, 0x7C, 0x0, 0x0⟩) &&
    reads [0x51#8, 0xC2#8, 0x01#8, 0x00#8, 0x00#8, 0x5F#8, 0x00#8, 0x00#8] (.mche ⟨1, 0, 0x07, 0x00, 0x00, 0x7C, 0x1, 0x0⟩) &&
    reads [0x56#8, 0x42#8, 0x9A#8, 0xDA#8, 0xFF#8, 0x37#8, 0x00#8, 0x00#8, 0x20#8, 0x00#8, 0x00#8, 0x00#8] (.mcopy ⟨2, 0, 0x69, 0x6A, 0xFF, 0xDF, 0x0, 0x20⟩)) = true := by decide

/-- Long words of the views and matrix opcodes, from the layout of R80 and the opcode map of R96. -/
theorem test_long_words_views_and_matrix_2 : (
    reads [0x59#8, 0x42#8, 0x9C#8, 0x1C#8, 0x00#8, 0x00#8, 0x00#8, 0x00#8] (.mtrans ⟨1, 0, 0x71, 0x72, 0x00, 0x00, 0x0, 0x0⟩)) = true := by decide

/-- Long words of the low rank opcodes, from the layout of R80 and the opcode map of R96. -/
theorem test_long_words_low_rank : (
    reads [0x81#8, 0x42#8, 0x9A#8, 0xDA#8, 0x5A#8, 0x1E#8, 0x00#8, 0x00#8] (.lrmul ⟨1, 0, 0x69, 0x6A, 0x6B, 0x79, 0x0, 0x0⟩) &&
    reads [0x85#8, 0x42#8, 0x9A#8, 0xDA#8, 0x5A#8, 0x1E#8, 0x00#8, 0x00#8] (.lradd ⟨1, 0, 0x69, 0x6A, 0x6B, 0x79, 0x0, 0x0⟩) &&
    reads [0x89#8, 0x42#8, 0x9A#8, 0x5A#8, 0x41#8, 0x9E#8, 0x00#8, 0x00#8] (.lrcut ⟨1, 0, 0x69, 0x6A, 0x05, 0x79, 0x2, 0x0⟩) &&
    reads [0x8D#8, 0x42#8, 0x9A#8, 0xDA#8, 0x78#8, 0x1E#8, 0x00#8, 0x00#8] (.lrkeep ⟨1, 0, 0x69, 0x6A, 0xE3, 0x79, 0x0, 0x0⟩) &&
    reads [0x91#8, 0x42#8, 0x9A#8, 0x1A#8, 0x40#8, 0x5E#8, 0x00#8, 0x00#8] (.lrfact ⟨1, 0, 0x69, 0x6A, 0x00, 0x79, 0x1, 0x0⟩) &&
    reads [0x95#8, 0x42#8, 0x9A#8, 0x1A#8, 0x40#8, 0x1E#8, 0x00#8, 0x00#8] (.lrdense ⟨1, 0, 0x69, 0x6A, 0x00, 0x79, 0x0, 0x0⟩) &&
    reads [0x99#8, 0x42#8, 0x9A#8, 0xDA#8, 0x5A#8, 0x1E#8, 0x00#8, 0x00#8] (.lrmma ⟨1, 0, 0x69, 0x6A, 0x6B, 0x79, 0x0, 0x0⟩) &&
    reads [0x9D#8, 0xC2#8, 0x80#8, 0x1A#8, 0x40#8, 0x1E#8, 0x00#8, 0x00#8] (.lrrank ⟨1, 0, 0x03, 0x6A, 0x00, 0x79, 0x0, 0x0⟩) &&
    reads [0xA1#8, 0x42#8, 0x9A#8, 0xDA#8, 0x78#8, 0x1E#8, 0x00#8, 0x00#8] (.lrscale ⟨1, 0, 0x69, 0x6A, 0xE3, 0x79, 0x0, 0x0⟩)) = true := by decide

/-- Long words of the code tables and tiles opcodes, from the layout of R80 and the opcode map of R96. -/
theorem test_long_words_code_tables_and_tiles : (
    reads [0xC2#8, 0x02#8, 0x80#8, 0x10#8, 0x00#8, 0x40#8, 0x01#8, 0x00#8, 0x40#8, 0x00#8, 0x00#8, 0x00#8] (.ctload ⟨2, 0, 0x00, 0x42, 0x00, 0x00, 0x5, 0x40⟩) &&
    reads [0xC6#8, 0x02#8, 0x80#8, 0x10#8, 0x00#8, 0x40#8, 0x01#8, 0x00#8, 0x40#8, 0x00#8, 0x00#8, 0x00#8] (.ctstore ⟨2, 0, 0x00, 0x42, 0x00, 0x00, 0x5, 0x40⟩) &&
    reads [0xC9#8, 0x02#8, 0x81#8, 0x10#8, 0x00#8, 0x00#8, 0x00#8, 0x00#8] (.catlook ⟨1, 0, 0x04, 0x42, 0x00, 0x00, 0x0, 0x0⟩) &&
    reads [0xCD#8, 0x02#8, 0x80#8, 0x00#8, 0x81#8, 0x01#8, 0x00#8, 0x00#8] (.catset ⟨1, 0, 0x00, 0x02, 0x04, 0x06, 0x0, 0x0⟩) &&
    reads [0xD1#8, 0x02#8, 0x40#8, 0x80#8, 0xC0#8, 0x00#8, 0x00#8, 0x00#8] (.catinv ⟨1, 0, 0x00, 0x01, 0x02, 0x03, 0x0, 0x0⟩) &&
    reads [0xD5#8, 0x42#8, 0x80#8, 0xD0#8, 0x1A#8, 0x40#8, 0x00#8, 0x00#8] (.tileld ⟨1, 0, 0x01, 0x42, 0x6B, 0x00, 0x1, 0x0⟩) &&
    reads [0xD9#8, 0x42#8, 0x80#8, 0x00#8, 0x01#8, 0x00#8, 0x02#8, 0x00#8] (.tiledec ⟨1, 0, 0x01, 0x02, 0x04, 0x00, 0x8, 0x0⟩) &&
    reads [0xDD#8, 0x42#8, 0x80#8, 0xC0#8, 0x1A#8, 0x41#8, 0x00#8, 0x00#8] (.tilest ⟨1, 0, 0x01, 0x02, 0x6B, 0x04, 0x1, 0x0⟩) &&
    reads [0xE2#8, 0x42#8, 0x80#8, 0xC0#8, 0xDA#8, 0x3F#8, 0x00#8, 0x00#8, 0x05#8, 0x02#8, 0x00#8, 0x00#8] (.tileap ⟨2, 0, 0x01, 0x02, 0x6B, 0xFF, 0x0, 0x205⟩) &&
    reads [0xE5#8, 0x42#8, 0x80#8, 0x00#8, 0x81#8, 0x01#8, 0x00#8, 0x00#8] (.tilechk ⟨1, 0, 0x01, 0x02, 0x04, 0x06, 0x0, 0x0⟩)) = true := by decide

/-- Long words of the copies, futures and queues opcodes, from the layout of R80 and the opcode map of R96. -/
theorem test_long_words_copies_futures_and_queues : (
    reads [0x01#8, 0x43#8, 0x80#8, 0xD0#8, 0x10#8, 0x11#8, 0x20#8, 0x00#8] (.cpy ⟨1, 0, 0x01, 0x42, 0x43, 0x44, 0x80, 0x0⟩) &&
    reads [0x05#8, 0x43#8, 0x80#8, 0xD0#8, 0x10#8, 0x57#8, 0x00#8, 0x1F#8] (.cpyMulticast ⟨1, 0, 0x01, 0x42, 0x43, 0x5C, 0x7C01, 0x0⟩) &&
    reads [0x09#8, 0x43#8, 0x80#8, 0x00#8, 0x00#8, 0x00#8, 0x00#8, 0x00#8] (.fwait ⟨1, 0, 0x01, 0x02, 0x00, 0x00, 0x0, 0x0⟩) &&
    reads [0x0D#8, 0x43#8, 0x80#8, 0x00#8, 0x00#8, 0xC0#8, 0x01#8, 0x00#8] (.fwaitMulti ⟨1, 0, 0x01, 0x02, 0x00, 0x00, 0x7, 0x0⟩) &&
    reads [0x11#8, 0x83#8, 0xD8#8, 0x00#8, 0x00#8, 0x00#8, 0x00#8, 0x00#8] (.ftest ⟨1, 0, 0x62, 0x03, 0x00, 0x00, 0x0, 0x0⟩) &&
    reads [0x15#8, 0x03#8, 0x00#8, 0x01#8, 0x00#8, 0x00#8, 0x00#8, 0x00#8] (.fcancel ⟨1, 0, 0x00, 0x04, 0x00, 0x00, 0x0, 0x0⟩) &&
    reads [0x1A#8, 0x03#8, 0x40#8, 0xC0#8, 0xFF#8, 0x7B#8, 0x02#8, 0x00#8, 0x00#8, 0x01#8, 0x00#8, 0x00#8] (.qcfg ⟨2, 0, 0x00, 0x01, 0xFF, 0xEF, 0x9, 0x100⟩) &&
    reads [0x1D#8, 0x43#8, 0x98#8, 0x00#8, 0x00#8, 0x40#8, 0x0D#8, 0x00#8] (.qpush ⟨1, 0, 0x61, 0x02, 0x00, 0x00, 0x35, 0x0⟩) &&
    reads [0x21#8, 0x43#8, 0x98#8, 0x00#8, 0x00#8, 0x40#8, 0x0D#8, 0x00#8] (.qpop ⟨1, 0, 0x61, 0x02, 0x00, 0x00, 0x35, 0x0⟩) &&
    reads [0x25#8, 0x43#8, 0x80#8, 0xC0#8, 0xF8#8, 0x39#8, 0x00#8, 0x00#8] (.mrcfg ⟨1, 0, 0x01, 0x02, 0xE3, 0xE7, 0x0, 0x0⟩) &&
    reads [0x2A#8, 0x43#8, 0x80#8, 0xC0#8, 0xC0#8, 0x7C#8, 0x00#8, 0x00#8, 0xEF#8, 0xBE#8, 0x00#8, 0x00#8] (.msend ⟨2, 0, 0x01, 0x02, 0x03, 0xF3, 0x1, 0xBEEF⟩) &&
    reads [0x2D#8, 0x43#8, 0x80#8, 0xC0#8, 0x00#8, 0x40#8, 0x00#8, 0x00#8] (.mwait ⟨1, 0, 0x01, 0x02, 0x03, 0x00, 0x1, 0x0⟩)) = true := by decide

/-- Long words of the routing and system opcodes, from the layout of R80 and the opcode map of R96. -/
theorem test_long_words_routing_and_system : (
    reads [0x41#8, 0x43#8, 0x80#8, 0xC0#8, 0x1A#8, 0xDB#8, 0x01#8, 0x00#8] (.route ⟨1, 0, 0x01, 0x02, 0x6B, 0x6C, 0x7, 0x0⟩) &&
    reads [0x45#8, 0x43#8, 0x80#8, 0xC0#8, 0x00#8, 0x00#8, 0x00#8, 0x00#8] (.rret ⟨1, 0, 0x01, 0x02, 0x03, 0x00, 0x0, 0x0⟩) &&
    reads [0x49#8, 0x03#8, 0x80#8, 0xB8#8, 0x10#8, 0x00#8, 0x00#8, 0x00#8] (.rtcfg ⟨1, 0, 0x00, 0xE2, 0x42, 0x00, 0x0, 0x0⟩) &&
    reads [0x4E#8, 0x43#8, 0x80#8, 0x10#8, 0x01#8, 0x80#8, 0x00#8, 0x00#8, 0x40#8, 0x00#8, 0x00#8, 0x00#8] (.launch ⟨2, 0, 0x01, 0x42, 0x04, 0x00, 0x2, 0x40⟩) &&
    reads [0x51#8, 0x43#8, 0x80#8, 0x00#8, 0x00#8, 0x00#8, 0x00#8, 0x00#8] (.lstat ⟨1, 0, 0x01, 0x02, 0x00, 0x00, 0x0, 0x0⟩) &&
    reads [0x55#8, 0x83#8, 0x00#8, 0x00#8, 0x00#8, 0x00#8, 0x00#8, 0x00#8] (.gtbr ⟨1, 0, 0x02, 0x00, 0x00, 0x00, 0x0, 0x0⟩) &&
    reads [0x59#8, 0x43#8, 0x80#8, 0xD0#8, 0x00#8, 0x41#8, 0x00#8, 0x00#8] (.pxch ⟨1, 0, 0x01, 0x42, 0x03, 0x04, 0x1, 0x0⟩) &&
    reads [0x81#8, 0x83#8, 0x00#8, 0x24#8, 0x00#8, 0x00#8, 0x00#8, 0x00#8] (.csrr ⟨1, 0, 0x02, 0x90, 0x00, 0x00, 0x0, 0x0⟩) &&
    reads [0x85#8, 0x43#8, 0x24#8, 0xC0#8, 0x37#8, 0x40#8, 0x00#8, 0x00#8] (.csrw ⟨1, 0, 0x91, 0x00, 0xDF, 0x00, 0x1, 0x0⟩) &&
    reads [0x89#8, 0x03#8, 0x80#8, 0x00#8, 0x01#8, 0x00#8, 0x00#8, 0x00#8] (.tlbinv ⟨1, 0, 0x00, 0x02, 0x04, 0x00, 0x0, 0x0⟩) &&
    reads [0x8D#8, 0x03#8, 0x40#8, 0x80#8, 0x00#8, 0x00#8, 0x00#8, 0x00#8] (.btinv ⟨1, 0, 0x00, 0x01, 0x02, 0x00, 0x0, 0x0⟩) &&
    reads [0x91#8, 0x03#8, 0x00#8, 0x80#8, 0x00#8, 0x00#8, 0x00#8, 0x00#8] (.sysc ⟨1, 0, 0x00, 0x00, 0x02, 0x00, 0x0, 0x0⟩)) = true := by decide

/-- Short words, from the layout of R90 and the short opcode table of R92. -/
theorem test_short_words_1 : (
    reads [0x00#8, 0x21#8, 0x14#8, 0xC1#8] (.iaddShort 1 2 5 193) &&
    reads [0x04#8, 0x94#8, 0x40#8, 0xC2#8] (.isubShort 4 9 16 194) &&
    reads [0x08#8, 0x07#8, 0x6D#8, 0xC3#8] (.imulShort 7 16 27 195) &&
    reads [0x0C#8, 0x7A#8, 0x99#8, 0xC4#8] (.imadShort 10 23 38 196) &&
    reads [0x10#8, 0xED#8, 0xC5#8, 0xC5#8] (.iminShort 13 30 49 197) &&
    reads [0x14#8, 0x50#8, 0xF2#8, 0xC6#8] (.imaxShort 0 37 60 198) &&
    reads [0x18#8, 0xC3#8, 0x1E#8, 0xC7#8] (.andShort 3 44 7 199) &&
    reads [0x1C#8, 0x36#8, 0x4B#8, 0xC8#8] (.orShort 6 51 18 200) &&
    reads [0x20#8, 0xA9#8, 0x77#8, 0xC9#8] (.xorShort 9 58 29 201) &&
    reads [0x24#8, 0x1C#8, 0xA0#8, 0xCA#8] (.shlShort 12 1 40 202) &&
    reads [0x28#8, 0x8F#8, 0xCC#8, 0xCB#8] (.shrUsShort 15 8 51 203) &&
    reads [0x2C#8, 0xF2#8, 0xF8#8, 0xCC#8] (.shrSgShort 2 15 62 204) &&
    reads [0x30#8, 0x65#8, 0x01#8, 0xCD#8] (.movShort 5 22 205) &&
    reads [0x34#8, 0xD8#8, 0x01#8, 0xCE#8] (.moviShort 8 29 206) &&
    reads [0x38#8, 0x4B#8, 0x7C#8, 0xCF#8] (.isetLtSgShort 11 4 31 207) &&
    reads [0x3C#8, 0x3E#8, 0xA8#8, 0xD0#8] (.isetEqShort 14 3 42 208)) = true := by decide

/-- Short words, from the layout of R90 and the short opcode table of R92. -/
theorem test_short_words_2 : (
    reads [0x40#8, 0x21#8, 0xD4#8, 0xD1#8] (.isetLtUsShort 1 2 53 209) &&
    reads [0x44#8, 0x14#8, 0x00#8, 0xD2#8] (.isetNeShort 4 1 0 210) &&
    reads [0x48#8, 0x07#8, 0x2C#8, 0xD3#8] (.paddShort 7 0 11 211) &&
    reads [0x4C#8, 0x7A#8, 0x00#8, 0xD4#8] (.popcShort 10 7 212) &&
    reads [0x50#8, 0xED#8, 0x84#8, 0xD5#8] (.faddShort 13 14 33 213) &&
    reads [0x54#8, 0x50#8, 0xB1#8, 0xD6#8] (.fsubShort 0 21 44 214) &&
    reads [0x58#8, 0xC3#8, 0xDD#8, 0xD7#8] (.fmulShort 3 28 55 215) &&
    reads [0x5C#8, 0x36#8, 0x0A#8, 0xD8#8] (.ffmaShort 6 35 2 216) &&
    reads [0x60#8, 0xA9#8, 0x36#8, 0xD9#8] (.fminShort 9 42 13 217) &&
    reads [0x64#8, 0x1C#8, 0x63#8, 0xDA#8] (.fmaxShort 12 49 24 218) &&
    reads [0x68#8, 0x0F#8, 0x8C#8, 0xDB#8] (.fsetLtShort 15 0 35 219) &&
    reads [0x6C#8, 0x72#8, 0xB8#8, 0xDC#8] (.fsetEqShort 2 7 46 220) &&
    reads [0x70#8, 0x65#8, 0x00#8, 0xDD#8] (.fsfRcpShort 5 6 221) &&
    reads [0x74#8, 0xD8#8, 0x00#8, 0xDE#8] (.fsfRsqrtShort 8 13 222) &&
    reads [0x78#8, 0x4B#8, 0x01#8, 0xDF#8] (.icvtShort 11 20 223) &&
    reads [0x7C#8, 0xBE#8, 0x01#8, 0xE0#8] (.fcvtShort 14 27 224)) = true := by decide

/-- Short words, from the layout of R90 and the short opcode table of R92. -/
theorem test_short_words_3 : (
    reads [0x80#8, 0x31#8, 0x02#8, 0xDE#8] (.braShort 1 0x8C0DE) &&
    reads [0x84#8, 0x04#8, 0x00#8, 0x00#8] (.retShort 4) &&
    reads [0x88#8, 0x07#8, 0x00#8, 0x00#8] (.exitShort 7) &&
    reads [0x8C#8, 0x0A#8, 0x00#8, 0x00#8] (.nopShort 10) &&
    reads [0x90#8, 0x0D#8, 0x00#8, 0x00#8] (.yieldShort 13) &&
    reads [0x94#8, 0x50#8, 0x70#8, 0xE6#8] (.ldW32Short 0 5 28 230) &&
    reads [0x98#8, 0xC3#8, 0x1C#8, 0xE7#8] (.stW32Short 3 12 7 231) &&
    reads [0x9C#8, 0x36#8, 0xC9#8, 0xE8#8] (.ldsShort 6 19 50 232) &&
    reads [0xA0#8, 0xA9#8, 0xF5#8, 0xE9#8] (.stsShort 9 26 61 233) &&
    reads [0xA4#8, 0x0C#8, 0x22#8, 0xEA#8] (.ldW64Short 12 32 8 234) &&
    reads [0xA8#8, 0x8F#8, 0x4E#8, 0xEB#8] (.stW64Short 15 40 19 235) &&
    reads [0xAC#8, 0xF2#8, 0x7A#8, 0x00#8] (.fwaitShort 2 47 30) &&
    reads [0xB0#8, 0x08#8, 0x00#8, 0x7D#8] (.tsignShort true 5) &&
    reads [0xB4#8, 0x00#8, 0x00#8, 0x0B#8] (.barCoreShort false 11) &&
    reads [0xB8#8, 0x4B#8, 0xFC#8, 0x6F#8] (.vldShort 11 4 63 7) &&
    reads [0xBC#8, 0xBE#8, 0x28#8, 0x6F#8] (.vstShort 14 11 10 7)) = true := by decide

/-- The conversions of the example table under R116: 300.0, 304.0 and 500.0 to E4M3, 300.0 to E5M2 and E2M1, with their flags. -/
theorem test_fcvt :
    outG (.fcvt (w 1 0 2 0 0x30)) (State.withG lab [(2, 0x43960000)]) 1 = 0x79 ∧ outG (.fcvt (w 1 0 2 0 0x30)) (State.withG lab [(2, 0x43980000)]) 1 = 0x7A
    ∧ outG (.fcvt (w 1 0 2 0 0x30)) (State.withG lab [(2, 0x43FA0000)]) 1 = 0x7E
    ∧ outF (.fcvt (w 1 0 2 0 0x30)) (State.withG lab [(2, 0x43FA0000)]) = (OF ||| NX).toNat
    ∧ outG (.fcvt (w 1 0 2 0 0x40)) (State.withG lab [(2, 0x43960000)]) 1 = 0x5D ∧ outG (.fcvt (w 1 0 2 0 0x50)) (State.withG lab [(2, 0x43960000)]) 1 = 7 := by
  decide +kernel

/-- FCVT.pack.e4m3.p1 of 300.0 and -2.5 over 0x1234 gives 0xC2791234 with NX (the example of R322). -/
theorem test_fcvt_pack :
    outG (.fcvtPack (w 1 2 3 4 0x430)) (State.withG lab [(2, 0x43960000), (3, 0xC0200000), (4, 0x1234)]) 1 = 0xC2791234
    ∧ outF (.fcvtPack (w 1 2 3 4 0x430)) (State.withG lab [(2, 0x43960000), (3, 0xC0200000), (4, 0x1234)]) = NX.toNat := by decide

/-- ICVT.s8.f32 of -130.5 gives -128 with NV alone; ICVT.e4m3.s32 of 1,000 gives 0x7E with OF and NX (the example of R337). -/
theorem test_icvt :
    outG (.icvt (w 1 0 2 0 0x90)) (State.withG lab [(2, 0xC3028000)]) 1 = 0xFFFFFF80
    ∧ outF (.icvt (w 1 0 2 0 0x90)) (State.withG lab [(2, 0xC3028000)]) = NV.toNat
    ∧ outG (.icvt (w 1 0 2 0 0x300)) (State.withG lab [(2, 1000)]) 1 = 0x7E
    ∧ outF (.icvt (w 1 0 2 0 0x300)) (State.withG lab [(2, 1000)]) = (OF ||| NX).toNat := by decide

/-- FMIN ignores a quiet NaN and orders -0 below +0; FSET.nan; FRND of 2.5 to even; FSCL of 1.0 by 3; FCLASS of -0 (R120, R326, R325, R321). -/
theorem test_float_small :
    outG (.fmin (w 1 2 3 0 0)) (State.withG lab [(2, 0x7FC00000), (3, 0x3F800000)]) 1 = 0x3F800000
    ∧ outG (.fmin (w 1 2 3 0 0)) (State.withG lab [(2, 0), (3, 0x80000000)]) 1 = 0x80000000
    ∧ outG (.fmax (w 1 2 3 0 0)) (State.withG lab [(2, 0), (3, 0x80000000)]) 1 = 0
    ∧ outG (.fset (w 1 2 2 0 0x70)) (State.withG lab [(2, 0x7FC00000)]) 1 = 1
    ∧ outG (.frnd (w 1 0 2 0 0)) (State.withG lab [(2, 0x40200000)]) 1 = 0x40000000
    ∧ outG (.fscl (w 1 2 3 0 0)) (State.withG lab [(2, 0x3F800000), (3, 3)]) 1 = 0x41000000
    ∧ outG (.fclass (w 1 0 2 0 0)) (State.withG lab [(2, 0x80000000)]) 1 = 8 := by decide

/-- FFMA rounds once; FMUL of 0 and infinity raises NV; FSF.rcp of 0 raises DZ (R121, R319, R128). -/
theorem test_ffma_fsf :
    outG (.ffma (w 1 2 2 3 0)) (State.withG lab [(2, 0x3F800001), (3, 0xBF800002)]) 1 = 0x28800000
    ∧ outF (.fmul (w 1 2 3 0 0)) (State.withG lab [(2, 0), (3, 0x7F800000)]) = NV.toNat
    ∧ outG (.fsfRcpShort 0 1 2) lab 1 = 0x7F800000 ∧ outF (.fsfRcpShort 0 1 2) lab = DZ.toNat := by decide

/-- PFMA over two BF16 elements, DP2, and CFMA of (1 + 2i)(3 + 4i), which is -5 + 10i (R381, R317, R309). -/
theorem test_packed_float :
    outG (.pfma (w 1 2 3 4 0)) (State.withG lab [(2, 0x40003F80), (3, 0x40004000), (4, 0x3F803F80)]) 1 = 0x40A04040
    ∧ outG (.dp2 (w 1 2 3 4 0)) (State.withG lab [(2, 0x40003F80), (3, 0x40804040), (4, 0x3F000000)]) 1 = 0x41380000
    ∧ outG (.cfma (w 8 2 4 6 0)) (State.withG lab [(2, 0x3F800000), (3, 0x40000000), (4, 0x40400000), (5, 0x40800000)]) 8 = 0xC0A00000
    ∧ outG (.cfma (w 8 2 4 6 0)) (State.withG lab [(2, 0x3F800000), (3, 0x40000000), (4, 0x40400000), (5, 0x40800000)]) 9 = 0x41200000 := by decide

/-- The PC of thread 0 after the instruction. -/
def outPc (i : Instr) (s : State) : Nat := ((go i s).th 0).pc.toNat

/-- BRA back by 8, JMP keeps the buffer index, CALL writes its fall-through, a misaligned JMP takes ALIGN at the handler (R77, R302, R306, R256). -/
theorem test_control :
    outPc (.bra (wi 0 0 0 0 0 0xFFFFFFF8)) lab = 0x7FF8
    ∧ outPc (.jmp (w 0 2 0 0 0)) (State.withG lab [(2, 0x40), (3, 0x00050000)]) = 0x40
    ∧ outG (.callRelative (wi 4 0 0 0 0 0x100)) lab 4 = 0x800C ∧ outPc (.callRelative (wi 4 0 0 0 0 0x100)) lab = 0x8100
    ∧ outPc (.jmp (w 0 2 0 0 0)) (State.withG lab [(2, 0x42)]) = 0x8100 ∧ outFault (.jmp (w 0 2 0 0 0)) (State.withG lab [(2, 0x42)]) = (6, 0x42) := by decide

/-- A false guard only advances the PC; EXIT ends the thread; TRAP takes its fault; WAITT of a time to come sleeps past itself (R85, R431, R434). -/
theorem test_thread_control :
    outPc (.iadd ⟨2, 8, 1, 2, 0xFF, 0, 0, 7⟩) lab = 0x800C ∧ outG (.iadd ⟨2, 8, 1, 2, 0xFF, 0, 0, 7⟩) lab 1 = 0
    ∧ ((go (.exitShort 0) lab).th 0).run = .exited
    ∧ outFault (.trap (wi 0 0 0xFF 0 0 0xABCD)) lab = (0x13, 0xABCD)
    ∧ ((go (.waitt (w 0 2 0 0 0)) (State.withG lab [(2, 5)])).th 0).run = .blocked (.time 5) ∧ outPc (.waitt (w 0 2 0 0 0)) (State.withG lab [(2, 5)]) = 0x8008 := by
  decide +kernel

/-- CSRW sets bits of %fstat, CSRR reads a special register, %rmode keeps two bits; GTBR reads the time base (R315, R316, R61, R332). -/
theorem test_special :
    outF (.csrw (wi 0x91 0 0xFF 0 1 0xFF)) lab = 0x1F ∧ ((go (.csrw (w 0x92 0 0xE2 0 0)) lab).th 0).rmode = 3
    ∧ outG (.csrr (w 1 0x99 0 0 0)) lab 1 = 64
    ∧ outG (.gtbr (w 2 0 0 0 0)) { lab with svc := { lab.svc with time := 0x500000007 } } 3 = 5 := by decide

/-- Members of a slot: 32 threads of cohort 0 at cv1 with a mask; the lanes of `signed` have signed the word with these values. -/
def team (n : Nat) (mask : Nat) (op : Nat) (o : Canon) (signed : List (Nat × List Nat)) : State :=
  let s := State.withC { labOf n 1 0xFFFFFFFF with cur := some 0 } 1 { mask := BitVec.ofNat 32 mask, slot := 0, valid := true }
  let s1 := s.setCo 0 ((s.co 0).setPoint 1 (if signed = [] then none else some { pc := 0x8000, op := op, word := o, signed := signed }))
  signed.foldl (fun st x => st.setTh x.1 { st.th x.1 with run := .blocked (.team 1) }) s1

/-- TRED.fadd of 1.0, 2⁻²⁴ and 2⁻²⁴ with lane 3 exited gives 1.0 to lanes 0 to 2 with NX; TSCAN.fadd.excl gives +0, 1.0 and 1.0 (the example of R424). -/
theorem test_tred :
    (let o := w 5 2 0 0x79 6
     let s0 := team 4 0xF 0x54 o [(1, [0x33800000]), (2, [0x33800000])]
     let s := go (.tred o) (State.withG (s0.setTh 3 { s0.th 3 with run := .exited }) [(2, 0x3F800000)])
     [0, 1, 2].map (fun t => (((s.th t).gv 5).toNat, (s.th t).fstat.toNat, (s.th t).run == .ready, (s.th t).pc.toNat)))
      = List.replicate 3 (0x3F800000, NX.toNat, true, 0x8008) := by decide

/-- The scan of the same example. -/
theorem test_tscan :
    (let o := w 5 2 0 0x79 0x26
     let s0 := team 4 0xF 0x55 o [(1, [0x33800000]), (2, [0x33800000])]
     let s := go (.tscan o) (State.withG (s0.setTh 3 { s0.th 3 with run := .exited }) [(2, 0x3F800000)])
     [0, 1, 2].map (fun t => ((s.th t).gv 5).toNat)) = [0, 0x3F800000, 0x3F800000] := by decide

/-- VOTE.ballot of lanes 0 and 2; a thread that signs first blocks with its PC unchanged (R40, R37). -/
theorem test_vote :
    (let o := w 5 2 0 0x79 3
     let s := go (.vote o) (State.withG (team 3 7 0x52 o [(1, [0]), (2, [9])]) [(2, 1)])
     (((s.th 0).gv 5).toNat, ((s.th 1).gv 5).toNat, ((s.th 2).gv 5).toNat)) = (5, 5, 5)
    ∧ (let s := go (.vote (w 5 2 0 0x79 3)) (team 3 7 0x52 (w 5 2 0 0x79 3) [])
       ((s.th 0).run, (s.th 0).pc.toNat)) = (.blocked (.team 1), 0x8000) := by decide

/-- TSIGN at a register that is not VALID takes TEAM with cause 1 and the register's number (R39, R258). -/
theorem test_tsign_fault : outFault (.tsignShort false 2) lab = (0x12, 0x21) := by decide

/-- BAR.core of a lone thread completes at once and goes on (R42, R295). -/
theorem test_bar : ((go (.barCoreShort false 3) lab).th 0).run = .ready ∧ outPc (.barCoreShort false 3) lab = 0x8004 := by decide

/-- IDEM notes its PC and IDEMEND forgets it (R44). -/
theorem test_idem :
    ((go (.idem (w 0 0 0 0 0)) lab).th 0).region = some (0x8000, 1) ∧ ((go (.idemend (w 0 0 0 0 0)) (go (.idem (w 0 0 0 0 0)) lab)).th 0).region = none := by
  decide

/-- LD.w16 extends under SG and reads little-endian; LD at an odd address takes ALIGN (R348, R286). -/
theorem test_load :
    outG (.ldKBase (wi 1 0x40 0 0 9 4)) (State.withMem lab 4 [0xFE, 0xFF]) 1 = 0xFFFFFFFE
    ∧ outG (.ldKBase (wi 1 0x40 0 0 1 4)) (State.withMem lab 4 [0xFE, 0xFF]) 1 = 0xFFFE
    ∧ outFault (.ldKBase (wi 1 0x40 0 0 9 5)) lab = (6, 5) := by decide

/-- LD.w32 g2, [k0 + g1*4] with the index scaled; LD past the page map's end finds no mapping there (R348). -/
theorem test_load_indexed :
    outG (.ldGBaseIndexed (w 2 0x40 1 0 0x102)) (State.withG (State.withMem lab 0x40 [1, 2, 3, 4]) [(1, 16)]) 2 = 0x04030201 := by decide

/-- A byte of memory after the instruction. -/
def outMem (i : Instr) (s : State) (k : Nat) : Nat := (Memory.get (go i s).mem k).toNat

/-- ST.w32 g2, [k0 + 8] stores four bytes at 8 and no fifth; the thread then reads its own store (R405, R201). -/
theorem test_store :
    [7, 8, 9, 10, 11, 12].map (outMem (.stW32Short 0 2 0 2) (State.withG lab [(2, 0x44332211)])) = [0, 0x11, 0x22, 0x33, 0x44, 0]
    ∧ outG (.ldW32Short 0 3 0 2) { go (.stW32Short 0 2 0 2) (State.withG lab [(2, 0x44332211)]) with cur := some 0 } 3 = 0x44332211 := by decide

/-- STS and LDS reach the cohort's own scratchpad; a byte beyond it is BUFFER_BOUND (R351, R407, R176). -/
theorem test_scratchpad :
    outMem (.stsShort 0 2 1 1) (State.withG lab [(1, 0x10), (2, 0x99)]) (scrKey 1 0x14) = 0x99
    ∧ outG (.ldsShort 0 2 1 1) (State.withG (State.withScr lab 0x14 [5, 6]) [(1, 0x10)]) 2 = 0x605
    ∧ (outFault (.ldsShort 0 2 1 0) (State.withG lab [(1, 0x1000)])).1 = 7 := by decide

/-- ATOM.add returns the old value and stores the sum; ATOM.cas that matches stores the new value (R290, R291). -/
theorem test_atom :
    outG (.atomHome (w 5 0x40 6 0 0)) (State.withG (State.withMem lab 0 [5]) [(6, 3)]) 5 = 5
    ∧ outMem (.atomHome (w 5 0x40 6 0 0)) (State.withG (State.withMem lab 0 [5]) [(6, 3)]) 0 = 8
    ∧ outMem (.atomCompareSwap (w 5 0x40 6 7 0)) (State.withG (State.withMem lab 0 [5]) [(6, 5), (7, 9)]) 0 = 9
    ∧ outMem (.atomCompareSwap (w 5 0x40 6 7 0)) (State.withG (State.withMem lab 0 [5]) [(6, 4), (7, 9)]) 0 = 5 := by decide

/-- RED falls through and its operation waits; FENCE is logged; PREF only goes on (R390, R206, R384). -/
theorem test_red_fence :
    ((go (.red (w 0 0x40 6 0 0)) (State.withG lab [(6, 3)])).prov.reds.map fun r => (r.key, r.operand)) = [(0, 3)]
    ∧ (go (.fence (w 0 0 0 0 0)) lab).prov.fences.length = 1 ∧ outPc (.pref (w 0 0x40 0 0 0)) lab = 0x8008 := by decide

/-- A byte of cohort 0's tile space after the instruction. -/
def outTile (i : Instr) (s : State) (off : Nat) : Nat := outMem i s (tileKey 1 off)

/-- The record of the example of R68: a 128 x 128 E4M3 TILE view at 0x4000 with FP32 run scales at 0x8000. -/
def view2 : View := ⟨2, 9, 0x0D, false, false, 0x4000, 128, 128, 128, 0x8000, 0, 0, 0⟩

/-- VSET loads that record, and VGET gives its first four words back (R68, R436, R438). -/
theorem test_vset :
    ((go (.vset (w 0x6A 8 12 0 0)) (State.withG (labOf 1 9 0) [(8, 0x000D0902), (9, 0x4000), (10, 0x00800080), (11, 0x80), (12, 0x8000)])).co 0).vw[2]?
      = some ((((labOf 1 9 0).co 0).setV [0] 2 view2).vw[2]?.getD (UCell.start View.null))
    ∧ (List.range 4).map (outG (.vget (w 4 0x6A 0 0 0)) (State.withV (labOf 1 9 0) [(2, view2)]) ∘ (· + 4)) = [0x000D0902, 0x4000, 0x00800080, 0x80] := by
  decide +kernel

/-- The record with ROWS 192 passes the end of the allocation: VIEW_BOUND, and the register is unchanged (R68). -/
theorem test_vset_bound :
    (outFault (.vset (w 0x6A 8 12 0 0)) (State.withG (labOf 1 9 0x100) [(8, 0x000D0902), (9, 0x4000), (10, 0x008000C0), (11, 0x80), (12, 0x8000)])).1 = 4 := by
  decide +kernel

/-- The tile space of the example of VLD: row 3's scale 0.75 and four elements at column 8. -/
def viewLab : State := State.withTile (State.withTile (State.withV (labOf 1 9 0x100) [(2, view2)]) 0x800C [0, 0, 0x40, 0x3F]) 0x4188 [0x4A, 0x38, 0x00, 0xC2]

/-- VLD.cvt reads 5.0 x 0.75, VLD.x4 four bytes, VST.cvt stores 3.0 / 0.75, VLD.x4 of column 6 takes ALIGN (the example of R441). -/
theorem test_vld_vst :
    outG (.vld (w 5 0xE7 0x6A 0xE2 9)) viewLab 5 = 0x40700000 ∧ outF (.vld (w 5 0xE7 0x6A 0xE2 9)) viewLab = 0
    ∧ outG (.vld (w 6 0xE7 0x6A 0xE2 5)) viewLab 6 = 0xC200384A
    ∧ outTile (.vst (w 5 0xE7 0x6A 0xE2 9)) (State.withG viewLab [(5, 0x40400000)]) 0x4188 = 0x48
    ∧ (outFault (.vld (w 6 0xE5 0x6A 0xE2 5)) viewLab).1 = 6 := by decide +kernel

/-- REQNT between scales 1.0 and 2.0: 224, 1.5 and a tie to zero with UF and NX; under .ru the third element is 2⁻⁹ (the example of R388). -/
theorem test_reqnt :
    (let v (b so : Nat) : View := ⟨2, 9, 1, false, false, b, 1, 32, 32, so, 0, 0, 0⟩
     let s := State.withTile (State.withTile (State.withTile (State.withV (team 1 1 0 (w 0 0 0 0 0) []) [(4, v 0 0x100), (5, v 0x200 0x300)]) 0x100 [0x7F]) 0x300 [0x80])
       0 [0x7E, 0x44, 0x01]
     ([0x200, 0x201, 0x202].map (outTile (.reqnt (w 0x6D 0x6C 0 0x79 0)) s), outF (.reqnt (w 0x6D 0x6C 0 0x79 0)) s, outTile (.reqnt (w 0x6D 0x6C 0 0x79 3)) s 0x202))
      = ([0x76, 0x3C, 0], (UF ||| NX).toNat, 1) := by decide +kernel

/-- MCOPY of 0x3F80C000 into a BF16 view gives 0x3F81 with NX, and 0x3F80 with .rz (the example of R358). -/
theorem test_mcopy :
    (let s := State.withTile (State.withV lab [(1, ⟨2, 12, 0, false, false, 0x800, 16, 16, 32, 0, 0, 0, 0⟩), (2, ⟨3, 13, 0, false, false, 0, 16, 16, 64, 0, 0, 0, 0⟩)])
       0 [0x00, 0xC0, 0x80, 0x3F]
     (outTile (.mcopy (w 0x69 0x6A 0xDF 0xE0 0x200)) s 0x800, outF (.mcopy (w 0x69 0x6A 0xDF 0xE0 0x400)) s,
       outTile (.mcopy (w 0x69 0x6A 0xDF 0xE0 0x400)) s 0x800)) = (0x81, NX.toNat, 0x80) := by decide +kernel

/-- LRMUL of rank 1 (e0, e1) by rank 2 ([e1 e2], [e3 2e4]) gives rank 1, U = e0 and V = e3; LRRANK of such a view writes 0x101
(the example of R353, with vectors of length 8). -/
theorem test_lrmul :
    (let v (b : Nat) (r : Nat) : View := ⟨6, 13, 0, false, false, b, 8, 8, 0, 0, 4, r, 1024⟩
     let one := [0, 0, 0x80, 0x3F]
     let s0 := State.withV (team 1 1 0 (w 0 0 0 0 0) []) [(4, v 0 1), (5, v 1024 2), (6, v 2048 0)]
     let s1 := State.withTile (State.withTile s0 0 one) (32 + 4) one
     let s2 := State.withTile (State.withTile (State.withTile (State.withTile s1 (1024 + 4) one) (1024 + 32 + 8) one) (1024 + 64 + 12) one) (1024 + 96 + 16) [0, 0, 0, 0x40]
     (outTile (.lrmul (w 0x6E 0x6C 0x6D 0x79 0)) s2 (2048 + 3), outTile (.lrmul (w 0x6E 0x6C 0x6D 0x79 0)) s2 (2048 + 32 + 15),
       ((((go (.lrmul (w 0x6E 0x6C 0x6D 0x79 0)) s2).co 0).vw.map fun c => c.newest.rank).getD 6 9,
         outG (.lrrank (w 7 0x6E 0 0x79 0)) (State.withV (team 1 1 0 (w 0 0 0 0 0) []) [(6, v 2048 1)]) 7))) = (0x3F, 0x3F, 1, 0x101) := by decide +kernel

/-- CTSTORE of a slot that holds no table takes CODE_TABLE (R313). -/
theorem test_ctstore : (outFault (.ctstore (w 0 0x40 0 0 3)) lab).1 = 0x0D := by decide +kernel

/-- A copy packs two rows of 4 B that lie 256 B apart at 0x200, as in the example of R309 with fewer bytes, and its future completes with OK. -/
theorem test_copy :
    (let s0 := State.withK (State.withG (State.withMem lab 0x101 [0xAB]) [(6, 0x200)]) [(8, 0x0001000200000004), (9, 0x0000000400000100)]
     let s1 := go (.cpy (w 3 6 0x44 0x48 1)) s0
     let s2 := go (.copyComplete 0 0) s1
     (((s1.th 0).gv 3).toNat / 2 ^ 28, (s1.th 0).isPend 3, (Memory.get s2.mem (scrKey 1 0x205)).toNat, s2.ops.map fun o => (o.phase == .done, o.status.toNat)))
      = (0, true, 0xAB, [(true, 0)]) := by decide +kernel

/-- FWAIT.any.n2 with the first future pending and the second failed writes 1 and settles the second alone (the example of R218). -/
theorem test_fwait_any :
    (let op (n : Nat) (ph : Phase) (st : Word) : Op :=
       { core := 0, serial := n, kind := 0, part := 0, coh := 0, uid := 1, seq := 1, tid := 0, phase := ph, start := 0, holdsEntry := false, status := st,
         order := 0, seen := [], scope := 1, flags := 0, takers := [], born := 0, work := .fresh, body := .chain [] }
     let s0 := { lab with ops := [op 5 .running 0, op 6 .done 0x8C000003] }
     let s1 := s0.setTh 0 (((s0.th 0).setFuture 8 (handleWord 0 0 5)).setFuture 9 (handleWord 0 0 6))
     let s2 := go (.fwaitMulti (w 2 8 0 0 1)) s1
     (((s2.th 0).gv 2).toNat, (s2.th 0).isPend 8, (s2.th 0).isPend 9, ((s2.th 0).gv 9).toNat)) = (1, true, false, 0x8C000003) := by decide +kernel

/-- QPUSH into a configured queue and QPOP from it carry the bytes; QPOP.try of an empty queue writes 0 (R225, R385). -/
theorem test_queue :
    (let q : TQueue := { base := 0x100, depth := 2, size := 8, head := 0, known := [] }
     let s0 := State.withScr (lab.setCo 0 { lab.co 0 with queues := (lab.co 0).queues.set 5 (some q) }) 0x10 [7, 8]
     let s1 := go (.qpush (w 0 1 0 0 5)) (State.withG s0 [(1, 0x10)])
     let s2 := go (.qpop (w 0 1 0 0 5)) (State.withG { s1 with cur := some 0 } [(1, 0x20)])
     ((Memory.get s2.mem (scrKey 1 0x21)).toNat, ((go (.qpop (w 0x62 1 0 0 0x15)) (State.withG s0 [(1, 0x20)])).th 0).pv 2)) = (8, false) := by decide +kernel

/-- MRCFG takes the lowest free entry of its core and names it; the ring's header holds N and SLOTLOG (the example of R365). -/
theorem test_mrcfg :
    (let ring (n : Nat) : Ring := { core := 0, num := n, coh := 0, part := 0, base := 0x2000 + 0x100 * n, slots := 2, sl := 6, head := 0, tail := 0, known := [] }
     let s := State.withG { labOf 1 3 0 with rings := [ring 0, ring 1, ring 2] } [(4, 0x1000)]
     (outG (.mrcfg (w 6 4 0xE1 0xE5 0)) s 6, outMem (.mrcfg (w 6 4 0xE1 0xE5 0)) s (scrKey 1 0x1008))) = (0x300, 2) := by decide +kernel

/-- TLBINV.all and BTINV.all drop the partition's copies; SYSC.info reports CORES and class (R419, R301, R410). -/
theorem test_system :
    (go (.tlbinv (w 0 0 0 0 1)) lab).tlb1 = [] ∧ (go (.btinv (w 0 0 0 0 1)) lab).bufc = []
    ∧ outG (.sysc (w 1 0 0 0 1)) { lab with parts := lab.parts.set 0 { lab.pa 0 with cores := 48, interactive := true } } 1 = 0x10030 := by decide +kernel

/-- DISPATCH_TICK places a waiting launch's cohort; COHORT_COMPLETE of a cohort whose threads have exited counts it and ends its launch (R27, R46, R50). -/
theorem test_cohort_complete :
    (let s := go (.cohortComplete 0) { go (.exitShort 0) lab with cur := none }
     (((s.co 0).place == .gone), s.launches.map fun l => (l.state, l.completed))) = (true, [(2, 1)]) := by decide +kernel

/-- An uncorrectable error counts in the channel's status; at UETHRESH, 4 after reset, the channel retires; REFRESH moves the balance (R239, R240). -/
theorem test_channel :
    (((go (.uncorrectableError 9 5) State.reset).chstat 9) / 2 ^ 24 % 256, (go (.retire 9) State.reset).svc.rebuilding.length,
      (go (.refresh 9 true ⟨0, 0⟩) State.reset).refbal 9) = (1, 1, 1) := by decide +kernel

/-- The window of a device whose routing table leads to node 5. -/
def linked : State := { lab with window := Memory.setAll [(1, 0xFE#8), (2, 0xFF#8), (3, 1#8)] 0x3000 [5#8, 0#8, 0#8, 0#8, 0xFF#8, 0xFF#8, 0#8, 0x80#8] }

/-- A remote read that this node serves reads its bytes (R270). -/
theorem test_remote :
    (let c : Ctx := { agent := .node 5 0 0, part := 0, core := none, quad := 48, seq := none }
     gives ((State.withMem lab 4 [0x5A, 1]).farPlace c 4 0 2 0) fun r => (r.2.homeEffect c 5 0 r.1 0 2 0 []).1 == [0x5A#8, 1#8]) = true := by decide +kernel

/-- At 105 degrees the clock loses one step of 100 MHz, and below it gains one up to 1.8 GHz (R283). -/
theorem test_thermal :
    (go (.thermalThrottle 105 0) State.reset).svc.clock = 17 ∧ (go (.throttleEnd 104 0) State.reset).svc.clock = 18 := by decide

/-- AES-256 of the example of FIPS 197 C.3, and SHAKE256 of "abc" (R277, R281). -/
theorem test_aes_shake :
    aes256 (List.range 32) ((List.range 16).map (0x11 * ·))
      = [0x8E, 0xA2, 0xB7, 0xCA, 0x51, 0x67, 0x45, 0xBF, 0xEA, 0xFC, 0x49, 0x90, 0x4B, 0x49, 0x60, 0x89]
    ∧ ((shake256 [0x61#8, 0x62#8, 0x63#8]).take 8).map BitVec.toNat = [0x48, 0x33, 0x66, 0x60, 0x13, 0x60, 0xA8, 0x77] := by decide +kernel

/-- Word forms at the boundaries of their encodings: the largest selectors and immediates, and the shortest forms. -/
theorem witness_DecodeInvertsEncode :
    [Instr.iadd (wi 0x3F 0x67 0xFF 0 3 0xFFFFFFFF), .bra ⟨2, 15, 0, 0, 0, 0, 1, 0x80000000⟩, .csrr (w 0 0x80 0 0 0), .nopShort 15, .braShort 0 0x80000,
      .tsignShort true 7].map (fun i => (i.wellFormed, isEvent i)) = List.replicate 6 (true, false) := by decide

/-- Bytes that decode, with a byte left over. -/
theorem witness_DecodeGivesTheWordBack : decode [0x8C#8, 0#8, 0#8, 0#8, 0x55#8] = .ok (.nopShort 0, [0x55#8]) := by rfl

/-- The first and the last unassigned opcode of either map, and length code 3. -/
theorem witness_UnassignedOpcodesRefused :
    (fails (decode [0xC0#8, 0x05#8, 0#8, 0#8]) (· == .illegalOpcode 0x30 true 5) && fails (decode [0xFC#8, 0#8, 0#8, 0#8]) (· == .illegalOpcode 0x3F true 0)
      && fails (decode [0xC5#8, 0#8, 0#8, 0#8, 0#8, 0#8, 0#8, 0#8]) (· == .illegalOpcode 0x31 false 0)
      && fails (decode [0xFE#8, 0x3F#8, 0#8, 0#8, 0#8, 0#8, 0#8, 0#8, 0#8, 0#8, 0#8, 0#8]) (· == .illegalOpcode 0xFF false 15)
      && fails (decode [0x03#8, 0#8, 0#8, 0#8]) (· == .illegalEncoding 1 8 3 0)) = true := by decide

/-- A state whose open group is to issue thread 0, with IADD g5, g3, -2 at its PC. -/
def issuing : State :=
  let s := State.withMem lab 0x8000 [0x00, 0x50, 0x0C, 0xDD]
  { s.setTh 0 { s.th 0 with listed := .issuing } with cur := none, group := some { core := 0, coh := 0, pc := 0x8000, left := [0], members := [0], taken := 0, missed := 0 } }

/-- The member is ready and fetches an instruction. -/
theorem witness_StepRunsTheFetchedInstruction_group :
    (issuing.group.map (·.left), (issuing.th 0).run, (issuing.th 0).listed,
      match ({ issuing with group := issuing.group.map fun g => { g with left := [] } } : State).fetch 0 with | .word (.ins i) _ _ => some i | _ => none)
      = (some [0], .ready, .issuing, some (.iaddShort 0 5 3 0xDD)) := by decide +kernel

/-- An event at the head of the agenda, and a core whose Registrar holds an entry. -/
theorem witness_StepRunsTheFetchedInstruction_agenda :
    (({ lab with agenda := [.event .dispatchTick] } : State).group = none ∧ isEvent .dispatchTick = true)
    ∧ ({ State.reset.place with agenda := [.core 0] } : State).group = none
    ∧ (({ State.reset.place with agenda := [] } : State).oldest (fun x => x.core == 0)).isSome = true := by decide +kernel

/-- A cached word, and a fetch whose bytes decode: 4 bytes, and 8 after the first 4. -/
theorem witness_FetchDecodesTheBytes :
    (({ lab with icache := [{ core := 0, part := 0, pc := 0x8000, len := 0, word := .ins (.nopShort 0) }] } : State).cached 0 0 0x8000).isSome = true
    ∧ (issuing.cached 0 0 0x8000).isNone = true
    ∧ gives (issuing.fetchBytes (lab.tctx) (issuing.fetchKnown 0 1) 0x8000 4) (fun r => fillBytes (leNat (r.1.take 1) % 4) == 4 && reads r.1 (.iaddShort 0 5 3 0xDD)) = true
    ∧ (let s := State.withMem lab 0x8000 [0x85, 0x81, 0x00, 0x50, 0x00, 0x80, 0x40, 0x00]
       gives (s.fetchBytes lab.tctx (s.fetchKnown 0 1) 0x8000 4) (fun r => fillBytes (leNat (r.1.take 1) % 4) == 8
         && gives (r.2.fetchBytes lab.tctx (s.fetchKnown 0 1) 0x8000 8) fun q => reads q.1 (.ldGBaseIndexed ⟨1, 0, 2, 0x40, 1, 0, 0x102, 0⟩))) = true := by decide +kernel

/-- A step that answers a next state. -/
theorem witness_StepListsReadyThreads : (match step issuing with | .next s => (s.th 0).gv 5 | _ => 0) = 0xFFFFFFFE := by decide +kernel

/-- False guards of a plain instruction and of BRA. -/
theorem witness_FalseGuardOnlyPassesOn :
    lab.cur = some 0 ∧ (lab.th 0).guard 8 = false ∧ (lab.th 0).guard 7 = false ∧ (canonOf (.nopShort 8)).isSome = true ∧ (canonOf (.braShort 8 1)).isSome = true := by
  decide

/-- A cohort of 32 registers and an instruction that names register 32, and 31. -/
theorem witness_RegisterBoundFaults :
    regBound 32 (namedRegs 0 (w 31 32 33 0 0)) = some (32, 2) ∧ regBound 32 (namedRegs 0 (w 31 30 29 0 0)) = none
    ∧ outFault (.iadd (w 31 32 33 0 0)) (lab.setCo 0 { lab.co 0 with gregs := 32 }) = (3, 32 + 2 * 64) := by decide +kernel

/-- An engine operation of core 0 in a phase. -/
def opOf (n kind : Nat) (ph : Phase) (st : Word) (body : OpBody) : Op :=
  { core := 0, serial := n, kind := kind, part := 0, coh := 0, uid := 1, seq := 1, tid := 0, phase := ph, start := 0, holdsEntry := false, status := st,
    order := 0, seen := [], scope := 1, flags := 0, takers := [], born := 0, work := .fresh, body := body }

/-- Thread 0 holds the future of operation 5 in register `n`. -/
def holding (n kind : Nat) (ph : Phase) (st : Word) (body : OpBody) : State :=
  let s : State := { lab with ops := [opOf 5 kind ph st body] }
  s.setTh 0 ((s.th 0).setFuture n (handleWord kind 0 5))

/-- A source register that holds the future of an operation that runs, the last register among them. -/
theorem witness_FuturesInRegisters_pending :
    ((sourceRegs 0 (w 1 2 0x3F 0 0)).findSome? ((holding 0x3F 0 .running 0 (.chain [])).unsettled 0)).isSome = true
    ∧ (holding 0x3F 0 .running 0 (.chain [])).redsHold 0 0 (w 1 2 0x3F 0 0) = none
    ∧ regBound ((holding 0x3F 0 .running 0 (.chain [])).co 0).gregs (namedRegs 0 (w 1 2 0x3F 0 0)) = none
    ∧ ((go (.iadd (w 1 2 0x3F 0 0)) (holding 0x3F 0 .running 0 (.chain []))).th 0).run = .blocked (.future 0 5) := by decide +kernel

/-- A register that holds the future of an operation that is done. -/
theorem witness_FuturesInRegisters_settled :
    (let s := holding 0x3F 0 .done 7 (.chain [])
     ((s.th 0).isPend 0x3F, (s.th 0).g.length, (s.findOp (hCore ((s.th 0).gv 0x3F)) (hSerial ((s.th 0).gv 0x3F))).map (·.phase))) = (true, 64, some .done) := by
  decide +kernel

/-- The first and the last predicate selector. -/
theorem witness_PredicateZeroReadsTrue : [0x5F, 0x60, 0x67, 0x68].map isP = [false, true, true, false] := by decide

/-- Operands at the boundaries of the selector ranges (R87, R88). -/
theorem witness_SourceOperandsRead :
    (let s := State.withK (State.withG lab [(0x3F, 7)]) [(0, 1), (31, 9)]
     [0x3F, 0x40, 0x5F, 0x60, 0x80, 0x9A, 0xC0, 0xFE, 0xFF].map fun n => (s.rd32 3 (BitVec.ofNat 8 n) 0x55).toNat)
      = [7, 1, 9, 1, 0, 1, 0xFFFFFFE1, 31, 0x55] := by decide +kernel

/-- The lengths that the boundary registers need. -/
theorem witness_ResultsWritten : lab.Runs 0 ∧ (lab.th 0).g.length = 0x3F + 1 ∧ (lab.co (lab.th 0).coh).k.length = 0x5F - 0x40 + 1 := by decide

/-- A cohort with a handler, away from its entry. -/
theorem witness_FaultEntersTheHandler :
    0 < lab.threads.length ∧ (lab.th 0).coh < lab.cohorts.length ∧ (lab.co 0).handler ≠ 0xFFFFFFFF ∧ (lab.th 0).pc ≠ (lab.co 0).handlerPc := by decide

/-- A cohort without a handler, and a thread at its handler's entry. -/
theorem witness_UnhandledFaultStopsTheCohort :
    ((labOf 1 1 0xFFFFFFFF).co 0).handler = 0xFFFFFFFF ∧ ((labOf 1 1 0).th 0).pc = ((labOf 1 1 0).co 0).handlerPc
    ∧ ((go (.trap (w 0 0 0xE0 0 0)) (labOf 1 1 0xFFFFFFFF)).th 0).run = .stopped := by decide +kernel

/-- Every jump with a target that is 2 too far. -/
theorem witness_MisalignedTargetFaults :
    (let s := State.withG lab [(2, 0x42)]
     [outFault (.bra (wi 0 0 0 0 0 2)) s, outFault (.jmp (w 0 2 0 0 0)) s, outFault (.callRelative (wi 4 0 0 0 0 2)) s, outFault (.callRegister (w 4 2 0 0 0)) s,
       outFault (.ret (w 0 2 0 0 0)) s]) = [(6, 0x8002), (6, 0x42), (6, 0x8002), (6, 0x42), (6, 0x42)] := by decide +kernel

/-- `team`, with a fault handler at 0x100 from the entry. -/
def teamH (s : State) : State := s.setCo 0 { s.co 0 with handler := 0x100 }

/-- A state for each cause of TEAM. -/
theorem witness_TeamFaultCauses :
    (let v := w 5 2 0 0x79 3
     [outFault (.vote (w 5 2 0 0x7A 3)) (teamH (team 2 3 0x52 v [])), outFault (.vote v) (teamH (team 2 2 0x52 v [])),
       outFault (.vote v) (teamH (team 2 3 0x54 v [(1, [0])])), outFault (.lanex (w 5 2 0xE0 0x79 0)) (teamH (team 2 3 0x53 v [])),
       outFault (.lser (w 0 0 0 0x79 0)) (teamH ((team 2 3 0 v []).setCo 0 { ((team 2 3 0 v []).co 0) with regions := List.replicate 8 (some ⟨0, none, [], []⟩) })),
       outFault (.tset (w 0x79 2 0 0 0)) (teamH (team 2 3 0x54 v [(1, [0])]))])
      = [(0x12, 0x21), (0x12, 0x12), (0x12, 0x13), (0x12, 0x14), (0x12, 0x15), (0x12, 0x16)] := by decide +kernel

/-- Thread 0 is ready to execute every opcode up to 0x30 with general registers as operands, which IntegerResults, WideIntegerResults, LogicAndShiftResults, CountsAndFields,
MovesAndSelects, FloatArithmeticResults and FloatConversionResults ask for. -/
theorem witness_Ready : ∀ op ∈ List.range 0x31, lab.Ready 0 op (w 2 4 6 8 0) := by decide +kernel

/-- Element widths of PADD: 8, 16 and 4 bits. -/
theorem witness_PackedAddResults : [0, 1, 2].all (fun m => decide (lab.Ready 0 0x1D (w 1 2 3 0 m) ∧ m.toNat % 4 ≠ 3)) = true := by decide +kernel

/-- Shifts and rotations, over 32 and 64 bits. -/
theorem witness_LogicAndShiftResults : [0x0F, 0x10, 0x11].all (fun op => [0, 4].all fun m => decide (lab.Ready 0 op (w 2 4 6 0 m))) = true := by decide +kernel

/-- Aligned targets of every jump, the first word of the buffer among them. -/
theorem witness_ControlFlowGoesOn :
    (let s := State.withG lab [(2, 0), (3, 0)]
     [outPc (.bra (wi 0 0 0 0 0 4)) s, outPc (.jmp (w 0 2 0 0 0)) s, outPc (.ret (w 0 2 0 0 0)) s, outPc (.callRelative (wi 4 0 0 0 0 0xFFFF8000)) s,
       outPc (.callRegister (w 4 2 0 0 0)) s, outPc (.yield (w 0 0 0 0 0)) s]) = [0x8004, 0, 0, 0, 0, 0x8008] := by decide +kernel

/-- A cohort with nothing open, a time that has come and one that has not, a register with nothing open. -/
theorem witness_ThreadControlAndTraps :
    ((lab.co 0).points, (lab.co 0).regions, (lab.co 0).chains) = (List.replicate 8 none, List.replicate 8 none, List.replicate 8 none) ∧ lab.bars = []
    ∧ (lab.launch 0 1).isSome = true ∧ lab.podWaits placedRec.ltag = false
    ∧ lab.Ready 0 0x4E (w 0 2 0 0 0) ∧ (lab.a64 (w 0 2 0 0 0)).toNat ≤ lab.svc.time.toNat
    ∧ lab.svc.time.toNat < ((State.withG lab [(2, 1)]).a64 (w 0 2 0 0 0)).toNat ∧ lab.Ready 0 0x50 (w 0x7F 2 0 0 0) := by decide +kernel

/-- TRAP and BRK, with no answer outstanding. -/
theorem witness_ThreadControlAndTraps_traps : lab.Ready 0 0x48 (w 0 0 2 0 0) ∧ lab.Ready 0 0x49 (w 0 0 2 0 0) ∧ lab.fabric.reqs = [] := by decide

/-- A member that may sign, the first of two and the last of two. -/
theorem witness_TeamInstructionsSignAndExecute :
    (let o := w 5 2 0 0x79 3
     [[], [(1, [9])]].map fun sg =>
       let s := team 2 3 0x52 o sg
       let s1 := s.signs 0 0x52 o 1 [0]
       (decide (s.Ready 0 0x52 o), s.signFail 0 0x52 1 (s.cval 4 1) false == none, s1.allSigned 0 1 (s1.pointOf 0 1), s1.signedOf 0 1 (s1.pointOf 0 1),
         gives (teamEffectOf 0x52 { coh := 0, cv := 1, pt := s1.pointOf 0 1, ms := [0, 1] } { s1 with cur := some 0 }) fun _ => true))
      = [(true, true, false, [0], true), (true, true, true, [0, 1], true)] := by decide +kernel

/-- Values of distinct lanes. -/
theorem witness_TeamValueResults_lanes : (([(0, 5), (31, 0)] : List (Nat × Nat)).map fun x => x.1 % 32).Nodup := by decide

/-- A barrier without a pending arrival, one with a completed arrival, a cohort of two of which one has arrived, and a thread inside a region. -/
theorem witness_BarriersAndRegions :
    (let o := w 0 0 0 0 5
     let s := { go (.barArrive o) lab with cur := some 0 }
     let k := s.barKey 0 0 5
     let two := (labOf 2 1 0).arriveAt 0 k
     let r := (team 1 1 0 o []).setCo 0 { (team 1 1 0 o []).co 0 with regions := List.replicate 8 (some ⟨0, some 0, [], []⟩) }
     [(lab.barFail 0).isNone, ((lab.th 0).pendingAt k).isNone, (s.th 0).pendingAt k == some 0, (s.bar k).gen == 1, (lab.arriveAt 0 k).allArrived k,
       !two.allArrived k, (r.teamFail 0 (r.cval 4 1)).isNone, (r.cco.region 1).map (·.inside) == some (some 0)]) = List.replicate 8 true := by decide +kernel

/-- A buffer-table entry (R177) at index 1 of thread 0's quad: base 0, LENGTH, RIGHTS, OWNER, VALID with local kind, GSEQ. -/
def entryLab (len rights owner kv gseq : Nat) : State :=
  { lab with bufc := (0, 0, 1, toLE 8 0 ++ toLE 8 len ++ toLE 1 rights ++ toLE 1 owner ++ toLE 1 3 ++ toLE 1 kv ++ toLE 8 0 ++ toLE 4 gseq) :: lab.bufc }

/-- An invalid entry, a malformed one, an end one byte past LENGTH, no write right, another owner, an older GSEQ, and an access that ends at LENGTH. -/
theorem witness_MemoryPortChecks :
    (let code (s : State) (acc : Acc) (off : Nat) : Nat × Nat := match s.portEntry s.tctx acc (mkPtr 1 off) 4 with
       | .error (.fault c d) => (c, d.toNat % 2 ^ 48) | .error _ => (99, 0) | .ok _ => (0, 0)
     [code (entryLab 0x100 7 0 0 0) .read 0, code (entryLab 0x100 7 0 0x0D 0) .read 0, code (entryLab 0x100 7 0 8 0) .read 0xFD,
       code (entryLab 0x100 5 0 8 0) .write 0xFC, code (entryLab 0x100 7 1 8 0) .read 0xFC, code (entryLab 0x100 7 0 8 2) .read 0xFC,
       code (entryLab 0x100 7 0 8 0) .atomic 0xFC])
      = [(7, 0), (7, 0), (7, 0x100), (8, 0xFC), (9, 0xFC), (0x18, 1 + 3 * 2 ^ 16), (0, 0)] := by decide +kernel

/-- An access through the flat buffer whose bytes lie in one cached leaf, at the leaf's end. -/
theorem witness_MemoryPortChecks_leaf :
    gives (lab.portEntry lab.tctx .read 0x3FFFFFFC 4) (fun r => r.1.kind == 0 && placedLeaf.frame / 2 ^ 44 == r.1.domain) = true
    ∧ ((List.range 4).all fun i => tlbFind lab.tlb1 0 0 (0x3FFFFFFC + i) == some placedLeaf) = true
    ∧ gives (lab.port lab.tctx .read 0x3FFFFFFC 4) (fun r => match r.1 with | .here ls => keysOf ls == [0x3FFFFFFC, 0x3FFFFFFD, 0x3FFFFFFE, 0x3FFFFFFF] | _ => false)
      = true := by decide +kernel

/-- Loads of every width at aligned addresses that the port admits. -/
theorem witness_LoadsComplete :
    ([0, 1, 2, 3, 4].all fun m => decide (lab.Ready 0 0x60 (w 4 0x40 0 0 m)) && decide (lab.Ready 0 0x61 (w 4 0x40 0xDF 0 m)) && decide (lab.Ready 0 0x64 (w 4 0x40 0xDF 0 m))
      && ptrOff (lab.memAddr (w 4 0x40 0 0 m) false) % 2 ^ wOf (w 4 0x40 0 0 m) == 0
      && gives (lab.readMem lab.tctx (lab.memAddr (w 4 0x40 0 0 m) false) (2 ^ wOf (w 4 0x40 0 0 m)) (min (2 ^ wOf (w 4 0x40 0 0 m)) 8)) fun r =>
          r.1.length == 2 ^ wOf (w 4 0x40 0 0 m)) = true := by decide +kernel

/-- The port's answer lies on this device and the access may be made there. -/
def here (s : State) (acc : Acc) (ptr : DWord) (n : Nat) (p : List Loc → Bool) : Bool :=
  gives (s.port s.tctx acc ptr n) fun r => match r.1 with
    | .here ls => gives (r.2.guardLocs s.tctx acc ptr ls) (fun _ => true) && p ls
    | .away _ _ _ _ => false

/-- Stores of every width, and STREL. -/
theorem witness_StoresComplete :
    ([0, 1, 2, 3, 4].all fun m => decide (lab.Ready 0 0x62 (w 4 0x40 0 0 m)) && decide (lab.Ready 0 0x63 (w 4 0x40 0xDF 0 m))
      && gives (lab.writeMem lab.tctx 0 (lab.storeData 60 (wOf (w 4 0x40 0 0 m))) (min (2 ^ wOf (w 4 0x40 0 0 m)) 8)) fun _ => true) = true
    ∧ lab.Ready 0 0x65 (w 1 0x40 0xDF 0 2) ∧ here lab .write (lab.memAddr (w 1 0x40 0xDF 0 2) true) 4 (fun _ => true) = true := by decide +kernel

/-- A cohort of a span of two at position 0. -/
def spanLab : State := lab.setCo 0 { lab.co 0 with spanSize := 2 }

/-- The last aligned word of the scratchpad, the first byte beyond it, the cohort as its own peer, and a member the span has not. -/
theorem witness_ScratchpadAccess :
    lab.Ready 0 0x66 (w 2 1 0 0 2) ∧ spanLab.Ready 0 0x67 (w 2 1 0 0 2) ∧ lab.Ready 0 0x68 (w 2 1 0 0 2)
    ∧ (lab.co 0).scrFail 0xFFC 4 = none ∧ (lab.co 0).scrFail 0xFFD 4 = some (.fault 7 0x1000) ∧ (lab.co 0).place ≠ .gone
    ∧ gives (spanLab.peer 0 0) (fun c => c.uid == 1 && c.scrgr == 1) = true ∧ spanLab.cco.spanPos = 0 ∧ spanLab.cco.spanSize ≤ 2 := by decide +kernel

/-- Distinct bytes that nothing has written. -/
theorem witness_LoadAfterStore :
    0 < lab.threads.length ∧ ([8, 9] : List Nat).Nodup ∧ lab.fresh [8, 9] = true
    ∧ ((lab.storePiece (.thread 0) 0 8 false [8, 9] [1#8, 0#8] false [] []).loadPiece (.thread 0) [8, 9] true).1 = [1#8, 0#8] := by decide +kernel

/-- The home atomics and RED at address 0, and ATOM (memory-side) on a memory-side page. -/
theorem witness_AtomicsAndRed :
    (let m := { lab with tlb1 := [(0, { placedLeaf with mside := true })] }
     lab.Ready 0 0x69 (w 5 0x40 6 0 0x2C0) ∧ lab.Ready 0 0x6A (w 4 0x40 6 8 0x20) ∧ m.Ready 0 0x6B (w 5 0x40 6 7 12) ∧ lab.Ready 0 0x6C (w 0 0x40 6 0 0x80)
     ∧ here lab .atomic 0 4 (fun _ => true) = true ∧ here lab .atomic 0 8 (fun _ => true) = true ∧ here m .atomic 0 4 (fun ls => ls.all (·.mside)) = true
     ∧ lab.homeRefused (lab.knownBy (.thread 0)) = false) := by
  decide +kernel

/-- A compare-swap that matches and one that does not, at bytes that nothing has written. -/
theorem witness_AtomicValues :
    lab.fresh [0, 1, 2, 3] = true ∧ ([0, 1, 2, 3] : List Nat).Nodup
    ∧ (atomNew 12 0 (leNat ([0, 1, 2, 3].map (Memory.get lab.mem))) 0 9).map (toLE 4) = some [9#8, 0#8, 0#8, 0#8]
    ∧ (atomNew 12 0 (leNat ([0, 1, 2, 3].map (Memory.get lab.mem))) 1 9).map (toLE 4) = none := by decide +kernel

/-- A thread sees, of a doubleword that another wrote, what lies inside a fenced half: its first half only, and may read the old or the new
second half; reading all of it gives the write as a whole (R198, R207). -/
theorem test_fencer_partly_inside :
    (let s0 := (labOf 2 1 0).storePiece (.thread 0) 0 8 false ((List.range 8).map (8 + ·)) ((List.range 8).map fun _ => 7#8) false [] []
     let s := s0.see (.thread 1) (s0.prov.writes.flatMap fun w => s0.insideOf 0 [(8, 4)] w.wid)
     ((s.histAt 11).mayRead (s.seenBy (.thread 1))).map (·.2) = [7#8] ∧ ((s.histAt 12).mayRead (s.seenBy (.thread 1))).map (·.2) = [7#8, 0#8]
     ∧ (s.loadPiece (.thread 1) ((List.range 8).map (8 + ·)) true).1 = (List.range 8).map fun _ => 7#8) := by decide +kernel

/-- A thread with no request outstanding; FENCER of length 0, and over four bytes that are mapped. -/
theorem witness_FencesAndPrefetch :
    lab.fabric.reqs = [] ∧ lab.prov.reds = [] ∧ lab.Ready 0 0x6D (w 0 0 0 0 0) ∧ lab.Ready 0 0x6E (w 0 2 0x40 0 0) ∧ (lab.b64 (w 0 2 0x40 0 0)).toNat = 0
    ∧ (let s := State.withG lab [(4, 4)]
       ((s.b32 (w 0 2 4 0 0)).toNat == 4 && gives (s.portEntry s.tctx .read 0 4) fun r => r.1.kind == 0 && (r.2.fenceParts r.1 0 4).all fun p =>
         gives (r.2.fencePart s.tctx r.1 0 p) fun _ => true) = true) := by decide +kernel

/-- A 16 x 16 INT8 TILE view, and another at 0x200. -/
def tileV (b : Nat) : View := ⟨2, 2, 0, false, false, b, 16, 16, 32, 0, 0, 0, 0⟩

/-- A CF32 view, a scaled FP8 view and an FP32 accumulator beside them. -/
def viewsLab : State :=
  State.withV lab [(1, tileV 0), (2, tileV 0x200), (3, ⟨2, 15, 0, false, false, 0x400, 1, 4, 32, 0, 0, 0, 0⟩), (4, ⟨2, 9, 1, false, false, 0x500, 1, 32, 32, 0x600, 0, 0, 0⟩),
    (5, ⟨3, 13, 0, false, false, 0x800, 16, 16, 64, 0, 0, 0, 0⟩), (6, ⟨2, 13, 0, false, false, 0xC00, 16, 16, 64, 0, 0, 0, 0⟩)]

/-- VSET's record passes; VLD and VST of the last element, of a CF32 element and with CVT; a plain view for VZERO; a plan for MCOPY; MTRANS's shapes. -/
theorem witness_ViewInstructions :
    (let s := State.withG viewsLab [(1, 15)]
     let v9 := State.withG (labOf 1 9 0) [(8, 0x000D0902), (9, 0x4000), (10, 0x00800080), (11, 0x80), (12, 0x8000)]
     [v9.viewHeld 0 2 == none, viewCheck (v9.quadBytes 8 ++ v9.quadBytes 12) (9 * 4096) == none, viewKindOk view2.pack && view2.pack.length == 32,
      gives (s.viewOf 2 0x69) (· == tileV 0), s.vCheck (w 5 1 0x69 1 1) (tileV 0) == none,
      s.vCheck (w 6 0xE2 0x6B 0 0) ⟨2, 15, 0, false, false, 0x400, 1, 4, 32, 0, 0, 0, 0⟩ == none,
      s.vCheck (w 6 0xFE 0x6C 0 8) ⟨2, 9, 1, false, false, 0x500, 1, 32, 32, 0x600, 0, 0, 0⟩ == none && (fmtFF 9).isSome, (tileV 0).isPlain,
      gives (s.copyPlan (w 0x6E 0x6D 0xDF 0xE0 0x200)) fun p => !p.scr && p.spaceFail == none,
      gives (s.copyPlan (w 0x6D 2 0xDF 0xE0 0x36)) fun p => p.scr && (s.cco.scrFail 0 (p.count * p.areaRow)).isNone && p.spaceFail == none,
      (let d := tileV 0x200; let v := tileV 0
       (d.kind == 2) && (v.kind == 2) && (d.layout != 1) && (d.fmt == v.fmt) && (d.rows == v.cols) && (d.cols == v.rows))]) = List.replicate 11 true := by
  decide +kernel

/-- A code-table image of KIND 0: one symbol, 0, with a code of one bit. -/
def ctImage : List Nat := [0, 1, 1, 0] ++ List.replicate 316 0

/-- The same image as bytes. -/
def ctBytes : List Byte := ctImage.map (BitVec.ofNat 8)

/-- Tensor 0: FP4 elements, valid, 16 x 16 tiles in a grid of 1 x 2, DATA at 0x10000, INDEX at 0x20000 of the flat buffer; its tile 0 is raw. -/
def catLab : State :=
  let r := toLE 1 8 ++ toLE 1 0 ++ toLE 2 1 ++ toLE 2 16 ++ toLE 2 16 ++ toLE 2 1 ++ toLE 2 2 ++ toLE 4 0 ++ toLE 8 0x10000 ++ toLE 8 0x20000
    ++ (List.range 8).flatMap fun _ => toLE 4 0xFFFFFFFF
  let s := State.withMem lab 0 ctImage
  { s with parts := s.parts.set 0 { s.pa 0 with ttbase := 0x2000 },
           mem := Memory.setAll (Memory.setAll s.mem 0x2000 r) 0x20000 (toLE 4 0 ++ toLE 4 160 ++ toLE 4 160 ++ toLE 4 3) }

/-- An image at 0, which the port admits and where no byte is poisoned, passes every check, a slot holds it, the record and the entry of tile 0 are found, and CATSET's entry may be written at its home. -/
theorem witness_CodeTablesAndCatalogue :
    (let s := State.withK catLab []
     let e := toLE 4 0 ++ toLE 4 32 ++ toLE 4 32 ++ toLE 4 1
     [gives (s.portParts s.tctx .read 0 320) (fun _ => true) && s.poison == [] && s.fresh (List.range 320) && ctCheck ctBytes == none,
      ((s.setCo 0 (s.cco.setT [0] 5 (some { bytes := ctBytes, source := 0 }))).ctval 1 5).isSome,
      gives (s.writeMem s.tctx 0x100 ctBytes 1) (fun _ => true),
      gives (s.catRecord s.tctx 0) (fun r => r.2.1 == 0 && gives (r.2.2.catEntry s.tctx r.1 0 0) fun q =>
        (TileEnt.parse r.1.app q.1).valid && !(TileEnt.parse r.1.app q.1).bad),
      gives (s.catRecord s.tctx 0) (fun r => !(TileEnt.parse r.1.app e).bad && here r.2.2 .write (r.1.entryPtr 0) 16 fun ls => !r.2.2.entryHeld ls && !r.2.2.homeRefused (r.2.2.knownBy s.tctx.agent)),
      decide (s.Ready 0 0xB0 (w 0 0x40 0 0 5)), decide (s.Ready 0 0xB3 (w 0 0x40 2 4 0))]) = List.replicate 7 true := by decide +kernel

/-- Room in the queues, a plain view, and for every engine command operands that pass its checks. -/
theorem witness_EngineCommandsIssue :
    (let s := State.withK (State.withG viewsLab [(1, 0x100), (4, 0x200)]) [(8, 0x0001000200000004), (9, 0x0000000400000100)]
     decide ((s.ops.filter fun x => x.core == s.cco.core && x.holdsEntry).length < 32)
      && gives (s.tileView (w 1 2 0x69 0 0) true) (fun v => v == tileV 0)
      && decide ((s.c32 (w 1 2 0x69 0xE0 0)).toNat % 32 = 1) && decide ((s.b64 (w 1 2 4 0 1)).toNat = 0x200)
      && (s.cco.sideFail 0 0 4 2 1 256 0).isNone && (s.cco.sideFail 1 0x200 4 2 1 4 0).isNone
      && (s.cco.scrFail 0x200 256).isNone && !s.messagesFull
      && here s .read 0 64 (fun _ => true) && s.devRoom 0 && decide (s.Ready 0 0xD3 (w 1 0x40 0 0 0))) = true := by decide +kernel

/-- A return header with VALID 1 at 0x10 of the scratchpad, and a row of NOUT 2 after it. -/
theorem witness_EngineCommandsIssue_rret :
    (let s := State.withG (State.withScr lab 0x10 [0, 0, 1, 0, 9, 0, 0, 0, 7, 0, 2, 0, 0, 0, 0, 0]) [(2, 0x10), (3, 0x20)]
     (field (s.scrRead (.thread 0) 1 0x10 16 4).1 2 1, field (s.scrRead (.thread 0) 1 0x10 16 4).1 10 2, ((go (.rret (w 1 2 3 0 0)) s).th 0).isPend 1)) = (1, 2, true) := by
  decide +kernel

/-- A table of one station, a source row, a routing row that names the station, and a descriptor for K 1 and NOUT 4. -/
def routeLab : State :=
  let ring : Ring := { core := 0, num := 0, coh := 0, part := 0, base := 0x800, slots := 2, sl := 7, head := 0, tail := 0, known := [] }
  let s := State.withV { lab with rings := [ring], tables := [{ quad := 0, num := 0, part := 0, stations := [{ ring := 0, cap := 1, round := 0, count := 0 }] }] }
    [(3, ⟨2, 13, 0, false, false, 0, 1, 4, 32, 0, 0, 0, 0⟩), (4, ⟨2, 4, 0, false, false, 0x100, 1, 2, 32, 0, 0, 0, 0⟩)]
  State.withG (State.withScr s 0x40 [0, 0, 0, 0, 0, 0, 0, 0, 0, 0, 0, 0, 0, 0, 0, 0, 1, 0, 5, 0, 4, 0, 1, 0]) [(2, 0x40)]

/-- ROUTE's checks pass there, and it issues its operation. -/
theorem witness_EngineCommandsIssue_route :
    (let s := go (.route (w 1 2 0x6B 0x6C 0)) routeLab
     ((s.th 0).isPend 1, s.ops.map (·.kind), s.reasm.map fun e => (e.num, e.active, e.choices.map (·.station)))) = (true, [3], [(5, true, [0])]) := by decide +kernel

/-- PXCH of a region of 2^9 bytes, held and begun. -/
theorem witness_EngineCommandsIssue_pxch :
    (let s := State.withG lab [(3, 9 + 8 * 2 ^ 11)]
     ((s.b32 (w 1 0x40 3 4 1)).toNat % 64, (s.b32 (w 1 0x40 3 4 1)).toNat / 2 ^ 11 % 64, ((go (.pxch (w 1 0x40 3 4 1)) s).ops.map (·.phase == .held))))
      = (9, 8, [true]) := by decide +kernel

/-- A done future, an expired one and a running one; a launch's future. -/
theorem witness_FuturesComplete :
    (let d := holding 2 0 .done 7 (.chain [])
     let e := lab.setTh 0 ((lab.th 0).setFuture 2 (handleWord 0 0 5))
     let r := holding 2 0 .running 0 (.chain [])
     let l := holding 2 5 .running 0 (.launch [] none false)
     [(d.handleAt 2).isDone && !(d.handleAt 2).isBad, e.handleAt 2 == .expired, !(r.handleAt 2).isDone && !(r.handleAt 2).isBad,
      hKind ((l.th 0).gv 2) == 5 && match l.resolve 0 ((l.th 0).gv 2) with | .op x => x.kind == 5 | _ => false,
      hKind (handleWord 5 0 5) == 5 && lab.resolve 0 (handleWord 5 0 5) == .expired,
      (r.findOp 0 5).isSome && !failedOf 0#32]) = List.replicate 6 true := by decide +kernel

/-- QCFG of an idle queue; a queue with room, one with an entry and an empty one; a ring's lowest entry; a ring with and without a message. -/
theorem witness_QueuesAndRings :
    (let q : TQueue := { base := 0x100, depth := 1, size := 8, head := 0, known := [] }
     let qs (k : List (List Nat)) : State := lab.setCo 0 { lab.co 0 with queues := (lab.co 0).queues.set 15 (some { q with known := k }) }
     let ring (k : List (List Nat)) : State := State.withG { lab with rings := [{ core := 0, num := 0, coh := 0, part := 0, base := 0, slots := 2, sl := 6, head := 0, tail := 0, known := k }] } [(3, 0x400)]
     [(lab.cco.scrFail 0 (256 * 16)).isNone && lab.queueLine 0 15 == [] && nth none lab.cco.queues 15 == none,
      (qs []).cco.queueReady 15 true, (qs [[]]).cco.queueReady 15 false, !(qs []).cco.queueReady 15 false && !(qs [[]]).cco.queueReady 15 true,
      (lab.cco.scrFail 0 (64 + 2 * 2 ^ 6)).isNone && (List.range 64).find? (fun e => !(ring []).rings.any fun r => r.core == 0 && r.num == e) == some 1,
      match (ring [[]]).ring 0 with | some r => r.coh == 0 && r.known != [] && (lab.cco.scrFail 0x400 (2 ^ r.sl)).isNone | none => false]) = List.replicate 6 true := by
  decide +kernel

/-- RTCFG of a table of one station in memory. -/
theorem witness_QueuesAndRings_rtcfg :
    (let s := State.withMem { lab with rings := [{ core := 0, num := 3, coh := 0, part := 0, base := 0, slots := 2, sl := 6, head := 0, tail := 0, known := [] }] } 0
       [1, 0, 0, 0, 0, 0, 0, 0, 0x00, 0x03, 0, 0, 5, 0, 0, 0]
     (go (.rtcfg (w 0 0xDF 0x40 0 0)) s).tables.map fun t => (t.num, t.stations.map fun x => (x.ring, x.cap))) = [(0, [(0x300, 5)])] := by decide +kernel

/-- The system instructions need only a ready thread. -/
theorem witness_SystemInstructions : ∀ op ∈ [0xD5, 0xE0, 0xE1, 0xE2, 0xE3, 0xE4], lab.Ready 0 op (w 2 0x90 4 0 0) ∧ lab.Runs 0 ∧ gives lab.releaseHome (fun _ => true) = true := by
  decide +kernel

/-- No operation 5; every kind of operation where its event finds it; one that is held until a time that has come; a limit that has passed. -/
theorem witness_EngineEvents :
    (lab.findOp 0 5).isNone = true
    ∧ ([OpBody.copy false 0 0 0 0 0 0 0 0 0 0 0 0, .tileLd 0 view2 2 false [], .tileDec 0 0 false false [], .tileChk 0 0 1 [], .lowRank ⟨[], none, 0, none⟩ 1 2,
        .pxch 0 9 0 8 0].all fun b => match (holding 2 0 .running 0 b).findOp 0 5 with
          | some o => o.body == b && o.phase == .running && decide (o.start.toNat ≤ lab.svc.time.toNat) && decide (lab.svc.time.toNat < o.start.toNat + 10 ^ 7)
          | none => false) = true
    ∧ ((holding 2 5 .held 0 (.launch [] none false)).findOp 0 5).map (fun o => (o.phase, decide (o.start.toNat ≤ lab.svc.time.toNat))) = some (.held, true)
    ∧ ((go (.pxchTimeout 0 5) { holding 2 6 .running 0 (.pxch 0 9 0 8 0) with svc := { lab.svc with time := 10000000 } }).findOp 0 5).map (·.phase) = some .done := by
  decide +kernel

/-- A matrix operation of core 0; a route under way whose first choice waits, one whose rows are over, one whose limit has passed; a sleeping thread. -/
theorem witness_EngineEvents_units :
    (let m : MatOp := { core := 0, coh := 0, cv := 1, tids := [], eff := ⟨[], none, 0, none⟩, chained := false }
     let r := go (.route (w 1 2 0x6B 0x6C 0)) routeLab
     let ops (s : State) : Bool := match s.routeOp 0 5 with
       | some (e, o) => o.phase == .running && gives (s.routeStart e o) fun x => x.1.ended || x.1.next.isSome
       | none => false
     [(({ lab with matops := [m] } : State).matops.find? fun m => m.core == 0).isSome, ops r, ops { r with reasm := r.reasm.map fun e => { e with ended := true } },
      (r.reasm.all fun e => decide (({ e with timeout := 1 } : Reasm).timeout ≠ 0)),
      ((go (.waittExpiry 0) (lab.setTh 0 { lab.th 0 with run := .blocked (.time 0) })).th 0).run == .ready]) = List.replicate 5 true := by decide +kernel

/-- A host queue whose page refuses, one that holds a record, one that is idle beside a device queue that is not. -/
theorem witness_CuratorEvents_acceptance :
    (let p : State := { lab with parts := lab.parts.set 0 { lab.pa 0 with hqcb := 0x1000 } }
     let q (b : List Nat) : State := State.withMem p 0x1000 b
     let kind (s : State) : Nat := match s.hostQueue 0 with | .waits _ _ => 1 | .record _ _ _ => 2 | .idle => 3 | .bad => 4
     [kind { q [] with svc := { lab.svc with rebuilding := [channelOf 0x1000] } }, kind (q [0, 0, 0, 0, 0, 0, 0, 0, 1, 0, 0, 0, 0, 0, 0, 0, 4, 0, 0, 0, 0, 0, 0, 0, 0, 0x20]),
       kind (q [1, 0, 0, 0, 0, 0, 0, 0, 1, 0, 0, 0, 0, 0, 0, 0, 4, 0, 0, 0, 0, 0, 0, 0, 0, 0x20])] ++ [if (p.pa 0).present then 1 else 0]) = [1, 2, 3, 1] := by
  decide +kernel

/-- A cohort whose threads have exited, one to be saved, one whose limit for draining has come, an aborting launch, a reset request. -/
theorem witness_CuratorEvents :
    (let x := go (.exitShort 0) lab
     let sv := lab.setCo 0 { lab.co 0 with taken := .save }
     let dr := lab.setCo 0 { lab.co 0 with taken := .drain 5 0 1 0 }
     let ab : State := { lab with launches := lab.launches.map fun l => { l with aborting := true } }
     let hr := State.withMem { lab with parts := lab.parts.set 0 { lab.pa 0 with hctrl := 0x1000 } } 0x1000 [1]
     [(x.co 0).place == .resident && (x.thsOf 0).all (fun t => (x.th t).run == .exited) && !x.busyOps (x.co 0) && !x.redsAway 0,
      (sv.co 0).taken == .save && (sv.co 0).place == .resident && !sv.saveWaits 0 && !sv.redsAway 0,
      (dr.co 0).taken == .drain 5 0 1 0 && (dr.launch 0 1).isSome,
      match ab.launch 0 1 with | some l => l.aborting && decide (l.state < 2) | none => false,
      lab.svc.booted, (hr.pa 0).present && (hr.pa 0).hctrl != 0 && gives (hr.hubRead 0 none (hr.pa 0).hctrl 64) fun r => field r.1 0 8 == 1 && field r.1 0x10 48 == 0])
      = List.replicate 6 true := by decide +kernel

/-- A thread at a PC that the cache lacks; a page that arrives for a parked thread; a refused thread; a write and a RED on their way; an outstanding
request; an access of the companion. -/
theorem witness_FabricAndHomeEvents :
    (let c : Ctx := { agent := .core 0, part := 0, core := some 0, quad := 0, seq := some 1 }
     let m : Migration := { id := 3, leaf := placedLeaf, pte := 0, frame := 0, askers := [.op 0 0] }
     let st := go (.stW32Short 0 2 0 2) (State.withG lab [(2, 5)])
     let rd := go (.red (w 0 0x40 6 0 0)) lab
     let rq : RemoteReq := { id := 4, agent := .thread 0, node := 9, seq := 0, part := 0, va := 0, off := 0, kind := 0, len := 4, mod := 0, data := [], sent := 0, again := 0, release := none, answer := none, learned := [] }
     [(issuing.co 0).place == .resident && (issuing.th 0).pc == 0x8000 && match issuing.fill c 0 (issuing.fetchKnown 0 1) 0x8000 with | .word _ _ _ => true | .wait _ _ => false,
      ({ lab with migrations := [m] } : State).migrations.any fun y => y.id == 3,
      ((lab.setTh 0 { lab.th 0 with run := .blocked (.page 3 0) }).th 0).run == .blocked (.page 3 0), lab.poison == [],
      ((go (.requestRetry 0) (lab.setTh 0 { lab.th 0 with run := .blocked .retry })).th 0).run == .ready,
      match st.writeRec 256 with | some r => isGlobal r.key && r.keys.all fun k => !st.refused r.agent { key := k, va := 0, mside := false, enc := false } | none => false,
      rd.prov.reds.any fun x => !rd.refused (.thread x.thread) { key := x.key, va := x.va, mside := false, enc := false },
      match ({ lab with fabric := { lab.fabric with reqs := [rq] } } : State).findReq 4 with | some x => x.answer == none | none => false,
      gives (lab.hostAccess { agent := .host 0, part := 0, core := none, quad := 48, seq := none } 0x40 false false 4 []) fun r => r.1.length == 4]) = List.replicate 9 true := by
  decide +kernel

/-- A request for this node, for a node without a route and for one with a route. -/
theorem witness_FabricAndHomeEvents_remote :
    lab.svc.booted = true ∧ lab.node = 0 ∧ lab.routePorts 5 = 0
    ∧ linked.routePorts 5 ≠ 0 := by decide +kernel

/-- Balances that reach their limits, a first and a last channel, a pending request for each answer, temperatures at their limits. -/
theorem witness_ManagementEvents :
    (let mail (k : Nat) : State := { State.reset with window := Memory.setAll State.reset.window 0x4000 [BitVec.ofNat 8 k, 0#8, 0#8, 0#8, 1#8] }
     [State.reset.parts.all fun p => !p.present, decide (-8 ≤ State.reset.refbal 255 + 0 - (8 : Int)), decide (State.reset.refbal 0 + 1 - 0 ≤ (8 : Int)),
      !(State.reset.chstat 255).testBit 5, (go (.retire 17) State.reset).svc.rebuilding.any fun c => c / 16 == 1,
      (mail 1).mailPending && (mail 1).win 0x4000 4 == 1, (mail 2).mailPending && (mail 2).win 0x4000 4 == 2, (mail 0).mailPending && (mail 0).win 0x4000 4 == 0,
      State.reset.pcap == 2200]) = List.replicate 9 true := by decide +kernel

/-- A ready, well-formed instruction of each part of the frame: integer, predicate destination, k destination, floating point. -/
theorem witness_RegisterFrame :
    ([(Instr.iadd (w 1 2 3 0 0), 0x00, w 1 2 3 0 0), (.iset (w 0x67 2 3 0 0), 0x1B, w 0x67 2 3 0 0), (.mov (w 0x5F 0 4 0 4), 0x18, w 0x5F 0 4 0 4),
      (.fscl (w 63 2 3 0 0), 0x30, w 63 2 3 0 0)].all fun x => canonOf x.1 == some (x.2.1, x.2.2) && x.1.wellFormed && decide (lab.Ready 0 x.2.1 x.2.2)
        && match exec x.1 lab with | .next _ => true | _ => false) = true := by decide +kernel

/-- Loads and stores of the smallest and the largest width that complete with no RED pending. -/
theorem witness_MemoryFrame :
    lab.prov.reds = []
    ∧ ([0, 4].all fun m => (Instr.ldKBase (w 60 0x40 0 0 m)).wellFormed && decide (lab.Ready 0 0x60 (w 60 0x40 0 0 m)) && decide (lab.Ready 0 0x62 (w 60 0x40 0 0 m))
        && gives (lab.portParts lab.tctx .write 0 (2 ^ wOf (w 60 0x40 0 0 m))) (fun r => match r.1 with
            | [(.here ls, 0, n)] => n == 2 ^ wOf (w 60 0x40 0 0 m) && gives (r.2.guardLocs lab.tctx .write 0 ls) fun _ => true
            | _ => false)
        && decide (lab.Ready 0 0x68 (w 60 1 0 0 m)) && (lab.cco.scrFail (lab.scrOff (w 60 1 0 0 m)) (2 ^ wOf (w 60 1 0 0 m))).isNone) = true := by decide +kernel

/-- `issuing` with these bytes at the member's PC. -/
def issuingWord (bs : List Nat) : State := State.withMem issuing 0x8000 bs

/-- A fetched word's mark: its guard, and whether its bytes could not be fetched. -/
def markOf (s : State) : Option (BitVec 4 × Bool) :=
  match ({ s with group := s.group.map fun g => { g with left := [] } } : State).fetch 0 with | .word (.mark _ _ g u) _ _ => some (g, u) | _ => none

/-- A marked word with guard 0, one with guard 0b1000, and one whose buffer entry is absent. -/
theorem witness_StepRunsTheFetchedInstruction_mark :
    (markOf (issuingWord [0xFC, 0, 0, 0]), markOf (issuingWord [0xFC, 0x08, 0, 0]),
      markOf ({ issuing with bufc := [(0, 0, 1, List.replicate 32 0#8)] }.setTh 0 { issuing.th 0 with pc := mkPtr 1 0 }))
      = (some (0, false), some (8, false), some (0, true)) := by decide +kernel

/-- Both stores of a state that issues a thread are canonical, and its step answers one whose stores are. -/
theorem witness_StepKeepsTheStores :
    issuing.wf ∧ (match step issuing with | .next s => Memory.wf s.mem && Memory.wf s.window | _ => false) = true :=
  ⟨⟨by decide +kernel, by decide +kernel⟩, by decide +kernel⟩

/-- A live cohort, and for each kind of operation that ends cancelled one where its core has it. -/
theorem witness_UnhandledFaultStopsTheCohort_stop :
    0 < lab.cohorts.length ∧ (lab.co 0).place = .resident
    ∧ ([(Phase.running, OpBody.tileLd 0 View.null 0 false []), (.running, .tileDec 0 0 false false []), (.running, .tileChk 0 0 1 []),
        (.held, .copy false 0 0 0 0 0 4 1 1 0 0 0 0), (.running, .copy true 1 0 3 0 0 4 1 1 0 0 0 0), (.running, .tileSt 0 View.null 0 0 1 false []),
        (.running, .tileAp 0 View.null 0 0 1 false [])].all fun x =>
          match (holding 2 0 x.1 0 x.2).findOp 0 5 with
          | some o => o.phase == x.1 && o.phase != .done && o.body == x.2 && ((holding 2 0 x.1 0 x.2).cancelEngine o).ops.all fun y => y.status == engStatus 0x47 0
          | none => false) = true := by decide +kernel

/-- Finite and special patterns at the borders of their classes, and an exact reciprocal. -/
theorem witness_FloatValues :
    ([1, 0x7F7FFFFF, 0x7F800000, 0x7F800001, FF.fp32.flushIn true 0x80000001].map fun v => match FF.fp32.value v with
      | .fin x => some (x.m != 0) | .inf _ => none | .nan => some false) = [some true, some true, none, some false, some false]
    ∧ (fsfValue .rne 0 0x3F800000).2 &&& OF = 0 := by decide +kernel

/-- MCHE without a chain, signed by its only member: its effect is a fault. -/
theorem witness_TeamInstructionsSignAndExecute_fault :
    (let o := w 5 0 0 0x79 0
     let s := team 1 1 0x94 o []
     let s1 := s.signs 0 0x94 o 1 []
     (decide (s.Ready 0 0x94 o), s.signFail 0 0x94 1 (s.cval 4 1) false == none, s1.allSigned 0 1 (s1.pointOf 0 1), s1.signedOf 0 1 (s1.pointOf 0 1),
       fails (teamEffectOf 0x94 { coh := 0, cv := 1, pt := s1.pointOf 0 1, ms := [0] } { s1 with cur := some 0 }) (· == .fault 0x12 (10 + 16))))
      = (true, true, true, [0], true) := by decide +kernel

/-- Two members with distinct lanes that name a factor view. -/
theorem witness_TeamValueResults_team :
    (let s := State.withV (team 2 3 0x53 (w 63 0x69 0 0x79 0) []) [(1, ⟨6, 13, 0, false, false, 0, 16, 16, 0, 0, 4, 1, 1024⟩)]
     let c : TeamCtx := { coh := 0, cv := 1, pt := { pc := 0x8000, op := 0x53, word := w 63 0x69 0 0x79 0, signed := [(0, [7]), (1, [9])] }, ms := [0, 1] }
     (decide c.ms.Nodup, c.ms.all (· < s.threads.length), c.ms.map fun t => (s.th t).lane, c.ms.map fun t => (s.th t).tid, c.pt.word.d.toNat,
       gives (s.viewOf 2 c.pt.word.a) (·.kind == 6))) = (true, true, [0, 1], [0, 1], 63, true) := by decide +kernel

/-- An INT8 A of 1 x 32 and B of 32 x 1 for an INT32 C of 1 x 1, and a CF32 A, B and C. -/
def mmaLab (op : Nat) (o : Canon) : State :=
  State.withV (team 1 1 op o [])
    [(0, ⟨3, 4, 0, true, false, 0x800, 1, 1, 32, 0, 0, 0, 0⟩), (1, ⟨5, 2, 0, false, false, 0, 1, 32, 32, 0, 0, 0, 0⟩), (2, ⟨5, 2, 0, false, false, 0x100, 32, 1, 32, 0, 0, 0, 0⟩),
      (3, ⟨4, 13, 0, false, false, 0x900, 1, 1, 32, 0, 0, 0, 0⟩), (4, ⟨5, 15, 0, false, false, 0xA00, 1, 2, 32, 0, 0, 0, 0⟩), (5, ⟨5, 15, 0, false, false, 0xB00, 2, 1, 32, 0, 0, 0, 0⟩)]

/-- The team context of a lone member. -/
def lone (op : Nat) (o : Canon) : TeamCtx := { coh := 0, cv := 1, pt := { pc := 0x8000, op := op, word := o, signed := [(0, [])] }, ms := [0] }

/-- Operands that pass MMA's and CMMA's checks, with no chain and within one; MCHB and MCHE with none and with one. -/
theorem witness_MatrixResults :
    (let i := w 0x68 0x69 0x6A 0x79 0
     let c := w 0x6B 0x6C 0x6D 0x79 0
     let s := ((mmaLab 0x91 i).flushMat 0).joinTeam (lone 0 (w 0 0 0 0x79 0))
     let chained (s : State) : State := s.setCo 0 { s.co 0 with chains := (s.co 0).chains.set 1 (some []) }
     [gives (s.mmaCheck 0x91 i) fun x => decide (0 < x.1.ch) && x.1.a.cols % x.1.ch == 0 && x.1.a.rows * x.1.b.cols == 1 && gives (x.2.mmaB x.1) fun y => (y.2.2.co 0).chain 1 == none,
      gives ((chained s).mmaCheck 0x91 i) fun x => gives (x.2.mmaB x.1) fun y => (y.2.2.co 0).chain 1 == some [],
      gives ((((mmaLab 0x92 c).flushMat 0).joinTeam (lone 0 (w 0 0 0 0x79 0))).mmaCheck 0x92 c) fun _ => true,
      (s.co 0).chain 1 == none, ((chained s).co 0).chain 1 == some []]) = List.replicate 5 true := by decide +kernel

/-- Two factor views and a destination: `dr` its MAXRANK, `pool` its POOLSZ, `ra` and `rb` the ranks of the operands. -/
def factLab (op : Nat) (o : Canon) (dr pool ra rb : Nat) : State :=
  State.withV (team 1 1 op o [])
    [(0, ⟨6, 13, 0, false, false, 0x800, 2, 2, 0, 0, dr, 0, pool⟩), (1, ⟨6, 13, 0, false, false, 0, 2, 2, 0, 0, 4, ra, 1024⟩), (2, ⟨6, 13, 0, false, false, 0x400, 2, 2, 0, 0, 4, rb, 1024⟩)]

/-- LRADD and LRMUL whose result fits, one whose rank exceeds MAXRANK, one whose bytes exceed POOLSZ; LRSCALE; the views of REQNT. -/
theorem witness_LowRankResults :
    (let o := w 0x68 0x69 0x6A 0x79 0
     let sc := w 0x68 0x69 0xE1 0x79 0
     let q := w 0x6D 0x6C 0 0x79 0
     let v (b so : Nat) : View := ⟨2, 9, 1, false, false, b, 1, 32, 32, so, 0, 0, 0⟩
     let lr (op dr pool ra rb : Nat) (p : LrOut → Bool) : Bool :=
       let s := ((factLab op o dr pool ra rb).flushMat 0).joinTeam (lone 0 (w 0 0 0 0x79 0))
       gives (s.lrOut op (.thread s.me) o) p
     let r := State.withV (team 1 1 0x85 q []) [(4, v 0 0x100), (5, v 0x200 0x300)]
     [lr 0xA1 4 1024 1 1 fun p => p.res.rank == 2 && !p.res.dense && decide (({ p.dst with rank := p.res.rank, dense := false } : View).occupancy ≤ p.dst.poolsz),
      lr 0xA0 4 1024 1 2 fun p => p.res.rank == 1, lr 0xA0 4 1024 0 2 fun p => p.res.rank == 0,
      lr 0xA0 0 1024 1 1 fun p => decide (p.dst.maxrank < p.res.rank) && !p.res.dense,
      lr 0xA0 1 0 1 1 fun p => decide (p.dst.poolsz < ({ p.dst with rank := p.res.rank, dense := p.res.dense } : View).occupancy),
      gives ((factLab 0xA8 sc 4 1024 1 1).lrScale (.thread 0) sc) fun p => p.res.rank == 1,
      gives ((factLab 0xA1 o 4 1024 2 2).lrAdd (.thread 0) o) fun p => p.res.rank == 4,
      gives (r.viewOf 1 q.d) fun d => gives (r.viewOf 2 q.a) fun v => reqntFail d v (vwIdx q.d) (vwIdx q.a) == none]) = List.replicate 8 true := by decide +kernel

/-- LDACQ of a word that the port admits; a byte with a write that a thread may and one that it may not still read, and one that nothing has written. -/
theorem witness_LoadsComplete_acquire :
    (let a := (labOf 2 1 0).storePiece (.thread 0) 0 8 false [8] [7#8] true [] []
     let b := a.storePiece (.thread 0) 0 8 false [8] [9#8] true [] []
     let h := b.histAt 8
     [gives (lab.acquireRead lab.tctx (lab.memAddr (w 4 0x40 0xDF 0 2) true) 4 1) fun r => r.1.length == 4,
      here lab .read 0 4 (fun _ => true) && lab.prov.reds == [],
      (h.mayRead (b.seenBy (.thread 0))).map (·.2) == [9#8], (h.mayRead (b.seenBy (.thread 1))).map (·.2) == [9#8, 7#8, 0#8],
      h.writes.all (fun x => x.wid != 0 && (b.writeRec x.wid).any fun y => y.keys.contains 8), b.guess == none,
      (lab.histAt 8).mayRead (lab.seenBy (.thread 0)) == [(0, 0#8)]]) = List.replicate 7 true := by decide +kernel

/-- The thread of a release executes with no RED pending. -/
theorem witness_StoresComplete_release : lab.cur = some 0 ∧ lab.tctx.agent = .thread 0 ∧ lab.prov.reds = [] := by decide

/-- Scratchpad accesses at a misaligned offset, beyond the allocation, and to members that the span lacks and has. -/
theorem witness_ScratchpadAccess_faults :
    (let at_ (n : Nat) (s : State) : State := State.withG s [(1, n)]
     let o := w 2 1 0 0 2
     let two := { spanLab with cohorts := spanLab.cohorts ++ [{ (spanLab.co 0) with uid := 2, lin := 1 }] }
     [outFault (.lds o) (at_ 2 lab), outFault (.sts o) (at_ 0xFFE lab), outFault (.lds o) (at_ 0x1000 lab), outFault (.sts o) (at_ 0x1000 lab),
       outFault (.ldsQuadPeer (w 2 1 0 0 0x2002)) (at_ 0 spanLab), outFault (.ldsQuadPeer o) (at_ 0x1000 spanLab)]
        = [(6, 2), (6, 0xFFE), (7, 0x1000), (7, 0x1000), (9, 2 * 2 ^ 44), (7, 0x1000)]
      ∧ gives (two.peer 1 0) (fun c => c.uid == 2) = true ∧ (two.cohortAt 0 1 1).map (·.uid) = some 2) := by decide +kernel

/-- Bytes that nothing has written, in a canonical store, with nothing predicted. -/
theorem witness_LoadAfterStore_store : lab.guess = none ∧ Memory.wf lab.mem = true ∧ lab.fresh [0xFFFF, 0x10000] = true := by decide +kernel

/-- A thread without an encrypted block in use. -/
theorem witness_AtomicValues_home : 0 < lab.threads.length ∧ lab.svc.enc = [] ∧ Memory.wf lab.mem = true := by decide

/-- A fence of another thread at the same scope, each in the other's instance; and one part of a range that the port admits. -/
theorem witness_FencesAndPrefetch_pair :
    (let s := (labOf 2 1 0).fence (.thread 1) 0 1
     s.prov.fences.map (fun f => (f.agent == .thread 1, s.reaches 0 1 (.thread 0) f.agent, s.reaches f.part f.scope f.agent (.thread 0))) = [(true, true, true)]
     ∧ s.prov.reds = [] ∧ s.threads.length = 2
     ∧ s.homeRefused ((s.prov.fences.getLast?.map (·.known)).getD []) = false) := by decide +kernel

/-- A range of one byte at the end of a page, and a leaf that it meets; an unanswered request of the partition that BTINV does not name. -/
theorem witness_SystemInstructions_ranges :
    (let rq : RemoteReq := ⟨4, .thread 0, 9, 0, 0, 0, 5 * 2 ^ 48, 0, 4, 0, [], 0, 0, none, none, []⟩
     ({ lab with bigPages := [placedLeaf] } : State).coveredPages 0 0xFFFF 1 = [(0, 0x10000), (placedLeaf.va, placedLeaf.size)]
     ∧ lab.agPart rq.agent = some (lab.co 0).part ∧ ptrBuf (BitVec.ofNat 64 rq.off) = 5) := by decide +kernel

/-- A register written by two threads: what each and a third may read, and what a barrier then makes certain. -/
theorem witness_SpecialRegisters_uniform :
    (let c := ((UCell.start 3#64).write 1 [0] 5#64).write 2 [1] 7#64
     (c.values 0, c.values 1, c.values 2, (c.certain 32 [(1, 3)] [2]).values 2, c.newest, c.hist.map (·.id)) = ([7, 5], [7], [7, 5, 3], [7], 7, [2, 1])
     ∧ (lab.launch 0 1).isSome = true ∧ lab.Runs 0) := by decide +kernel

/-- Operations that are held until a time that has come and a PXCH begun 9 ms ago; a core whose matrix engine has nothing under way. -/
theorem witness_EngineEvents_pxch :
    (let p (ph : Phase) (t : DWord) : State := { holding 2 6 ph 0 (.pxch 0 9 0 8 0) with svc := { lab.svc with time := t } }
     ((p .held 0).findOp 0 5).map (fun o => (o.phase, decide (o.start.toNat ≤ (p .held 0).svc.time.toNat), o.part)) = some (.held, true, 0)
     ∧ ((p .running 9999999).findOp 0 5).map (fun o => (o.phase, decide ((p .running 9999999).svc.time.toNat < o.start.toNat + 10 ^ 7))) = some (.running, true)
     ∧ ((p .running 10000000).findOp 0 5).map (fun o => decide (o.start.toNat + 10 ^ 7 ≤ (p .running 10000000).svc.time.toNat)) = some true
     ∧ lab.matops = [] ∧ (holding 2 5 .held 0 (.launch [] none false)).ops.map (·.phase) = [.held]) := by decide +kernel

/-- A present partition outside a reset and one within one, a device queue with a record, a host queue that is broken, a device with nothing waiting. -/
theorem witness_CuratorEvents_queues :
    (let bad := State.withMem { lab with parts := lab.parts.set 0 { lab.pa 0 with hqcb := 0x1000 } } 0x1000 [1, 0, 0, 0, 0, 0, 0, 0, 1, 0, 0, 0, 0, 0, 0, 0, 3]
     let queued : State := { lab with parts := lab.parts.set 0 { lab.pa 0 with hostBad := true, devq := [{ bytes := [], core := 0, serial := 0, known := [] }] } }
     [(lab.pa 0).present, !lab.resetting 0, ({ lab with hubq := [.reset 0 0] } : State).resetting 0, match bad.hostQueue 0 with | .bad => true | _ => false,
      (queued.pa 0).devq != [], match queued.hostQueue 0 with | .idle => true | _ => false, lab.hubq == [] && lab.fabric.podDue == [] && lab.fabric.letGo == [] && lab.prov.reds == [], lab.svc.booted])
      = List.replicate 8 true := by decide +kernel

/-- A cohort to be saved, in a partition without a save area; a victim whose limit has come, for a launch that still awaits the cohort and for one that does not. -/
theorem witness_CuratorEvents_save :
    (let b := labOf 1 0 0x100
     let s := b.setCo 0 { b.co 0 with taken := .save }
     let s1 := ((s.flushMat 0).drainChains 0).releaseCohort 0
     let g := s1.freeGranules 0 (s1.imageGranules 0)
     let d : State := { lab.setCo 0 { lab.co 0 with taken := .drain 5 0 1 0 } with svc := { lab.svc with time := 5 } }
     let e : State := { d with launches := d.launches.map fun l => { l with nextLin := 0 } }
     let can (s : State) : Option (Bool × Bool) := (s.launch 0 1).map fun l => (s.eligible l, s.awaits l 0)
     let s2 := (((s1.thsOf 0).foldl (fun st t => st.see (.thread t) (s1.cohortKnown 0)) s1).mapThs (s1.thsOf 0) fun t => { t with listed := .no }).losePools 0
     [gives ((s2.image 0).2.writeImage 0 g (s2.image 0).1) fun _ => true, !s.saveWaits 0,
       decide (5 ≤ d.svc.time.toNat), (d.co 0).place == .resident, can d == some (false, false), can e == some (true, true)]) = List.replicate 6 true := by decide +kernel

/-- A request for another node that a port carries, a request of kind 7, a cached answer, a page table entry of no poison, a pod of two nodes seen from either. -/
theorem witness_FabricAndHomeEvents_far :
    (let c : Ctx := { agent := .node 5 0 0, part := 0, core := none, quad := 48, seq := none }
     let pod (base node : Nat) : State := { lab with window := Memory.setAll (Memory.setAll [] 0x100 (toLE 8 (base + 2 ^ 24))) 0x118 (toLE 8 node) }
     let rq : RemoteReq := ⟨4, .thread 0, 9, 7, 0, 0, 0, 0, 4, 0, [], 0, 0, none, none, []⟩
     let out : State := { lab with fabric := { lab.fabric with reqs := [rq] }, svc := { lab.svc with time := 10000000 } }
     let kept : State := { lab with fabric := { lab.fabric with replay := [{ src := 5, seq := 3, result := [1#8] }] } }
     [gives (lab.farPlace c 0 7 16 0) fun r => r.1.length == 16, fails (({ lab with tlb2 := [] } : State).farPlace c (2 ^ 57 - 16) 0 4 0) fun _ => true,
      kept.fabric.replay.any (fun r => r.src == 5 && r.seq == 3), !lab.resetting 0, lab.svc.booted && lab.node == 0,
      out.fabric.reqs.any (fun x => x.node == 9 && x.seq == 7 && x.answer.isNone) && decide (rq.again + 20000 ≤ out.svc.time.toNat) && decide (rq.sent + 10 ^ 7 ≤ out.svc.time.toNat),
      (pod 4 5).podBase == 4 && (pod 4 5).node == 5, (pod 4 4).node == (pod 4 4).podBase && (pod 4 4).inPod 5 && (pod 4 4).podReports 0 1 0 == [],
      (lab.pa 0).present && gives ((lab.hostHears 0 0).hostAccess { agent := .host 0, part := 0, core := none, quad := 48, seq := none } 0x40 true false 4 [1, 2, 3, 4]) fun _ => true])
      = List.replicate 9 true := by decide +kernel

/-- A mailbox that is idle with a request of each kind, one without, one that is busy with each kind; a domain map that stands and one that is changed; an image. -/
theorem witness_ManagementEvents_units :
    (let mail (k seq : Nat) : State := { State.reset with window := Memory.setAll State.reset.window 0x4000 [BitVec.ofNat 8 k, 0#8, 0#8, 0#8, BitVec.ofNat 8 seq] }
     let dom (d : List Byte) : State := State.reset.winWrite (fun x => if 0x40 ≤ x ∧ x < 0xF0 ∧ x % 16 < 8 then 0xFF else 0) 0x40 d
     let img : Image := { step := 6, version := 1, security := 0, signature := [], rest := [], whole := [] }
     [(mail 1 1).svc.mail == none && (mail 1 1).mailPending, !(mail 2 0).mailPending, (mail 2 1).mailTaken.svc.mail == some (2, List.replicate 32 0#8, 1),
      (dom []).domapOk && (List.range 11).all (fun d => State.reset.dom d == (dom []).dom d),
      (dom (toLE 4 0 ++ toLE 4 1)).domapOk && !(List.range 11).all (fun d => State.reset.dom d == (dom (toLE 4 0 ++ toLE 4 1)).dom d),
      !(dom (toLE 4 0 ++ toLE 4 10986329)).domapOk, ([img].find? fun x => x.step == 6) == some img, decide (State.reset.refbal 0 + 0 - 9 < (-8 : Int)),
      decide (11718749 < 11718750) && !(State.reset.chstat 0).testBit 5]) = List.replicate 9 true := by decide +kernel

/-- The next state that an instruction answers. -/
def runs (i : Instr) (s : State) : Bool := match exec i s with | .next _ => true | _ => false

/-- LDACQ, LDS, LDS (quad-peer), STREL, the atomics, RED and STS, each well formed, ready, and admitted by the port or the scratchpad. -/
theorem witness_MemoryFrame_memory :
    (let m : State := { lab with tlb1 := [(0, { placedLeaf with mside := true })] }
     [(lab, Instr.ldacq (w 4 0x40 0xDF 0 0x202), 0x64, w 4 0x40 0xDF 0 0x202, gives (lab.acquireRead lab.tctx (lab.memAddr (w 4 0x40 0xDF 0 0x202) true) 4 1) fun _ => true),
      (lab, .lds (w 2 1 0 0 2), 0x66, w 2 1 0 0 2, lab.scrOff (w 2 1 0 0 2) % 4 == 0 && (lab.cco.scrFail 0 4).isNone),
      (spanLab, .ldsQuadPeer (w 2 1 0 0 2), 0x67, w 2 1 0 0 2, gives (spanLab.peer 0 0) fun c => c.scrgr == 1),
      (lab, .strel (w 1 0x40 0xDF 0 2), 0x65, w 1 0x40 0xDF 0 2, here lab .write (lab.memAddr (w 1 0x40 0xDF 0 2) true) 4 fun _ => true),
      (lab, .atomHome (w 5 0x40 6 0 0), 0x69, w 5 0x40 6 0 0, here lab .atomic 0 4 fun _ => true),
      (lab, .atomCompareSwap (w 4 0x40 6 8 0x20), 0x6A, w 4 0x40 6 8 0x20, here lab .atomic 0 8 fun _ => true),
      (m, .atomMemorySide (w 5 0x40 6 7 12), 0x6B, w 5 0x40 6 7 12, here m .atomic 0 4 fun ls => ls.all (·.mside)),
      (lab, .red (w 0 0x40 6 0 0), 0x6C, w 0 0x40 6 0 0, here lab .atomic 0 4 fun _ => true),
      (lab, .sts (w 2 1 0 0 2), 0x68, w 2 1 0 0 2, (lab.cco.scrFail 0xFFC 4).isNone)].all fun x =>
        canonOf x.2.1 == some (x.2.2.1, x.2.2.2.1) && x.2.1.wellFormed && decide (x.1.Ready 0 x.2.2.1 x.2.2.2.1) && x.1.prov.reds == [] && Memory.wf x.1.mem
          && x.2.2.2.2 && runs x.2.1 x.1) = true := by decide +kernel

/-- VST, VZERO, MCOPY between a matrix and a plain view and into the scratchpad, and MTRANS, with views that pass their checks. -/
theorem witness_MemoryFrame_views :
    (let s := viewsLab
     let ok (i : Instr) (op : Nat) (o : Canon) : Bool := canonOf i == some (op, o) && i.wellFormed && decide (s.Ready 0 op o) && runs i s
     [ok (.vst (w 5 1 0x69 0 0)) 0x83 (w 5 1 0x69 0 0) && gives (s.viewOf 3 0x69) (fun v => (s.vCheck (w 5 1 0x69 0 0) v).isNone),
      ok (.vst (w 6 0xE2 0x6B 0 0)) 0x83 (w 6 0xE2 0x6B 0 0), ok (.vzero (w 0x69 0 0 0 0)) 0x84 (w 0x69 0 0 0 0),
      ok (.mcopy (w 0x6E 0x6D 0xDF 0xE0 0x200)) 0x95 (w 0x6E 0x6D 0xDF 0xE0 0x200)
        && gives (s.copyPlan (w 0x6E 0x6D 0xDF 0xE0 0x200)) (fun p => !p.toMat && !p.scr && p.part != 3 && p.spaceFail.isNone && p.mv.kind != 6),
      ok (.mcopy (w 0x6D 2 0xDF 0xE0 0x36)) 0x95 (w 0x6D 2 0xDF 0xE0 0x36)
        && gives (s.copyPlan (w 0x6D 2 0xDF 0xE0 0x36)) (fun p => p.scr && p.part != 3 && p.spaceFail.isNone),
      ok (.mtrans (w 0x6A 0x69 0 0 0)) 0x96 (w 0x6A 0x69 0 0 0), Memory.wf s.mem && s.prov.reds == []]) = List.replicate 7 true := by decide +kernel

/-- A load of 4 bytes at address 0 at the PC, predicted as 0 and committed to the initial write, and one predicted as 1 that nothing commits. -/
theorem witness_StepRunsTheFetchedInstruction_predict :
    (let s (v : List Byte) (rest : List Turn) : State := { State.withMem lab 0x8000 [0x94, 0x50, 0x00, 0x00] with cur := none, agenda := .predict 0 v :: rest }
     let rest : List Turn := [.core 0, .commit 256 [0, 0, 0, 0]]
     let yes (v : List Byte) : State := { s v rest with agenda := rest, guess := some (0, v) }
     [(s [] rest).group.isNone, (s [] rest).guess.isNone, (s [] rest).prov.guesses == [],
       (yes [0#8, 0#8, 0#8, 0#8]).certain, !(yes [1#8, 0#8, 0#8, 0#8]).certain]) = List.replicate 5 true := by decide +kernel

/-- A box of two rows of 3 B between scratchpad and tile space: its bytes are distinct, nothing has written them, and none is a destination; the multicast's only named
core is the operation's own. -/
theorem witness_CopyResults :
    (let s : State := lab
     let o : Op := opOf 5 0 .running 0 (.copy false 2 1 0 0x40 0x10 3 2 1 4 3 0 0)
     let pts := boxBytes 3 2 1 4 3 0 0
     let from_ (d : Int) : Loc := { key := scrKey 1 (16 + d).toNat, va := 0, mside := false, enc := false }
     let into (d : Int) : Loc := { key := tileKey 1 (64 + d).toNat, va := 0, mside := false, enc := false }
     [pts.length == 6 && pts.contains (6, 5), pts.all fun p => (s.sideSpot o.ctx .read 1 o.uid 0x10 p.1).1 == .loc (from_ p.1) && s.fresh [(from_ p.1).key],
      pts.all fun p => (s.sideSpot o.ctx .write 2 o.uid 0x40 p.2).1 == .loc (into p.2), s.prov.guesses == [] && s.svc.enc == [] && Memory.wf s.mem,
      decide (pts.map fun p => sideAddr 2 0x40 p.2).Nodup, decide (pts.map fun p => (into p.2).key).Nodup,
      pts.all fun p => pts.all fun q => (from_ p.1).key != (into q.2).key,
      gives (s.castCheck (s.co o.coh) 1 0x40 3 2 1 3 0) (· == [1])]) = List.replicate 8 true := by decide +kernel

/-- Factor operands of rank 1, 2 and 0 and a dense one, each with as many elements as it has places; columns with a NaN, columns whose product overflows, and columns
that are recompressed; a finite tolerance. -/
theorem witness_LowRankResults_values :
    (let one := 0x3F800000
     let facts : List Fact := [⟨2, 2, 1, false, [one, 0, 0, one]⟩, ⟨2, 2, 2, false, [one, 0, 0, one, 0, one, one, 0]⟩, ⟨2, 2, 0, false, []⟩, ⟨2, 2, 0, true, [one, 0, 0, one]⟩]
     let fin (u v : List (List Nat)) : Bool := (u ++ v).all fun c => c.all fun x => (f32v x).isFin
     [facts.all fun x => x.xs.length == (if x.dense then x.m * x.n else x.r * (x.m + x.n)), (lrMul (nth ⟨0, 0, 0, true, []⟩ facts 0) (nth ⟨0, 0, 0, true, []⟩ facts 1)).rank == 1,
      (lrMul (nth ⟨0, 0, 0, true, []⟩ facts 3) (nth ⟨0, 0, 0, true, []⟩ facts 1)).dense, !fin [[0x7FC00000]] [[one]],
      fin [[0x7F7FFFFF, 0x7F7FFFFF]] [[one, one]] && (recompressFin .fp32 [[0x7F7FFFFF, 0x7F7FFFFF]] [[one, one]] 2 2 0 none).isNone,
      fin [[one]] [[one]] && (recompressFin .fp32 [[one]] [[one]] 1 1 0 none).isSome, (f32v 0x3F000000).isFin]) = List.replicate 7 true := by decide +kernel

/-- LRSCALE and LRKEEP of rank 1, LRADD of a dense operand, of two that fit and of two that .auto recompresses, LRCUT of a dense source and of a factor source. -/
theorem witness_LowRankResults_factors :
    (let o := w 0x68 0x69 0x6A 0x79 0
     let f (dr ra rb : Nat) : State := factLab 0xA1 o dr 1024 ra rb
     let dense (s : State) : State := State.withV s [(1, ⟨6, 13, 0, false, true, 0, 2, 2, 0, 0, 4, 0, 1024⟩)]
     [gives ((f 4 1 1).lrAdd (.thread 0) o) fun p => p.res.rank == 2, gives ((dense (f 4 1 1)).lrAdd (.thread 0) o) fun p => p.res.dense,
      gives ((f 1 1 1).lrAdd (.thread 0) { o with mod := 1 }) fun p => decide (p.res.rank ≤ 1),
      fails ((dense (f 4 1 1)).lrCut (.thread 0) o none) fun _ => true,
      gives ((f 4 1 1).lrOut 0xA2 (.thread 0) o) fun p => !p.res.dense, gives ((f 4 1 1).lrOut 0xA3 (.thread 0) (w 0x68 0x69 0xC1 0x79 0)) fun p => !p.res.dense,
      gives ((f 4 1 1).lrScale (.thread 0) (w 0x68 0x69 0xC1 0x79 0)) fun p => p.res.rank == 1]) = List.replicate 7 true := by decide +kernel

/-- LRFACT of an FP32 source with .dense, where a copy is smaller, and without; a plain destination and a factor one for LRDENSE; the views of LRMMA. -/
theorem witness_LowRankResults_dense :
    (let o := w 0x68 0x69 0x6A 0x79 0
     let one := [0, 0, 0x80, 0x3F]
     let plain (k : Nat) : View := ⟨k, 13, 0, false, false, 0, 2, 2, 32, 0, 0, 0, 0⟩
     let src := State.withTile (State.withTile (State.withV (factLab 0xA4 o 4 1024 0 0) [(1, plain 2)]) 0 one) 36 one
     let team (c : TeamCtx) (s : State) : State := (s.flushMat s.cco.core).joinTeam c
     let mma := State.withV (factLab 0xA6 o 4 1024 0 1) [(0, ⟨3, 13, 0, false, false, 0x800, 2, 2, 8, 0, 0, 0, 0⟩), (1, plain 5)]
     [gives (src.lrFact (.thread 0) { o with mod := 1 }) fun p => p.res.dense, gives (src.lrFact (.thread 0) o) fun p => !p.res.dense,
      gives ((team (lone 0xA5 o) (factLab 0xA5 o 4 1024 1 1)).lrDense (.thread 0) o) fun p => p.1.dst.kind == 6 && gives p.1.effect fun _ => true,
      gives ((team (lone 0xA5 o) (State.withV (factLab 0xA5 o 4 1024 1 1) [(0, ⟨2, 13, 0, false, false, 0x800, 2, 2, 32, 0, 0, 0, 0⟩)])).lrDense (.thread 0) o) fun p => p.1.dst.kind == 2,
      gives (mma.viewOf 1 o.d) fun c => gives (mma.viewOf 2 o.a) fun a => gives (mma.viewOf 3 o.b) fun b =>
        c.kind == 3 && c.fmt == 13 && a.kind == 5 && a.fmt == 13 && a.layout == 0 && a.rows == c.rows && b.kind == 6 && a.cols == b.rows && b.cols == c.cols]) = List.replicate 5 true := by
  decide +kernel

/-- For each of the six instructions of one shape a result that fits, read after the uniform operand; asynchronous ones that fit and that do not; distinct bytes. -/
theorem witness_LowRankResults_effects :
    (let o := w 0x68 0x69 0x6A 0x79 0
     let u := w 0x68 0x69 0xC1 0x79 0
     let out (op : Nat) (o : Canon) (s : State) (p : LrOut → Bool) : Bool :=
       gives (if op = 0xA3 ∨ op = 0xA8 then s.uniform (uniformB o) else .ok s) fun s1 =>
         gives (((s1.flushMat s1.cco.core).joinTeam (lone op o)).lrOut op (.thread 0) o) p
     let fits (p : LrOut) : Bool := gives p.effect fun e => e.1.rank == some (p.vw, p.res.rank, p.res.dense) && decide (e.1.bytes.map (·.1)).Nodup
     let src := State.withV (factLab 0xA4 o 4 64 0 0) [(1, ⟨2, 13, 0, false, false, 0, 2, 2, 32, 0, 0, 0, 0⟩)]
     [out 0xA0 o (factLab 0xA0 o 4 256 1 1) fits, out 0xA1 o (factLab 0xA1 o 4 256 1 1) fits, out 0xA2 o (factLab 0xA2 o 4 256 1 1) fits,
      out 0xA3 u (factLab 0xA3 u 4 256 1 1) fits, out 0xA8 u (factLab 0xA8 u 4 256 1 1) fits, out 0xA4 o src fits,
      out 0xA2 { o with mod := 2 } (factLab 0xA2 { o with mod := 2 } 4 256 1 1) fits,
      out 0xA8 u (factLab 0xA8 u 0 256 1 1) fun p => fails p.effect fun t => match t with | .fault 0x0F _ => true | _ => false]) = List.replicate 8 true := by decide +kernel

/-- A member that the engine's operation can hold, outside a chain and within one, and an operation of distinct bytes whose member waits. -/
theorem witness_MatrixResults_engine :
    (let o := w 0x68 0x69 0x6A 0x79 0
     let s := mmaLab 0x91 o
     let c := lone 0x91 o
     let m : MatOp := { core := 0, coh := 0, cv := 1, tids := [0], eff := ⟨[(tileKey 1 0x800, 7#8), (tileKey 1 0x801, 0#8)], none, 1#5, none⟩, chained := false }
     let b := s.setTh 0 { s.th 0 with run := .blocked .matrix }
     [decide c.ms.Nodup && c.ms.all (· < s.threads.length), decide (m.eff.bytes.map (·.1)).Nodup && Memory.wf b.mem, decide m.tids.Nodup && m.tids.all (· < b.threads.length),
      (b.th 0).run == .blocked .matrix, ((b.finishMat m).th 0).run == .ready]) = List.replicate 5 true := by decide +kernel

/-- The other half of a PXCH that pairs, and one that is bound for another node, where a port leads and where none does. -/
theorem witness_EngineEvents_half :
    (let s := holding 2 6 .running 0 (.pxch 0 9 0 8 3)
     let x : PxchSide := { node := lab.node ^^^ 2 ^ 0, dest := 0, part := 0, tag := 3, ll := 9, nb := 0, hb := 8, ok := true, known := [] }
     [x.dest == s.node, (s.findOp 0 5).any fun o => s.pairs o 9 0 8 3 x && decide (o.start.toNat ≤ s.svc.time.toNat) && decide (s.svc.time.toNat < o.start.toNat + 10 ^ 7),
      linked.node == 0, linked.hasRoute 5, !lab.hasRoute 5]) = List.replicate 5 true ∧ (linked.countFlits 5 0 3 0).isSome = true := by
  have h : linked.fabric.portFlits = [] := by decide +kernel
  refine ⟨by decide +kernel, ?_⟩
  simp only [State.countFlits, h]
  split <;> rfl

/-- Partition 0 whose host queue lies in a page of the capacity tier that must migrate, with no frame in its pool. -/
def pagedLab : State :=
  let p := toLE 8 0x20001 ++ toLE 8 0x20001 ++ toLE 8 0x300033
  { lab with parts := lab.parts.set 0 { lab.pa 0 with hqcb := 0x40020000, ptroot := 0x20000, ranges := [(0, 0x40000)] }, mem := Memory.setAll lab.mem 0x20000 p,
             window := Memory.setAll lab.window 0x44 (toLE 4 4) }

/-- A host queue that is refused and one whose page cannot be brought, each beside a device queue that holds a record, whose turn it is and is not. -/
theorem witness_CuratorEvents_waits :
    (let d : DevRec := { bytes := [], core := 0, serial := 0, known := [] }
     let with_ (s : State) (turn : Bool) : State := { s with parts := s.parts.set 0 { s.pa 0 with devq := [d], devTurn := turn } }
     let held : State := { lab with parts := lab.parts.set 0 { lab.pa 0 with hqcb := 0x1000 }, svc := { lab.svc with rebuilding := [channelOf 0x1000] } }
     let asks (s : State) (ok : Bool) : Bool := match s.hostQueue 0 with | .waits w q => gives (s.request (.hub 0) w q).1 (fun _ => true) == ok | _ => false
     [asks (with_ held true) true, asks (with_ held false) true, asks (with_ pagedLab true) false, ((with_ held true).pa 0).devTurn, !((with_ held false).pa 0).devTurn])
      = List.replicate 5 true := by decide +kernel

/-- A page whose transfer fails, one with a poisoned source, one whose entry is refused and one whose entry is not; another agent that asked. -/
theorem witness_FabricAndHomeEvents_pages :
    (let m : Migration := { id := 3, leaf := { placedLeaf with size := 2 ^ 16, res := true }, pte := 0x200, frame := 0x10000, askers := [.op 0 0] }
     let s : State := { lab with migrations := [m] }
     [(s.migrations.find? fun y => y.id == 3) == some m, s.poison == [], !s.leafHeld m, ({ s with svc := { s.svc with rebuilding := [channelOf 0x200] } } : State).leafHeld m,
      decide (capKey m.leaf.frame ≤ capKey 0 + 5 ∧ capKey 0 + 5 < capKey m.leaf.frame + m.leaf.size), (go (.migrationComplete 3 false) s).failedMoves == [(.op 0 0, 0, 0)],
      (go (.migrationComplete 3 true) { s with poison := [capKey 5] }).failedMoves != []]) = List.replicate 7 true := by decide +kernel

/-- Requests at their home: at a line that is refused, an atomic that only memory-side lines serve, an index entry that an encode holds, one that runs; a partition that is being
reset; barrier messages for this node and for another, with participants left and none. -/
theorem witness_FabricAndHomeEvents_home :
    (let c : Ctx := { agent := .node 5 0 0, part := 0, core := none, quad := 48, seq := none }
     let far (s : State) (kind n : Nat) (mod : BitVec 18) (p : List Loc × State → Bool) : Bool := gives (s.farPlace c 0x100 kind n mod) p
     let held : State := { lab with pins := [(0, 1)] }
     let enc : State := { lab with held := [(0, 0, 0x100)] }
     [fails (held.farPlace c 0x100 0 4 0) fun t => match t with | .wait w q => gives (held.request c.agent w q).1 fun _ => true | _ => false,
      far lab 2 4 0x20000 fun r => r.1.any fun l => !l.mside, far enc 1 16 0x10000 fun r => r.2.farWaits c r.1 1 0x10000, far lab 1 16 0x10000 fun r => !r.2.farWaits c r.1 1 0x10000,
      ({ lab with hubq := [.reset 0 0] } : State).resetting 0, lab.fabric.replay == [], (⟨0, 5, 6, true, []⟩ : PodMsg).dest != lab.node,
      !((lab.podComplete (.pod 0 1 0 0) []).podGone 0 1)]) = List.replicate 8 true := by decide +kernel

/-- Starts in which nothing fails, an optional step fails and had failed, a required step had failed, and a required step fails from both images. -/
theorem witness_ManagementEvents_boot :
    (let all := List.replicate 7 true
     [bootRun (fun _ => false) all [] (List.range 7), bootRun (· == 5) (all.set 6 false) [] (List.range 7), bootRun (· == 2) all all (List.range 7),
       bootRun (fun _ => false) (all.set 1 false) [] (List.range 7), bootRun (fun _ => false) (all.set 3 false) all (List.range 7)])
      = [[0, 0, 0, 0, 0, 0, 0], [0, 0, 0, 0, 0, 2, 1], [0, 0, 3, 0, 0, 0, 0], [0, 1, 2, 2, 2, 2, 2], [0, 0, 0, 3, 0, 0, 0]] := by decide

/-- Loads and stores of either base, well formed, ready and admitted by the port. -/
theorem witness_MemoryFrame_stores :
    (let l := w 4 0x40 0 0 2
     let x := w 4 0x40 0xDF 0 4
     let st (o : Canon) (n : Nat) (ix : Bool) : Bool := gives (lab.portPlan lab.tctx .write (lab.memAddr o ix) n) fun r =>
       gives (r.2.2.writeStop lab.tctx (lab.memAddr o ix) r.1 r.2.1) (fun _ => true) && gives (r.2.2.sendParts lab.tctx (lab.storeData o.d (wOf o)) r.1) fun _ => true
     [(Instr.ldKBase l, 0x60, l, gives (lab.readMem lab.tctx (lab.memAddr l false) 4 4) fun _ => true), (.ldGBaseIndexed x, 0x61, x, gives (lab.readMem lab.tctx (lab.memAddr x true) 16 8) fun _ => true),
      (.stKBase l, 0x62, l, st l 4 false), (.stGBaseIndexed x, 0x63, x, st x 16 true)].all fun y =>
        canonOf y.1 == some (y.2.1, y.2.2.1) && y.1.wellFormed && decide (lab.Ready 0 y.2.1 y.2.2.1) && y.2.2.2 && runs y.1 lab) = true := by decide +kernel

/-- A word of 8 bytes whose first unit is the last of the buffer, and one whose other bytes lie beyond LENGTH. -/
theorem witness_FetchDecodesTheBytes_end :
    (let last : DWord := 2 ^ 48 - 4
     let s1 := State.withMem { issuing with tlb1 := (0, { placedLeaf with va := 2 ^ 48 - 2 ^ 30 }) :: issuing.tlb1 } (2 ^ 30 - 4) [0x85, 0x81, 0, 0]
     let s2 := State.withMem { issuing with bufc := (entryLab 0x100 7 0 8 0).bufc } 0xFC [0x85, 0x81, 0, 0]
     let first (s : State) (pc : DWord) (p : State → Bool) : Bool := (s.cached 0 0 pc).isNone
       && gives (s.fetchBytes lab.tctx (s.fetchKnown 0 1) pc 4) fun r => fillBytes (leNat (r.1.take 1) % 4) == 8 && p r.2
     [first s1 last fun _ => decide (2 ^ 48 ≤ ptrOff last + 4),
      first s2 (mkPtr 1 0xFC) fun s => fails (s.fetchBytes lab.tctx (s.fetchKnown 0 1) (ea (mkPtr 1 0xFC) 4) 4) fun t => match t with | .fault k _ => k == 7 | _ => false])
      = [true, true] := by decide +kernel

/-- Operations of cohort 0 of either kind that end cancelled; a TILEDEC that has asked another device for bytes alone. -/
theorem witness_UnhandledFaultStopsTheCohort_cancel :
    (let rq : RemoteReq := ⟨4, .op 0 5, 9, 7, 0, 0, 0, 0, 4, 0, [], 0, 0, none, none, []⟩
     let s : State := { lab with ops := [{ opOf 4 0 .held 0 (.copy false 0 0 0 0 0 4 1 1 0 0 0 0) with uid := 1 }, { opOf 5 2 .running 0 (.tileDec 0 0 false false []) with uid := 1 }],
                                 fabric := { lab.fabric with reqs := [rq] } }
     [decide (s.ops.map fun x => (x.core, x.serial)).Nodup, decide (s.ops.length ≤ 4096), s.ops.all fun o => o.uid == (s.co 0).uid && (o.kind == 0 || o.kind == 2) && o.phase != .done,
       s.fabric.reqs.all fun r => r.kind != 1, (s.cancelCohort 0).ops.all fun y => y.phase == .done && y.status == engStatus 0x47 0]) = List.replicate 5 true := by decide +kernel

/-- A group that ends with its vote split, one whose branches agree, one that goes on; a BRA whose guard is false. -/
theorem witness_ControlFlowGoesOn_vote :
    (let g (left : List Nat) (taken missed : Nat) : State := { lab with group := some { core := 0, coh := 0, pc := 0, left := left, members := [0], taken := taken, missed := missed } }
     [(((g [] 1 2).endGroup.co 0).divcnt.newest, (g [] 1 2).endGroup.group.isNone), (((g [] 2 0).endGroup.co 0).divcnt.newest, (g [] 2 0).endGroup.group.isNone),
       (((g [0] 1 1).endGroup.co 0).divcnt.newest, (g [0] 1 1).endGroup.group.isNone)]) = [(1, true), (0, true), (0, false)]
    ∧ lab.Runs 0 ∧ (lab.th 0).guard 8 = false ∧ canonOf (.bra ⟨2, 8, 0, 0, 0, 0, 1, 4⟩) = some (0x40, ⟨2, 8, 0, 0, 0, 0, 1, 4⟩) := by decide +kernel

/-- Two members that have signed TSIGN, of which one has written k3; two members at an LSER. -/
theorem witness_TeamInstructionsSignAndExecute_effects :
    (let s0 := team 3 7 0x51 (w 0 0 0 0x79 0) [(0, []), (1, [])]
     let s1 := s0.setTh 2 { s0.th 2 with run := .exited }
     let s := s1.setCo 0 { s1.co 0 with k := (s1.co 0).k.set 3 ((UCell.start 3#64).write 1 [0] 5#64), unext := 2 }
     let c : TeamCtx := { coh := 0, cv := 1, pt := { pc := 0x8000, op := 0x51, word := w 0 0 0 0x79 0, signed := [(0, []), (1, [])] }, ms := [0, 1] }
     [c.ms.all fun t => decide (t < s.threads.length) && (s.teamOf 0 1).contains t, s.exitedOf 0 1 == [2],
       ((s.co 0).k[3]?.map fun u => u.hist.map fun x => (x.writers, x.id)) == some [([0], 1)], decide (1 < (s.co 0).unext),
       gives (teamTsign c s) (fun r => match r with | .resume x => ((x.co 0).k[3]?.map fun u => u.values 1) == some [5] | _ => false),
       decide c.ms.Nodup && decide (c.cv < (s.co 0).regions.length),
       gives (teamLser c s) fun r => match r with | .placed x => (x.th 0).run == .ready && (x.th 1).run == .blocked .entry | _ => false]) = List.replicate 7 true := by
  decide +kernel

/-- A member whose source lane no running member has. -/
theorem witness_TeamValueResults_exited :
    (let s := team 2 7 0x53 (w 5 2 0xE4 0x79 0) []
     [0, 1].all fun t => [0, 1].all fun u => (s.th u).tid % 32 != laneSrc 0 (lanePar (w 5 2 0xE4 0x79 0)) (s.th t).lane) = true := by decide +kernel

/-- A pending arrival whose generation is open, and one whose generation has completed. -/
theorem witness_BarriersAndRegions_pending :
    (let o := w 0 0 0 0 5
     let s (n : Nat) : State := { go (.barArrive o) (labOf n 1 0) with cur := some 0 }
     let k := (s 2).barKey 0 0 5
     [((s 2).th 0).pendingAt k == some 0 && ((s 2).bar k).gen == 0, ((s 1).th 0).pendingAt k == some 0 && ((s 1).bar k).gen == 1,
       decide ((s 2).Ready 0 0x57 o) && ((s 2).redsDone 0 0x57 o).barFail 0 == none, decide ((s 1).Ready 0 0x56 o)]) = List.replicate 4 true := by decide +kernel

/-- A run of bytes that nothing has written, over more than one piece. -/
theorem witness_LoadAfterStore_run : lab.fresh ((List.range 12).map (0xFFFC + ·)) = true ∧ lab.guess = none ∧ 0 < lab.threads.length := by decide +kernel

/-- A device that reaches node 5 or does not, and whose buffer 2 lies there. -/
def peerLab (route : Bool) : State :=
  let s := if route then linked else lab
  { s with bufc := (0, 0, 2, toLE 8 0 ++ toLE 8 0x10000 ++ [7#8, 0#8, 0#8, 0x0A#8] ++ toLE 4 0 ++ toLE 4 5 ++ toLE 4 0) :: s.bufc }

/-- REDs to another device with and without a route, one that has been sent and one behind an earlier one to the same bytes. -/
theorem witness_AtomicsAndRed_away :
    ([true, false].all fun b => gives ((peerLab b).port (peerLab b).tctx .atomic (mkPtr 2 0x40) 4) fun r => match r.1 with
      | .away node _ va _ => node == 5 && va == 0x40 && r.2.hasRoute 5 == b
      | .here _ => false) = true
    ∧ (let r : FarRed := { id := 2, req := none, thread := 0, node := 5, part := 0, va := 0x44, off := 0x44, len := 4, mod := 0, data := [], release := none }
       let s : State := { lab with fabric := { lab.fabric with reds := [{ r with id := 1, va := 0x40 }, r] } }
       (s.fabric.reds.any fun x => x.thread == r.thread && decide (x.id < r.id) && x.node == r.node && x.part == r.part && x.va / 8 == r.va / 8) = true) := by decide +kernel

/-- Patterns of fadd, fmin and fmax: two NaNs, a NaN and a number, zeros of either sign. -/
theorem witness_AtomicValues_float :
    [atomNew 9 0 0x3F800000 0x3F800000 0, atomNew 9 0 0x7FA00000 0 0, atomNew 10 0 0x7FC00001 0x7FC00002 0, atomNew 10 0 0x7FC00001 5 0, atomNew 11 0 5 0xFFC00000 0,
      atomNew 10 0 0 0x80000000 0, atomNew 11 0 0x80000000 0 0] = [0x40000000, 0x7FC00000, 0x7FC00000, 5, 5, 0x80000000, 0].map some := by decide +kernel

/-- FENCER over a buffer whose entry cannot be read. -/
theorem witness_FencesAndPrefetch_poison :
    (let s : State := { lab with poison := [32] }
     fails (s.portEntry s.tctx .read (mkPtr 1 0) 4) fun t => match t with | .fault k _ => k == 0x17 | _ => false) = true := by decide +kernel

/-- Four bytes of scratchpad that thread 0 has written and operation 5 has observed, and their copy. -/
def copiedLab : State × Op :=
  let s := holding 2 0 .running 0 (.copy false 2 1 0 0x40 0x10 4 1 1 0 0 0 0)
  (((s.storePiece (.thread 0) 0 0 false ((List.range 4).map fun i => scrKey 1 (0x10 + i)) [1#8, 2#8, 3#8, 4#8] false [] []).see (.op 0 5) [s.prov.next]),
    { opOf 5 0 .running 0 (.copy false 2 1 0 0x40 0x10 4 1 1 0 0 0 0) with uid := 1 })

/-- Each of those bytes is one known write's, whatever else the copy has seen; all of the piece's are of that write, and no byte of the box lies on another device or in the source. -/
theorem witness_CopyResults_known :
    (∀ i, i < 4 → ∀ seen, (∀ v ∈ copiedLab.1.seenBy (.op 0 5), v ∈ seen) →
      (copiedLab.1.histAt (scrKey 1 (0x10 + i))).mayRead seen = [(copiedLab.1.prov.next - 256, BitVec.ofNat 8 (i + 1))])
    ∧ (let s := copiedLab.1
       let o := copiedLab.2
       let pts := boxBytes 4 1 1 0 0 0 0
       [pts == [(0, 0), (1, 1), (2, 2), (3, 3)], pts.all fun p => (s.sideSpot o.ctx .read 1 o.uid 0x10 p.1).1 == .loc (localSpot (scrKey 1 (0x10 + p.1.toNat))),
         pts.all fun p => s.unmask o.part [localSpot (scrKey 1 (0x10 + p.1.toNat))] [BitVec.ofNat 8 (p.1.toNat + 1)] == [BitVec.ofNat 8 (p.1.toNat + 1)],
         gives (s.sideStop (.op 0 5) 0 (awayPieces (pts.map fun p => (.loc (localSpot (scrKey 1 (0x10 + p.1.toNat))), none)))) fun _ => true,
         s.prov.guesses == [] && s.svc.enc == [] && Memory.wf s.mem]) = List.replicate 5 true := by
  refine ⟨fun i hi seen h => ?_, by decide +kernel⟩
  have hw : copiedLab.1.prov.next - 256 ∈ seen := h _ (by decide +kernel)
  have hh : ∀ i, i < 4 → ∃ b, copiedLab.1.histAt (scrKey 1 (0x10 + i)) = ⟨scrKey 1 (0x10 + i), 0#8, [⟨copiedLab.1.prov.next - 256, BitVec.ofNat 8 (i + 1), [], b⟩]⟩ := by
    intro i hi
    exact ⟨((copiedLab.1.histAt (scrKey 1 (0x10 + i))).writes.map (·.home)).headD false, by
      have : i ∈ List.range 4 := List.mem_range.mpr hi
      revert i; decide +kernel⟩
  obtain ⟨b, hb⟩ := hh i hi
  simp [hb, ByteHist.mayRead, knows, hw]

/-- Two bytes that another device has answered, and where they go. -/
theorem witness_CopyResults_remote :
    (let rq : RemoteReq := ⟨4, .op 0 5, 5, 7, 0, 0x40, mkPtr 2 0x40 |>.toNat, 0, 2, 0, [], 0, 0, none, some (0, 0, 0, [7#8, 8#8]), []⟩
     let s : State := { peerLab true with ops := [{ opOf 5 0 .running 0 (.copy false 0 0 0 0x100 (mkPtr 2 0x40) 2 1 1 0 0 0 0) with uid := 1 }],
                                          fabric := { (peerLab true).fabric with reqs := [rq] } }
     let o : Op := opOf 5 0 .running 0 (.copy false 0 0 0 0x100 (mkPtr 2 0x40) 2 1 1 0 0 0 0)
     let pts := boxBytes 2 1 1 0 0 0 0
     let spot (d : Int) : Spot × State := s.sideSpot o.ctx .read 0 1 (mkPtr 2 0x40) d
     [pts.all fun p => decide (spot p.1 = (.away 5 0 (0x40 + p.1.toNat) (mkPtr 2 (0x40 + p.1.toNat)).toNat, s)),
       pts.all fun p => s.answerByte (.op 0 5) 5 0 (0x40 + p.1.toNat) == some (BitVec.ofNat 8 (7 + p.1.toNat)),
       gives (s.sideStop (.op 0 5) 0 (awayPieces (pts.map fun p => ((spot p.1).1, none)))) fun _ => true,
       pts.all fun p => match (s.sideSpot o.ctx .write 0 1 0x100 p.2).1 with | .loc l => !l.enc && l.key == 0x100 + p.2.toNat | _ => false,
       s.svc.enc == [] && s.prov.guesses == [] && Memory.wf s.mem, pts.all fun p => decide ((s.sideSpot o.ctx .write 0 1 0x100 p.2).2 = s)]) = List.replicate 6 true := by decide +kernel

/-- A box whose rows overlap its destination; a destination on another device that has not been asked, has taken the bytes and has refused them. -/
theorem witness_CopyResults_overlap :
    (let s := peerLab true
     let o : Op := { opOf 5 0 .running 0 (.copy false 1 1 0 0x12 0x10 4 1 1 0 0 0 0) with uid := 1 }
     let pts := boxBytes 4 1 1 0 0 0 0
     let from_ (d : Int) : Loc := localSpot (scrKey 1 (16 + d).toNat)
     let rq (code : Nat) : RemoteReq := ⟨4, .op 0 5, 5, 7, 0, 0x40, mkPtr 2 0x40 |>.toNat, 1, 4, 0, [], 0, 0, none, some (code, 7, 0, []), []⟩
     let with_ (rs : List RemoteReq) : State := { s with fabric := { s.fabric with reqs := rs }, ops := [o] }
     let ask (s : State) : Except Trap Unit := s.sideStop (.op 0 5) 1 (awayPieces (pts.map fun p => (.away 5 0 (0x40 + p.2.toNat) (mkPtr 2 (0x40 + p.2.toNat)).toNat, some 0#8)))
     [pts.all fun p => (s.sideSpot o.ctx .read 1 1 0x10 p.1).1 == .loc (from_ p.1) && s.fresh [(from_ p.1).key],
       pts.any fun p => pts.any fun q => (from_ p.1).key == scrKey 1 (0x12 + q.2.toNat),
       pts.all fun p => decide (s.sideSpot o.ctx .write 0 1 (mkPtr 2 0x40) p.2 = (.away 5 0 (0x40 + p.2.toNat) (mkPtr 2 (0x40 + p.2.toNat)).toNat, s)),
       fails (ask (with_ [])) fun t => match t with | .wait _ _ => true | _ => false, gives (ask (with_ [rq 0])) fun _ => true,
       fails (ask (with_ [rq 1])) fun t => match t with | .fault k _ => k == 7 | _ => false]) = List.replicate 6 true := by decide +kernel

/-- Pieces of eight bytes: one that a thread wrote as a whole, one of which another thread has since written half; parts on this device and on another, whose answer has come. -/
theorem witness_LoadsComplete_pieces :
    (let keys := (List.range 8).map (8 + ·)
     let a := (labOf 2 1 0).storePiece (.thread 0) 0 8 false keys (List.replicate 8 7#8) false [] []
     let b := a.storePiece (.thread 1) 0 8 false [8, 9] [1#8, 2#8] false [] []
     let may (s : State) (k : Nat) : List (Nat × Byte) := (s.histAt k).mayRead (s.seenBy (.thread 0))
     let rq : RemoteReq := ⟨4, .thread 0, 5, 7, 0, 0x40, mkPtr 2 0x40 |>.toNat, 0, 2, 0, [], 0, 0, none, some (0, 0, 0, [7#8, 8#8]), []⟩
     let p : State := { peerLab true with fabric := { (peerLab true).fabric with reqs := [rq] } }
     [a.oneWrite keys && keys.all (fun k => (may a k).any fun x => x == (a.prov.next - 256, 7#8)), !b.oneWrite keys && keys.all fun k => may b k != [],
       gives (p.remote (.thread 0) 5 0 0x40 (mkPtr 2 0x40).toNat 0 2 0 []) (· == [7#8, 8#8]), gives ((p.remoteLearn (.thread 0) 5 0 0x40 0 2).readParts p.tctx 2 0 []) fun _ => true,
       gives (p.readMem p.tctx (mkPtr 2 0x40) 2 2) fun r => r.1 == [7#8, 8#8], p.prov.reds == []]) = List.replicate 6 true := by decide +kernel

/-- The parts of a store in plain memory, and the last bytes of an encrypted capacity tier. -/
theorem witness_StoresComplete_parts :
    (let sealed : List Loc := (List.range 4).map fun i => ⟨2 ^ 57 - 4 + i, 0x100 + i, false, true⟩
     [gives (lab.portPlan lab.tctx .write 0x100 4) fun r => let ls := partLocs r.1
        ls.length == 4 && decide (keysOf ls).Nodup && lab.svc.enc == [] && ls.all (fun l => !l.enc)
          && r.1.all fun p => match p.1 with | .here xs => xs.length == p.2.2 && decide (p.2.1 + p.2.2 ≤ 4) | _ => false,
      gives (lab.writeMem lab.tctx 0x100 [1#8, 2#8, 3#8, 4#8] 4) fun _ => true,
      decide (keysOf sealed).Nodup && sealed.all fun l => l.enc && decide (2 ^ 56 ≤ l.key) && decide (l.key < 2 ^ 57), Memory.wf lab.mem]) = List.replicate 4 true := by
  decide +kernel

/-- A check that passes, one that fails with a cause, one whose stream lies on another device to which no port leads, and a report that stands. -/
theorem witness_EngineEvents_check :
    (let o := opOf 5 2 .running 0 (.tileChk 0 0x100 1 [])
     let empty : State := { catLab with mem := Memory.setAll (Memory.setAll catLab.mem 0x2002 [3#8]) 0x20000 (List.replicate 12 0#8 ++ toLE 4 1) }
     let far : State := { catLab with bufc := (peerLab false).bufc, mem := Memory.setAll catLab.mem 0x2010 (toLE 8 (mkPtr 2 0).toNat) }
     [gives (empty.checkAll o 0 1 []) fun _ => true, fails (catLab.checkAll o (BitVec.ofNat 64 (2 ^ 40)) 1 []) fun t => match t with | .fault _ _ => true | _ => false,
       fails (far.checkAll o 0 1 []) fun t => match t with | .wait w r => fails (far.request (.op 0 5) w r).1 fun _ => true | _ => false,
       ({ o with work := .decoded [1#8] 0 } : Op).work == .decoded [1#8] 0, o.work == .fresh]) = List.replicate 5 true := by decide +kernel

/-- A half to relay over a port and without one; a cancelled decode that has begun to write. -/
theorem witness_EngineEvents_relay :
    linked.hasRoute 5 = true ∧ lab.hasRoute 5 = false ∧ (linked.countFlits 5 4 3 0).isSome = true
    ∧ ((holding 2 2 .committed 0 (.tileDec 0 0 false false [])).findOp 0 5).map (·.phase) = some .committed := by
  have h : linked.fabric.portFlits = [] := by decide +kernel
  refine ⟨by decide +kernel, by decide +kernel, ?_, by decide +kernel⟩
  simp only [State.countFlits, h]
  split <;> rfl

/-- An idle host queue beside an empty device queue, a device with nothing under way, and where the first granule of a save area lies. -/
theorem witness_CuratorEvents_idle :
    (let s : State := { lab with parts := lab.parts.set 0 { lab.pa 0 with hostBad := true, savebase := 0x10000, savelen := 0x4000 } }
     [(match s.hostQueue 0 with | .idle => true | _ => false) && (s.pa 0).devq == [], s.fabric.outDue == [] && s.fabric.reds == [],
       gives (s.port (hubCtx 0 none) .write 0x10000 16) (fun r => match r.1 with
         | .here ls => ls.length == 16 && gives (r.2.guardLocs (hubCtx 0 none) .write 0x10000 ls) fun _ => true
         | _ => false),
       decide (keysOf [localSpot 0x10000, localSpot 0x10001]).Nodup && s.svc.enc == [] && Memory.wf s.mem]) = List.replicate 4 true := by decide +kernel

/-- A request whose requester is gone, one whose node has no route and one that a port can carry; a RED that its home refuses now. -/
theorem witness_FabricAndHomeEvents_resend :
    (let rq (a : Agent) : RemoteReq := ⟨4, a, 5, 7, 0, 0, 0, 0, 4, 0, [], 0, 0, none, none, []⟩
     let rd := go (.red (w 0 0x40 6 0 0)) lab
     [!lab.stillDue (rq (.op 0 9)), lab.stillDue (rq (.thread 0)) && !lab.hasRoute 5, linked.stillDue (rq (.thread 0)) && linked.hasRoute 5,
       rd.prov.reds.length == 1 && rd.prov.reds.all fun x => !rd.redWaits x, rd.prov.reds.all fun x => ({ rd with pins := [(1, lineOf x.key)] } : State).redWaits x])
      = List.replicate 5 true := by decide +kernel

/-- Operands that are not factor views, for each of the six instructions, and for LRDENSE a source that is none and a destination whose pool is too small. -/
theorem witness_LowRankResults_faults :
    (let o := w 0x68 0x69 0xC1 0x79 0
     let bad := State.withV (factLab 0xA0 o 4 1024 1 1) [(1, ⟨2, 13, 0, false, false, 0, 2, 2, 32, 0, 0, 0, 0⟩), (2, ⟨2, 13, 0, false, false, 0, 2, 2, 32, 0, 0, 0, 0⟩)]
     let fault (t : Trap) : Bool := match t with | .fault _ _ => true | _ => false
     let joined (op : Nat) (s : State) : State := (s.flushMat s.cco.core).joinTeam (lone op o)
     [[0xA0, 0xA1, 0xA2, 0xA3, 0xA8].all fun op => gives (if op = 0xA3 ∨ op = 0xA8 then bad.uniform (uniformB o) else .ok bad) fun s1 => fails ((joined op s1).lrOut op (.thread 0) o) fault,
       fails ((joined 0xA4 (factLab 0xA4 o 4 1024 1 1)).lrOut 0xA4 (.thread 0) o) fault, fails ((joined 0xA5 bad).lrDense (.thread 0) o) fault,
       gives ((joined 0xA5 (factLab 0xA5 o 4 0 1 1)).lrDense (.thread 0) o) fun p => p.1.dst.kind == 6 && fails p.1.effect fault]) = List.replicate 4 true := by decide +kernel

/-- A floating MMA's FP32 operands of one chunk of eight, and of two; run-scaled operands and a plain one; a floating and an integer check that fail, a CMMA's, and a tile name in
registers that hold no future. -/
theorem witness_MatrixResults_float :
    (let i := w 0x68 0x69 0x6A 0x79 0
     let fp (n : Nat) : State := State.withV (mmaLab 0x90 i) [(0, ⟨3, 13, 0, false, false, 0x800, 1, 1, 32, 0, 0, 0, 0⟩), (1, ⟨5, 13, 0, false, false, 0, 1, n, 64, 0, 0, 0, 0⟩), (2, ⟨5, 13, 0, false, false, 0x100, n, 1, 32, 0, 0, 0, 0⟩)]
     let v (f lay : Nat) : View := ⟨5, f, lay, false, false, 0, 1, 64, 64, 0, 0, 0, 0⟩
     let fault (t : Trap) : Bool := match t with | .fault _ _ => true | _ => false
     let joined (op : Nat) (s : State) : State := (s.flushMat 0).joinTeam (lone op (w 0 0 0 0x79 0))
     [[8, 16].all fun n => gives ((joined 0x90 (fp n)).mmaCheck 0x90 i) fun x => x.1.ch == 8 && x.1.a.cols == n, chunkLen false (v 13 0) (v 12 0) == some 8 && chunkLen false (v 11 0) (v 9 0) == some 16,
       (v 9 1).layout != 0 && (v 9 0).layout == 0 && chunkLen false (v 9 1) (v 9 0) == some (v 9 1).bl, chunkLen true (v 1 0) (v 1 0) == some 64 && chunkLen true (v 1 0) (v 2 0) == some 32,
       chunkLen true (v 13 0) (v 2 0) == none && chunkLen false (v 2 0) (v 13 0) == none, fails ((joined 0x90 (mmaLab 0x90 i)).mmaCheck 0x90 i) fault,
       fails ((joined 0x91 (fp 8)).mmaCheck 0x91 i) fault, fails ((joined 0x92 (fp 8)).mmaCheck 0x92 i) fault,
       mmaName 0x90 { i with b := 4, mod := 0x20 } == [4, 5] && gives ((fp 8).uniform (mmaName 0x90 { i with b := 4, mod := 0x20 })) fun _ => true]) = List.replicate 9 true := by decide +kernel

end Sys2Proof.Tests
end

section
/-! What a uniform register shows its threads (R59, R60), and what each special register reads (R61, R62). -/

namespace Sys2Proof.Proofs

open Sys2Proof.Machine Sys2Proof.Laws

section Cells

variable {α : Type}

/-- What older writes show depends on the cell's first value alone. -/
theorem values_go_congr {c d : UCell α} (h : c.base = d.base) (tid : Nat) (ws : List (UWrite α)) :
    UCell.values.go c tid ws = UCell.values.go d tid ws := by
  induction ws with
  | nil => simp only [UCell.values.go, h]
  | cons w ws ih => simp only [UCell.values.go, ih]

/-- A thread that may read the newest write may read older ones only while that write is not certain for it. -/
theorem values_of_hist_cons {c : UCell α} {w : UWrite α} {older : List (UWrite α)} (h : c.hist = w :: older) (tid : Nat) :
    c.values tid = w.val :: (if tid ∈ w.sure then [] else ({ c with hist := older } : UCell α).values tid) := by
  simp only [UCell.values, h, UCell.values.go, List.contains_iff_mem]
  rw [values_go_congr (c := c) (d := { c with hist := older }) rfl]

theorem values_of_hist_nil {c : UCell α} (h : c.hist = []) (tid : Nat) : c.values tid = [c.base] := by
  simp only [UCell.values, h, UCell.values.go]

/-- Of a split of a list at an element: either the element heads the list, or the split lies in the tail. -/
theorem exists_split_cons {β : Type} (P Q : β → Prop) (y : β) (ys : List β) :
    (∃ newer x older, y :: ys = newer ++ x :: older ∧ P x ∧ ∀ z ∈ newer, Q z)
      ↔ P y ∨ Q y ∧ ∃ newer x older, ys = newer ++ x :: older ∧ P x ∧ ∀ z ∈ newer, Q z := by
  constructor
  · rintro ⟨newer, x, older, heq, hx, hq⟩
    cases newer with
    | nil => cases heq; exact .inl hx
    | cons z newer =>
      cases heq
      exact .inr ⟨hq _ List.mem_cons_self, newer, x, older, rfl, hx, fun z hz => hq z (List.mem_cons_of_mem _ hz)⟩
  · rintro (hy | ⟨hqy, newer, x, older, rfl, hx, hq⟩)
    · exact ⟨[], y, ys, rfl, hy, by simp⟩
    · exact ⟨y :: newer, x, older, rfl, hx, List.forall_mem_cons.mpr ⟨hqy, hq⟩⟩

/-- R59: a thread may read a write after which no other is certain for it, or the first value when no write is. -/
theorem mem_values_iff (c : UCell α) (tid : Nat) (v : α) :
    v ∈ c.values tid ↔ (v = c.base ∧ ∀ w ∈ c.hist, tid ∉ w.sure)
      ∨ ∃ newer w older, c.hist = newer ++ w :: older ∧ w.val = v ∧ ∀ x ∈ newer, tid ∉ x.sure := by
  obtain ⟨base, hist⟩ := c
  induction hist with
  | nil => simp [values_of_hist_nil]
  | cons w ws ih =>
    rw [values_of_hist_cons rfl, exists_split_cons (fun w : UWrite α => w.val = v) (fun w => tid ∉ w.sure), List.forall_mem_cons]
    by_cases hw : tid ∈ w.sure
    · simp [hw, eq_comm]
    · simp only [hw, if_false, List.mem_cons, ih, not_false_eq_true, true_and]
      rw [or_left_comm, eq_comm (a := v) (b := w.val)]

theorem values_write_of_mem {tid : Nat} {tids : List Nat} (h : tid ∈ tids) (c : UCell α) (id : Nat) (v : α) :
    (c.write id tids v).values tid = [v] := by
  rw [values_of_hist_cons rfl, if_pos h]

theorem values_write_of_not_mem {tid : Nat} {tids : List Nat} (h : tid ∉ tids) (c : UCell α) (id : Nat) (v : α) :
    (c.write id tids v).values tid = v :: c.values tid := by
  rw [values_of_hist_cons rfl, if_neg h]
  rfl

theorem newest_mem_values (c : UCell α) (tid : Nat) : c.newest ∈ c.values tid := by
  cases h : c.hist with
  | nil => simp [values_of_hist_nil h, UCell.newest, h]
  | cons w ws => simp [values_of_hist_cons h, UCell.newest, h]

theorem choose_mem (d : α) (n : Nat) {xs : List α} (h : xs ≠ []) : choose d n xs ∈ xs := by
  match xs, h with
  | [x], _ => exact List.mem_singleton_self x
  | x :: y :: zs, _ =>
    have hlt : Config.pick n % (x :: y :: zs).length < (x :: y :: zs).length := Nat.mod_lt _ (by simp)
    simp only [choose, nth, List.getElem?_eq_getElem hlt, Option.getD_some]
    exact List.getElem_mem hlt

/-- A read returns one of the values that its thread may read. -/
theorem read_mem_values (c : UCell α) (tid n : Nat) : c.read tid n ∈ c.values tid :=
  choose_mem _ _ (List.ne_nil_of_mem (newest_mem_values c tid))

/-- The writer reads its own write from then on. -/
theorem read_write_self (c : UCell α) (id tid n : Nat) (v : α) : (c.write id [tid] v).read tid n = v := by
  simp only [UCell.read, values_write_of_mem (List.mem_singleton_self tid), choose]

/-- A write as the writes of `ws` leave it when they become certain for the threads `us`. -/
def marked (ws : List (Nat × Nat)) (us : List Nat) (w : UWrite α) : UWrite α :=
  if w.writers.any fun x => ws.any fun p => p.1 == x && decide (w.id < p.2) then { w with sure := union w.sure us } else w

theorem marked_val (ws : List (Nat × Nat)) (us : List Nat) (w : UWrite α) : (marked ws us w).val = w.val := by
  unfold marked
  split <;> rfl

theorem mem_sure_marked {w : UWrite α} {tid n : Nat} (hw : tid ∈ w.writers) (hn : w.id < n) (u : Nat) : u ∈ (marked [(tid, n)] [u] w).sure := by
  have hmade : (w.writers.any fun x => [(tid, n)].any fun p => p.1 == x && decide (w.id < p.2)) = true :=
    List.any_eq_true.mpr ⟨tid, hw, by simp [hn]⟩
  rw [marked, if_pos hmade]
  by_cases hs : u ∈ w.sure <;> simp [union, hs]

theorem certain_eq_cut (c : UCell α) (nthr : Nat) (ws : List (Nat × Nat)) (us : List Nat) :
    c.certain nthr ws us = { base := (UCell.certain.cut nthr (c.hist.map (marked ws us))).2.getD c.base,
                             hist := (UCell.certain.cut nthr (c.hist.map (marked ws us))).1 } := rfl

/-- A write that every thread is certain to see becomes the cell's first value. -/
theorem cut_cons_of_full {nthr : Nat} {w : UWrite α} (h : nthr ≤ w.sure.length) (ws : List (UWrite α)) :
    UCell.certain.cut nthr (w :: ws) = ([], some w.val) := by
  rw [UCell.certain.cut, if_pos h]

theorem cut_cons_of_not_full {nthr : Nat} {w : UWrite α} (h : ¬ nthr ≤ w.sure.length) (ws : List (UWrite α)) :
    UCell.certain.cut nthr (w :: ws) = (w :: (UCell.certain.cut nthr ws).1, (UCell.certain.cut nthr ws).2) := by
  rw [UCell.certain.cut, if_neg h]

/-- Dropping what nobody can read any more keeps the newest value. -/
theorem newest_cut (nthr : Nat) (base : α) (ws : List (UWrite α)) :
    ({ base := (UCell.certain.cut nthr ws).2.getD base, hist := (UCell.certain.cut nthr ws).1 } : UCell α).newest
      = ({ base := base, hist := ws } : UCell α).newest := by
  cases ws with
  | nil => rfl
  | cons w ws =>
    by_cases h : nthr ≤ w.sure.length
    · rw [cut_cons_of_full h]; rfl
    · rw [cut_cons_of_not_full h]; rfl

/-- What becomes certain shuts out only older writes: the newest value stays in front. -/
theorem newest_certain (c : UCell α) (nthr : Nat) (ws : List (Nat × Nat)) (us : List Nat) : (c.certain nthr ws us).newest = c.newest := by
  rw [certain_eq_cut, newest_cut]
  cases h : c.hist with
  | nil => simp only [UCell.newest, h, List.map_nil]
  | cons w older => simp only [UCell.newest, h, List.map_cons, marked_val]

/-- A write that becomes certain for a thread, and after which there is none, is what that thread reads. -/
theorem values_certain_of_newest {c : UCell α} {w : UWrite α} {older : List (UWrite α)} (h : c.hist = w :: older) {tid n : Nat}
    (hw : tid ∈ w.writers) (hn : w.id < n) (nthr u : Nat) : (c.certain nthr [(tid, n)] [u]).values u = [w.val] := by
  rw [certain_eq_cut, h, List.map_cons]
  by_cases hfull : nthr ≤ (marked [(tid, n)] [u] w).sure.length
  · rw [cut_cons_of_full hfull, values_of_hist_nil rfl, Option.getD_some, marked_val]
  · rw [cut_cons_of_not_full hfull, values_of_hist_cons rfl, if_pos (mem_sure_marked hw hn u), marked_val]

end Cells

section Registers

/-- A field of `n` bits in a 32-bit write is the write under the mask of those bits. -/
theorem setWidth_field_eq_and {n : Nat} (hn : n ≤ 32) (v : Word) : (v.setWidth n).setWidth 64 = (v &&& BitVec.ofNat 32 (2 ^ n - 1)).setWidth 64 := by
  have hlt : 2 ^ n - 1 < 2 ^ 32 := by have := Nat.pow_le_pow_right (n := 2) (by decide) hn; omega
  apply BitVec.eq_of_toNat_eq
  simp only [BitVec.toNat_setWidth, BitVec.toNat_and, BitVec.toNat_ofNat, Nat.mod_eq_of_lt hlt, Nat.and_two_pow_sub_one_eq_mod]

theorem cth_setCth {s : State} {t : Nat} (h : s.Runs t) (x : Thread) : (s.setCth x).cth = x := by
  obtain ⟨hcur, ht, _⟩ := h
  rw [cth_of_cur (t := t) (by simpa using hcur), State.setCth, me_of_cur hcur, th_setTh_self x ht]

theorem cco_setCco {s : State} {t : Nat} (h : s.Runs t) (x : Cohort) : (s.setCco x).cco = x := by
  obtain ⟨hcur, _, hc⟩ := h
  rw [cco_of_cur (t := t) (by simpa using hcur), State.setCco, State.cci, cth_of_cur hcur]
  exact co_setCo_self x hc

@[simp] theorem cth_setCco (s : State) (x : Cohort) : (s.setCco x).cth = s.cth := rfl

/-- R62: %fstat reads back the five flags of what was written. -/
theorem special_putSpecial_fstat {s : State} {t : Nat} (h : s.Runs t) (f : Nat) (v : Word) :
    (s.putSpecial 0x91 v).special f 0x91 = (v &&& 0x1F#32).setWidth 64 := by
  simp only [State.putSpecial, State.special, cth_setCth h]
  exact setWidth_field_eq_and (n := 5) (by decide) v

/-- R62: %rmode reads back the two bits of the mode that was written. -/
theorem special_putSpecial_rmode {s : State} {t : Nat} (h : s.Runs t) (f : Nat) (v : Word) :
    (s.putSpecial 0x92 v).special f 0x92 = (v &&& 3#32).setWidth 64 := by
  simp only [State.putSpecial, State.special, cth_setCth h]
  exact setWidth_field_eq_and (n := 2) (by decide) v

/-- R59: the thread that wrote %ftol, %drain or %divcnt reads its own write. -/
theorem special_putSpecial_uniform {s : State} {t : Nat} (h : s.Runs t) (f : Nat) {sel : Nat} (hsel : sel ∈ [0x93, 0x97, 0x98]) (v : Word) :
    (s.putSpecial sel v).special f sel = v.setWidth 64 := by
  simp only [List.mem_cons, List.not_mem_nil, or_false] at hsel
  rcases hsel with rfl | rfl | rfl <;> simp only [State.putSpecial, State.special, cth_setCco, cco_setCco h, read_write_self]

/-- A write of a register that the cohort shares leaves every thread. -/
theorem th_putSpecial_uniform (s : State) {sel : Nat} (hsel : sel ∈ [0x93, 0x97, 0x98]) (v : Word) (u : Nat) : (s.putSpecial sel v).th u = s.th u := by
  simp only [List.mem_cons, List.not_mem_nil, or_false] at hsel
  rcases hsel with rfl | rfl | rfl <;> rfl

/-- %cohx, %cohy and %cohz are the cohort's place in its launch's grid (R26). -/
theorem special_coordinates {s : State} {l : Launch} (h : s.launch s.cco.part s.cco.seq = some l) (f : Nat) :
    s.special f 0x84 = BitVec.ofNat 64 (s.cco.lin % l.lr.gx) ∧ s.special f 0x85 = BitVec.ofNat 64 (s.cco.lin / l.lr.gx % l.lr.gy)
      ∧ s.special f 0x86 = BitVec.ofNat 64 (s.cco.lin / l.lr.gx / l.lr.gy) := by
  simp only [State.special, State.cohXyz, h, coords, and_self]

/-- %gtbhi above %gtblo is the time base (R61). -/
theorem special_timeBase (s : State) (f : Nat) : s.special f 0x8F ++ (s.special f 0x8E).setWidth 32 = (0#32 ++ s.svc.time : BitVec 96) := by
  have hlt := s.svc.time.isLt
  apply BitVec.eq_of_toNat_eq
  simp only [State.special, lo32, hi32, BitVec.toNat_append, BitVec.toNat_setWidth, BitVec.toNat_ushiftRight, BitVec.toNat_ofNat]
  rw [← Nat.shiftLeft_add_eq_or_of_lt (Nat.mod_lt _ (by decide)), ← Nat.shiftLeft_add_eq_or_of_lt hlt]
  simp only [Nat.shiftLeft_eq, Nat.shiftRight_eq_div_pow]
  omega

/-- What a read of each kind of uniform register returns is one of the values that its thread may read (R59). -/
theorem uniform_reads_mem_values (s : State) (f i : Nat) :
    s.kval f i ∈ (s.cco.kc i).values s.cth.tid ∧ s.vval f i ∈ (s.cco.vc i).values s.cth.tid ∧ s.cval f i ∈ (s.cco.cc i).values s.cth.tid
      ∧ s.ctval f i ∈ (s.cco.tc i).values s.cth.tid :=
  ⟨read_mem_values _ _ _, read_mem_values _ _ _, read_mem_values _ _ _, read_mem_values _ _ _⟩

end Registers

/-- Settles O54: the selectors' own fields by definition, the uniform registers through the writes that a thread may read. -/
theorem specialRegisters : Obligations.SpecialRegisters := by
  refine ⟨fun s t f v h => ?_, fun c tid v => ⟨mem_values_iff c tid v, fun id _ ht => values_write_of_mem ht c id v,
      fun id _ ht => values_write_of_not_mem ht c id v⟩,
    fun c nthr tid u w older n hc hw hn => values_certain_of_newest hc hw hn nthr u,
    fun c nthr ws us u => ⟨newest_certain c nthr ws us, newest_certain c nthr ws us ▸ newest_mem_values _ u⟩⟩
  obtain rfl : t = s.me := (me_of_cur h.1).symm
  exact ⟨⟨special_putSpecial_fstat h f v, rfl⟩, ⟨special_putSpecial_rmode h f v, rfl⟩, ⟨rfl, rfl⟩,
    fun _ hsel => ⟨special_putSpecial_uniform h f hsel v, th_putSpecial_uniform s hsel v⟩,
    rfl, rfl, rfl, rfl, rfl, fun _ hl => special_coordinates hl f, rfl, rfl, rfl, rfl, rfl, rfl, special_timeBase s f,
    rfl, rfl, rfl, rfl, rfl, rfl, uniform_reads_mem_values s f⟩

end Sys2Proof.Proofs
end

section
/-! What each event of fetch, migration, homes and the fabric does (R22, R30, R93, R189, R209, R263, R268, R270, R271, R390, R391). -/

namespace Sys2Proof.Proofs

open Sys2Proof.Machine Sys2Proof.Laws

section FetchAndPages

/-- The translation context in which a cohort's core fetches. -/
def fetchCtx (c : Cohort) : Ctx := { agent := .core c.core, part := c.part, core := some c.core, quad := quadOf c.core, seq := some c.seq }

/-- R93: a fill for a live thread of a resident cohort leaves what the fetch leaves. -/
theorem exec_instructionFill {s : State} {coh len : Nat} {pc : DWord} {f : Filled} {s1 : State} (hres : (s.co coh).place = .resident)
    (hth : ∃ t ∈ s.thsOf coh, (s.th t).pc = pc ∧ (s.th t).run ≠ .exited) (hmiss : s.cached (s.co coh).core (s.co coh).part pc = none)
    (hfill : s.fill (fetchCtx (s.co coh)) (s.co coh).core (s.fetchKnown (s.co coh).part (s.co coh).seq) pc = .word f len s1) :
    exec (.instructionFill coh pc) s = .next s1 := by
  have hany : ((s.thsOf coh).any fun t => (s.th t).pc == pc && (s.th t).run != .exited) = true := by simpa using hth
  show execInstructionFill coh pc s = _
  simp only [fetchCtx] at hfill
  simp [execInstructionFill, hres, hany, hmiss, hfill]

theorem any_inRun_iff (ks : List Nat) (base size : Nat) : (ks.any fun k => inRun base size k) = true ↔ ∃ k ∈ ks, base ≤ k ∧ k < base + size := by
  simp [inRun]

/-- R189: a transfer that failed, or that met a poisoned byte, fails the page; a page whose leaf is held stays under way; every other arrives. -/
theorem exec_migrationComplete {s : State} {m : Nat} {x : Migration} (h : s.migrations.find? (fun y => y.id == m) = some x) (ok : Bool) :
    exec (.migrationComplete m ok) s = .next (
      let s0 := { s with migrations := s.migrations.filter fun y => y.id != m }
      if !ok || s.poison.any fun k => inRun (capKey x.leaf.frame) x.leaf.size k then s0.pageFails x
      else if s.leafHeld x then s else s0.pageArrives x) := by
  show execMigrationComplete m ok s = _
  simp only [execMigrationComplete, h]

/-- R189, by what befell the page: the transfer failed, a byte of it is poisoned, its leaf is held, or it arrives. -/
theorem migrationComplete_cases {s : State} {m : Nat} {x : Migration} (h : s.migrations.find? (fun y => y.id == m) = some x) :
    let s0 := { s with migrations := s.migrations.filter fun y => y.id != m }
    let inSrc (k : Nat) : Prop := capKey x.leaf.frame ≤ k ∧ k < capKey x.leaf.frame + x.leaf.size
    exec (.migrationComplete m false) s = .next (s0.pageFails x)
    ∧ ((∃ k ∈ s.poison, inSrc k) → exec (.migrationComplete m true) s = .next (s0.pageFails x))
    ∧ ((∀ k ∈ s.poison, ¬ inSrc k) →
        (s.leafHeld x = false → exec (.migrationComplete m true) s = .next (s0.pageArrives x))
        ∧ (s.leafHeld x = true → exec (.migrationComplete m true) s = .next s)) := by
  intro s0 inSrc
  have hpoison : (s.poison.any fun k => inRun (capKey x.leaf.frame) x.leaf.size k) = true ↔ ∃ k ∈ s.poison, inSrc k := any_inRun_iff _ _ _
  refine ⟨by rw [exec_migrationComplete h]; rfl, fun hp => ?_, fun hp => ?_⟩
  · simp only [exec_migrationComplete h, hpoison.mpr hp, Bool.not_true, Bool.false_or, if_true, s0]
  · have hclean : (s.poison.any fun k => inRun (capKey x.leaf.frame) x.leaf.size k) = false := by
      rw [← Bool.not_eq_true, hpoison]
      exact fun ⟨k, hk, hin⟩ => hp k hk hin
    constructor <;> intro hheld <;> simp only [exec_migrationComplete h, hclean, hheld, Bool.not_true, Bool.or_self, Bool.false_eq_true, if_false, if_true, s0]

theorem failPage_parked {s : State} {t m : Nat} {d : DWord} (h : (s.th t).run = .blocked (.page m d)) :
    s.failPage t = s.takeFault t 0x0A (withCause d 5) := by
  simp only [State.failPage, h]

/-- R22: a refused thread is ready again. -/
theorem exec_requestRetry {s : State} {t : Nat} (h : (s.th t).run = .blocked .retry) : exec (.requestRetry t) s = .next (s.ready t) := by
  show execRequestRetry t s = _
  simp [execRequestRetry, h]

end FetchAndPages

section Homes

/-- R209: a write that no home refuses arrives after the writes ordered before it. -/
theorem exec_writeReachesHome {s : State} {w : Nat} {r : WriteRec} (hrec : s.writeRec w = some r) (hglobal : isGlobal r.key = true)
    (hopen : ∀ k ∈ r.keys, s.refused r.agent { key := k, va := 0, mside := false, enc := false } = false) :
    exec (.writeReachesHome w) s = .next (s.arrive (r.keys.foldl (fun l k =>
      union l (((s.histAt k).writes.filter fun x => x.wid == w).flatMap (·.before))) [w])) := by
  have hany : (r.keys.any fun k => s.refused r.agent { key := k, va := 0, mside := false, enc := false }) = false := by simpa using hopen
  show execWriteReachesHome w s = _
  simp only [execWriteReachesHome, hrec, hglobal, hany, Bool.not_true, Bool.or_self, Bool.false_eq_true, if_false]

/-- R391: a RED executes after the earlier ones of its thread to the same bytes, unless its home refuses one of them. -/
theorem exec_redAtHome {s : State} {r : Nat} {x : PendingRed} (h : s.prov.reds.find? (fun y => y.id == r) = some x) :
    exec (.redAtHome r) s = .next (
      let es := s.prov.reds.filter fun y => y.thread == x.thread && decide (y.id ≤ r) && decide (y.key < x.key + 8) && decide (x.key < y.key + 8)
      if es.any s.redWaits then s else es.foldl State.redNow s) := by
  show execRedAtHome r s = _
  simp only [execRedAtHome, h]

end Homes

section Messages

theorem sendOut_of_sendMsg {s s1 : State} {d : HeldMsg} (h : s.sendMsg d.node d.src d.seq d.len d.msg.via = some s1) : s.sendOut d = s1 := by
  simp only [State.sendOut, h, Option.getD_some]

theorem sendOut_of_none {s : State} {d : HeldMsg} (h : s.sendMsg d.node d.src d.seq d.len d.msg.via = none) :
    s.sendOut d = { s with fabric := { s.fabric with outDue := s.fabric.outDue ++ [d] } } := by
  simp only [State.sendOut, h, Option.getD_none]

/-- With a route, a message leaves exactly when its flits can be counted (R268, R281). -/
theorem sendMsg_of_hasRoute {s : State} {node : Nat} (h : s.hasRoute node = true) (src seq len : Nat) (msg : Nat → Out) :
    s.sendMsg node src seq len msg = (s.countFlits node src seq len).map fun s1 =>
      { s1 with fabric := { s1.fabric with out := s1.fabric.out ++ [msg (s.sendPort node src seq)] } } := by
  simp only [State.sendMsg, h, Bool.not_true, Bool.false_eq_true, if_false]

end Messages

section RemoteRequests

/-- R268, R270: a request for this node is served. -/
theorem exec_remoteRequest_here {s : State} {dest : BitVec 22} (hboot : s.svc.booted = true) (hdest : dest.toNat = s.node) (src : Sender) (seq : BitVec 32)
    (part : Nat) (va : DWord) (kind n : Nat) (mod : BitVec 18) (data : List Byte) :
    exec (.remoteRequest src dest seq part va kind n mod data) s
      = .next (s.serveRemote src.node.toNat src.part src.who seq.toNat part va.toNat kind n mod data src.known) := by
  show execRemoteRequest src dest seq part va kind n mod data s = _
  simp only [execRemoteRequest, State.halted, hboot, hdest, Bool.not_true, Bool.false_eq_true, if_false, if_true]

/-- R268: a request for a node that no port leads to fails. -/
theorem exec_remoteRequest_lost {s : State} {dest : BitVec 22} (hboot : s.svc.booted = true) (hdest : dest.toNat ≠ s.node)
    (hport : s.routePorts dest.toNat = 0) (src : Sender) (seq : BitVec 32) (part : Nat) (va : DWord) (kind n : Nat) (mod : BitVec 18) (data : List Byte) :
    exec (.remoteRequest src dest seq part va kind n mod data) s = .next (s.sendAnswer src.node.toNat seq.toNat 3 0x0A 0 []) := by
  show execRemoteRequest src dest seq part va kind n mod data s = _
  simp only [execRemoteRequest, State.halted, hboot, hdest, hport, Bool.not_true, Bool.false_eq_true, if_false, if_true]

/-- R268, R281: a request for another node is relayed, or refused when its port carries none. -/
theorem exec_remoteRequest_relay {s : State} {dest : BitVec 22} (hboot : s.svc.booted = true) (hdest : dest.toNat ≠ s.node)
    (hport : s.routePorts dest.toNat ≠ 0) (src : Sender) (seq : BitVec 32) (part : Nat) (va : DWord) (kind n : Nat) (mod : BitVec 18) (data : List Byte) :
    exec (.remoteRequest src dest seq part va kind n mod data) s
      = .next ((s.sendMsg dest.toNat src.node.toNat seq.toNat data.length fun port =>
          .forward port src.node.toNat src.part src.who dest.toNat seq.toNat part va.toNat kind n mod data).getD
        (s.sendAnswer src.node.toNat seq.toNat 2 0 0 [])) := by
  show execRemoteRequest src dest seq part va kind n mod data s = _
  simp only [execRemoteRequest, State.halted, hboot, hdest, hport, Bool.not_true, Bool.false_eq_true, if_false]

end RemoteRequests

section Serving

theorem readOnly_iff (kind : Nat) : readOnly kind = true ↔ kind ∈ [0, 4, 5, 8] := by simp [readOnly, or_assoc]

/-- The agent and the translation context of a request that another device makes. -/
def farCtx (src own who part : Nat) : Ctx := { agent := .node src own who, part := part, core := none, quad := 48, seq := none }

/-- The bytes that a request of a kind touches: freeing an index entry speaks of the whole entry. -/
def farLen (kind n : Nat) : Nat := if kind = 7 then max n 16 else n

variable {s : State} {src own seq part who va kind n : Nat} {mod : BitVec 18} {data : List Byte} {known : List Nat}

/-- R270: a request that changes the home is answered from the replay cache when it comes again. -/
theorem serveRemote_replayed {r : Replay} (hkind : kind ∉ [0, 4, 5, 8]) (h : s.fabric.replay.find? (fun r => r.src == src && r.seq == seq) = some r) :
    s.serveRemote src own who seq part va kind n mod data known = s.sendAnswer src seq 0 0 0 r.result := by
  have hro : readOnly kind = false := by rwa [← readOnly_iff, Bool.not_eq_true] at hkind
  simp only [State.serveRemote, hro, h, Bool.false_eq_true, if_false]

/-- A request to execute: a read, or one that the replay cache does not know (R270). -/
def ToExecute (s : State) (src seq kind : Nat) : Prop :=
  kind ∈ [0, 4, 5, 8] ∨ s.fabric.replay.find? (fun r => r.src == src && r.seq == seq) = none

/-- No entry of the replay cache answers a request to execute. -/
theorem replay_none (h : ToExecute s src seq kind) :
    (if readOnly kind then none else s.fabric.replay.find? fun r => r.src == src && r.seq == seq) = none := by
  rcases h with hk | hf
  · rw [if_pos ((readOnly_iff kind).mpr hk)]
  · rw [hf, ite_self]

/-- R260: a request to a partition in a reset is refused. -/
theorem serveRemote_resetting (hreset : s.resetting part = true) (h : ToExecute s src seq kind) :
    s.serveRemote src own who seq part va kind n mod data known = s.sendAnswer src seq 2 0 0 [] := by
  simp only [State.serveRemote, replay_none h, hreset, if_true]

theorem serveRemote_fault (hreset : s.resetting part = false) (h : ToExecute s src seq kind) {code : Nat} {d : DWord}
    (hplace : s.farPlace (farCtx src own who part) va kind (farLen kind n) mod = .error (.fault code d)) :
    s.serveRemote src own who seq part va kind n mod data known = s.sendAnswer src seq 1 code (failedAt d) [] := by
  simp only [farCtx, farLen] at hplace
  simp only [State.serveRemote, replay_none h, hreset, hplace, Bool.false_eq_true, if_false]

theorem serveRemote_waits (hreset : s.resetting part = false) (h : ToExecute s src seq kind) {w w1 : Wait} {q : Req} {s1 : State}
    (hplace : s.farPlace (farCtx src own who part) va kind (farLen kind n) mod = .error (.wait w q))
    (hreq : s.request (farCtx src own who part).agent w q = (.ok w1, s1)) :
    s.serveRemote src own who seq part va kind n mod data known = s1.sendAnswer src seq 2 0 0 [] := by
  simp only [farCtx, farLen] at hplace hreq
  simp only [State.serveRemote, replay_none h, hreset, hplace, hreq, Bool.false_eq_true, if_false]

theorem serveRemote_waitFails (hreset : s.resetting part = false) (h : ToExecute s src seq kind) {w : Wait} {q : Req} {code : Nat} {d : DWord} {s1 : State}
    (hplace : s.farPlace (farCtx src own who part) va kind (farLen kind n) mod = .error (.wait w q))
    (hreq : s.request (farCtx src own who part).agent w q = (.error (code, d), s1)) :
    s.serveRemote src own who seq part va kind n mod data known = s1.sendAnswer src seq 1 code (failedAt d) [] := by
  simp only [farCtx, farLen] at hplace hreq
  simp only [State.serveRemote, replay_none h, hreset, hplace, hreq, Bool.false_eq_true, if_false]

theorem bitOf_toNat {w : Nat} (b : BitVec w) (i : Nat) : bitOf b.toNat i = b.getLsbD i := by
  rw [BitVec.getLsbD, Nat.testBit_eq_decide_div_mod_eq]
  rfl

theorem failedAt_eq (d : DWord) : failedAt d = BitVec.ofNat 64 (d.toNat % 2 ^ 48) := by simp only [failedAt, bitsOf, Nat.pow_zero, Nat.div_one]

/-- An atomic that only tile space may hold, at bytes of which one is memory (R208, R270). -/
def AtomicOnMemory (kind : Nat) (mod : BitVec 18) (ls : List Loc) : Prop := kind = 2 ∧ mod.getLsbD 17 = true ∧ ∃ l ∈ ls, l.mside = false

theorem atomicOnMemory_iff (kind : Nat) (mod : BitVec 18) (ls : List Loc) :
    (kind = 2 && bitOf mod.toNat 17 && ls.any (fun l => !l.mside)) = true ↔ AtomicOnMemory kind mod ls := by
  simp [AtomicOnMemory, bitOf_toNat, and_assoc]

section Placed

variable {ls : List Loc} {s1 : State} (hreset : s.resetting part = false) (h : ToExecute s src seq kind)
  (hplace : s.farPlace (farCtx src own who part) va kind (farLen kind n) mod = .ok (ls, s1))

include hreset h hplace

theorem serveRemote_onMemory (hmem : AtomicOnMemory kind mod ls) :
    s.serveRemote src own who seq part va kind n mod data known = s1.sendAnswer src seq 1 0x08 0 [] := by
  simp only [farCtx, farLen] at hplace
  simp only [State.serveRemote, replay_none h, hreset, hplace, (atomicOnMemory_iff kind mod ls).mpr hmem, Bool.false_eq_true, if_false, if_true]

theorem serveRemote_refused (hmem : ¬ AtomicOnMemory kind mod ls)
    (hwait : (s1.see (farCtx src own who part).agent (s1.madeHere known)).farWaits (farCtx src own who part) ls kind mod = true) :
    s.serveRemote src own who seq part va kind n mod data known = s1.sendAnswer src seq 2 0 0 [] := by
  simp only [farCtx, farLen] at hplace hwait
  simp only [State.serveRemote, replay_none h, hreset, hplace, hwait, mt (atomicOnMemory_iff kind mod ls).mp hmem, Bool.false_eq_true, if_false, if_true]

/-- R270: what the home did is remembered for everything but reads, with the result of an atomic and of a hold. -/
theorem serveRemote_done (hmem : ¬ AtomicOnMemory kind mod ls)
    (hwait : (s1.see (farCtx src own who part).agent (s1.madeHere known)).farWaits (farCtx src own who part) ls kind mod = false) :
    s.serveRemote src own who seq part va kind n mod data known = (
      let r := (s1.see (farCtx src own who part).agent (s1.madeHere known)).homeEffect (farCtx src own who part) src who ls kind n mod data
      (if kind ∈ [0, 4, 5, 8] then r.2 else r.2.remember src seq (if kind = 2 ∨ kind = 6 then r.1 else [])).sendAnswer src seq 0 0 0 r.1) := by
  simp only [farCtx, farLen] at hplace hwait
  simp only [State.serveRemote, replay_none h, hreset, hplace, hwait, mt (atomicOnMemory_iff kind mod ls).mp hmem, Bool.false_eq_true, if_false]
  simp only [readOnly_iff, farCtx, Bool.or_eq_true, decide_eq_true_eq, beq_iff_eq]

end Placed

end Serving

section Answers

/-- R268, R270: an answer for this node acts on the request that it answers, by its kind. -/
theorem exec_remoteAnswer_here {s : State} {h : AnswerHead} {x : RemoteReq} (hdest : h.dest.toNat = s.node)
    (hfind : s.fabric.reqs.find? (fun x => x.node == h.src.toNat && x.seq == h.seq.toNat && x.answer.isNone) = some x)
    (f : BitVec 8) (d : DWord) (data : List Byte) :
    exec (.remoteAnswer h 0 f d data) s = .next (s.answered x 0 0 data (s.farKnown x h.rels h.known))
    ∧ exec (.remoteAnswer h 1 f d data) s = .next (s.answered x (max 1 f.toNat) (remoteDetail x f.toNat d) [] [])
    ∧ exec (.remoteAnswer h 2 f d data) s = .next (s.resend x true)
    ∧ exec (.remoteAnswer h 3 f d data) s = .next (s.answered x 0x0A (remoteLost x.off x.kind) [] []) := by
  have hexec (kind : Nat) : exec (.remoteAnswer h kind f d data) s = execRemoteAnswer h kind f d data s := rfl
  simp only [hexec, execRemoteAnswer, hdest, hfind, ne_eq, not_true_eq_false, if_false, and_self]

/-- R268: an answer for another node is relayed. -/
theorem exec_remoteAnswer_relay {s : State} {h : AnswerHead} (hdest : h.dest.toNat ≠ s.node) (kind : Nat) (f : BitVec 8) (d : DWord) (data : List Byte) :
    exec (.remoteAnswer h kind f d data) s = .next (s.sendOut ⟨h.dest.toNat, h.src.toNat, h.seq.toNat, data.length,
      .answer 0 h.src.toNat h.dest.toNat h.seq.toNat kind f.toNat d data⟩) := by
  show execRemoteAnswer h kind f d data s = _
  simp only [execRemoteAnswer, hdest, ne_eq, not_false_eq_true, if_true]

/-- An answer that no outstanding request awaits changes nothing. -/
theorem exec_remoteAnswer_unasked {s : State} {h : AnswerHead} (hdest : h.dest.toNat = s.node)
    (hnone : ∀ x ∈ s.fabric.reqs, x.node = h.src.toNat → x.seq = h.seq.toNat → x.answer ≠ none)
    (kind : Nat) (f : BitVec 8) (d : DWord) (data : List Byte) : exec (.remoteAnswer h kind f d data) s = .next s := by
  have hfind : s.fabric.reqs.find? (fun x => x.node == h.src.toNat && x.seq == h.seq.toNat && x.answer.isNone) = none := by
    simpa [and_assoc] using hnone
  show execRemoteAnswer h kind f d data s = _
  simp only [execRemoteAnswer, hdest, hfind, ne_eq, not_true_eq_false, if_false]

end Answers

section Requests

/-- R270: 20 µs without an answer. -/
theorem exec_remoteResend {s : State} {r : Nat} {x : RemoteReq} (h : s.findReq r = some x) (hopen : x.answer = none)
    (hdue : x.again + 20000 ≤ s.svc.time.toNat) : exec (.remoteResend r) s = .next (s.resend x false) := by
  show execRemoteResend r s = _
  simp only [execRemoteResend, h, hopen, Option.isSome_none, Nat.not_lt.mpr hdue, decide_false, Bool.or_self, Bool.false_eq_true, if_false]

/-- R270: 10 ms without an answer of any kind. -/
theorem exec_remoteRequestTimeout {s : State} {r : Nat} {x : RemoteReq} (h : s.findReq r = some x) (hopen : x.answer = none)
    (hdue : x.sent + 10 ^ 7 ≤ s.svc.time.toNat) :
    exec (.remoteRequestTimeout r) s = .next (s.answered x 0x0A (remoteLost x.off x.kind) [] []) := by
  show execRemoteRequestTimeout r s = _
  simp only [execRemoteRequestTimeout, h, hopen, Option.isSome_none, Nat.not_lt.mpr hdue, decide_false, Bool.or_self, Bool.false_eq_true, if_false]

theorem resend_undue {s : State} {x : RemoteReq} (h : s.stillDue x = false) (fresh : Bool) : s.resend x fresh = s.dropReq x.id := by
  simp only [State.resend, h, Bool.not_false, if_true]

theorem resend_lost {s : State} {x : RemoteReq} (h : s.stillDue x = true) (hroute : s.hasRoute x.node = false) (fresh : Bool) :
    s.resend x fresh = s.answered x 0x0A (remoteLost x.off x.kind) [] [] := by
  simp only [State.resend, h, hroute, Bool.not_true, Bool.not_false, Bool.false_eq_true, if_false, if_true]

/-- R270: a request that its port carries leaves again with its sequence. -/
theorem resend_sent {s s1 : State} {x : RemoteReq} (h : s.stillDue x = true) (hroute : s.hasRoute x.node = true)
    (hport : s.countFlits x.node s.node x.seq x.data.length = some s1) (fresh : Bool) :
    s.resend x fresh = ({ s1 with fabric := { s1.fabric with
        out := s1.fabric.out ++ [.request (s.sendPort x.node s.node x.seq) x.node x.agent x.seq x.part x.va x.kind x.len x.mod x.data] } } : State).updReq x.id
      fun y => { y with sent := if fresh then s.svc.time.toNat else y.sent, again := s.svc.time.toNat } := by
  simp only [State.resend, h, hroute, sendMsg_of_hasRoute hroute, hport, Option.map_some, Bool.not_true, Bool.false_eq_true, if_false]

/-- R281: a request that its port does not carry waits like one that its home refuses. -/
theorem resend_held {s : State} {x : RemoteReq} (h : s.stillDue x = true) (hroute : s.hasRoute x.node = true)
    (hport : s.countFlits x.node s.node x.seq x.data.length = none) (fresh : Bool) :
    s.resend x fresh = s.updReq x.id fun y => { y with sent := s.svc.time.toNat, again := s.svc.time.toNat } := by
  simp only [State.resend, h, hroute, sendMsg_of_hasRoute hroute, hport, Option.map_none, Bool.not_true, Bool.false_eq_true, if_false]

end Requests

section HostAndPods

/-- R263: a request of the companion processor that its partition admits is answered with the bytes read. -/
theorem exec_companionRequest {s : State} {part heard : Nat} {ptr : DWord} {write order : Bool} {n : Nat} {data b : List Byte} {s1 : State}
    (hboot : s.svc.booted = true) (hpresent : (s.pa part).present = true) (hreset : s.resetting part = false)
    (haccess : (s.hostHears part heard).hostAccess { agent := .host part, part := part, core := none, quad := 48, seq := none } ptr write order n data
      = .ok (b, s1)) :
    exec (.companionRequest ⟨part, heard⟩ ptr write order n data) s = .next ((s1.dropAnswers (.host part)).emit (.host part 0 b)) := by
  show execCompanionRequest ⟨part, heard⟩ ptr write order n data s = _
  simp only [execCompanionRequest, State.halted, hboot, hpresent, hreset, haccess, Bool.not_true, Bool.or_self, Bool.false_eq_true, if_false]

/-- R268: a barrier message for another node is relayed. -/
theorem exec_podBarrierRelease_relay {s : State} {x : PodMsg} (hdest : x.dest ≠ s.node) (part tag : Nat) :
    exec (.podBarrierRelease part tag x) s = .next (s.sendOut ⟨x.dest, x.node, x.id, 0, .barrier 0 x.node x.dest part tag x.id (!x.report)⟩) := by
  show execPodBarrierRelease part tag x s = _
  simp only [execPodBarrierRelease, hdest, ne_eq, not_false_eq_true, if_true]

/-- R271: a release by the pod's lowest node reaches another device of the pod. -/
theorem exec_podBarrierRelease_released {s : State} {tag : Nat} (htag : tag ≠ 0) (hnode : s.node ≠ s.podBase) (part id : Nat) (known : List Nat) :
    exec (.podBarrierRelease part tag ⟨id, s.podBase, s.node, false, known⟩) s = .next (s.podReleased part tag id (s.madeHere known)) := by
  show execPodBarrierRelease part tag ⟨id, s.podBase, s.node, false, known⟩ s = _
  simp only [execPodBarrierRelease, htag, hnode, ne_eq, not_true_eq_false, not_false_eq_true, Bool.false_eq_true, and_self, if_false, if_true]

theorem podReleased_of_not_gone {s : State} {part tag id : Nat} {known : List Nat}
    (h : (s.podComplete (.pod part tag 0 id) known).podGone part tag = false) :
    s.podReleased part tag id known = s.podComplete (.pod part tag 0 id) known := by
  simp only [State.podReleased, h, Bool.not_false, if_true]

/-- R271: the pod's lowest node collects the first report of each other device of the pod. -/
theorem exec_podBarrierRelease_report {s : State} {tag node part id : Nat} (htag : tag ≠ 0) (hbase : s.node = s.podBase) (hpod : s.inPod node = true)
    (hother : node ≠ s.node) (hfirst : ∀ r ∈ s.podReports part tag id, r.node ≠ node) (known : List Nat) :
    exec (.podBarrierRelease part tag ⟨id, node, s.node, true, known⟩) s = .next (({ s with fabric := { s.fabric with reports := s.fabric.reports
      ++ [{ part := part, tag := tag, id := id, node := node, known := s.madeHere known }] } } : State).podCollect (.pod part tag 0 id)) := by
  have hany : ((s.podReports part tag id).any fun r => r.node == node) = false := by simpa using hfirst
  have hne : (s.node != s.podBase) = false := by simpa using hbase
  show execPodBarrierRelease part tag ⟨id, node, s.node, true, known⟩ s = _
  simp only [execPodBarrierRelease, htag, hne, hpod, hother, hany, beq_iff_eq, ne_eq, not_true_eq_false, Bool.not_true, Bool.or_self, Bool.or_false,
    Bool.false_or, if_false, if_true]

end HostAndPods

/-- Settles O57: each event by the lemma that says what it does. -/
theorem fabricAndHomeEvents : Obligations.FabricAndHomeEvents := by
  intro s es
  refine ⟨fun coh pc f len s1 hres hth hmiss hfill => exec_instructionFill hres hth hmiss hfill, fun core => rfl, ?migration, fun t => exec_requestRetry,
    fun w r hrec hglobal hopen => exec_writeReachesHome hrec hglobal hopen, ?redHeld, ?redDone, ?request, ?serve, ?reset,
    fun h x f d data hdest hfind => exec_remoteAnswer_here hdest hfind f d data,
    fun h kind f d data => ⟨fun hdest => exec_remoteAnswer_relay hdest kind f d data,
      fun hdest hnone => exec_remoteAnswer_unasked hdest hnone kind f d data⟩,
    fun r x hfind hopen => ⟨exec_remoteResend hfind hopen, exec_remoteRequestTimeout hfind hopen⟩,
    fun x fresh => ⟨fun h => resend_undue h fresh, fun h hroute => resend_lost h hroute fresh,
      fun h hroute => ⟨fun s1 hport => ⟨_, rfl, resend_sent h hroute hport fresh⟩, fun hport => resend_held h hroute hport fresh⟩⟩,
    fun d => ⟨fun s1 => sendOut_of_sendMsg, sendOut_of_none⟩,
    fun part ptr write order n data heard b s1 => exec_companionRequest,
    fun part tag x hdest => exec_podBarrierRelease_relay hdest part tag, ?pod⟩
  case migration =>
    intro m x hfind s0 inSrc s1 kept failed
    obtain rfl : x.id = m := by simpa using List.find?_some hfind
    obtain ⟨hfailed, hpoisoned, hclean⟩ := migrationComplete_cases hfind
    exact ⟨hfailed, hpoisoned, fun t d => failPage_parked, hclean⟩
  case redHeld =>
    rintro r x hfind ⟨y, hy, hwait⟩
    have hany : (es x r).any s.redWaits = true := List.any_eq_true.mpr ⟨y, hy, hwait⟩
    rw [exec_redAtHome hfind]
    exact congrArg _ (if_pos hany)
  case redDone =>
    intro r x hfind hopen
    have hany : ¬ (es x r).any s.redWaits = true := by simpa using hopen
    rw [exec_redAtHome hfind]
    exact congrArg _ (if_neg hany)
  case request =>
    intro src dest seq part va kind n mod data hboot
    refine ⟨fun hdest => exec_remoteRequest_here hboot hdest .., fun hdest hport => exec_remoteRequest_lost hboot hdest hport ..,
      fun hdest hport => ⟨fun s1 hsend => ?_, fun hsend => ?_⟩⟩ <;> rw [exec_remoteRequest_relay hboot hdest hport]
    · rw [hsend, Option.getD_some]
    · rw [hsend, Option.getD_none]
  case serve =>
    intro src own seq part who va kind n mod data known hreset c bytes
    refine ⟨fun r => serveRemote_replayed, fun h => ⟨fun code d hplace => ?_, fun w q w1 s1 => serveRemote_waits hreset h,
      fun w q code d s1 hplace hreq => ?_,
      fun ls s1 hplace => ⟨serveRemote_onMemory hreset h hplace, serveRemote_refused hreset h hplace, serveRemote_done hreset h hplace⟩⟩⟩
    · rw [← failedAt_eq]
      exact serveRemote_fault hreset h hplace
    · rw [← failedAt_eq]
      exact serveRemote_waitFails hreset h hplace hreq
  case reset =>
    intro part hreset src own seq who va kind n mod data known h
    exact serveRemote_resetting hreset h
  case pod =>
    intro part tag id node known
    refine ⟨fun htag hnode hbase => ?_, podReleased_of_not_gone,
      fun htag hbase hpod hother hfirst => exec_podBarrierRelease_report htag hbase hpod hother hfirst known⟩
    subst hnode
    exact exec_podBarrierRelease_released htag hbase part id known


end Sys2Proof.Proofs
end
